-- ==== Sys2Proof/Word.lean ====
section
/-!
DEFINITION. The word types: bytes, x registers, vector registers and predicates.
-/
namespace Sys2Proof

/-- A byte. -/
abbrev Byte := BitVec 8

/-- A 64-bit x register, control register or address (R125, R243). -/
abbrev Word := BitVec 64

/-- A 512-bit v register (R125, R175). -/
abbrev VReg := BitVec 512

/-- A 16-bit predicate (R125). -/
abbrev PReg := BitVec 16

/-- All ones in 64 bits. -/
def allOnes : Word := BitVec.ofNat 64 (2^64 - 1)

end Sys2Proof
end

