-- ==== Sys2Proof/Config.lean ====
section
/-!
DEFINITION. What an implementation fixes and the spec leaves open. Every constant here is opaque: it has no body, so no proof can
see its value, and a statement that holds, holds for every value it might have. Each has an entry in the assumption log.
-/
namespace Sys2Proof.Config

/-- Free value (log 2): the clock cycles the n-th step of a run takes. -/
opaque elapsed : Nat → Nat

/-- Free value (log 3): the n-th value the spec leaves open that is not tied to anything else. -/
opaque freeNat : Nat → Nat

/-- Free value (log 9): the generation of a barrier group that a change of cuts has made, by the draw and the group. -/
opaque barrierG : Nat → Nat → Nat

/-- Free value (log 10): what the device holds, encrypted, in a far line that no command has written. -/
opaque farDevice : Nat → Nat

/-- Implementation constant (log 14): the nominal voltage in mV of a rail, which R442 measures against and does not give. -/
opaque railNominal : Nat → Nat

/-- Implementation constants (log 97): the part of the attestation key's certificate that is signed, as a big-endian number, by the
public point it certifies; and its length in bytes at a boot. -/
opaque certBody : Nat → Nat
opaque certLength : Nat → Nat

end Sys2Proof.Config
end

