-- ==== Sys2Proof/Syntax.lean ====
section
/-!
DEFINITION. The one inductive of instructions and machine events (opcode_table.json of the spec, one constructor per row).
Constructors of rows 0 to 216 are instructions: their arguments are the fields of the instruction word in the order of
its encoding, with the field's width (a one-bit field is a Bool). Constructors of rows 217 to 312 are the part's own
events (95_what_each_step_holds): they have no encoding, and their arguments say which core, strand, request or unit
the event happens to.
-/
namespace Sys2Proof

/-- One step of the part: an instruction of the Aqist instruction set, or one of the part's own events. -/
inductive Instr where
  /-- ADD (R143): Integer add of x[ra] and x[rb] into x[rd], in 64-bit form or in the .W form. -/
  | add (d a b : BitVec 5) (w : Bool)
  /-- SUB (R143): Integer subtract of x[rb] from x[ra]. -/
  | sub (d a b : BitVec 5) (w : Bool)
  /-- AND (R143): Bitwise AND of two registers. -/
  | and (d a b : BitVec 5) (w : Bool)
  /-- OR (R143): Bitwise OR of two registers. -/
  | or (d a b : BitVec 5) (w : Bool)
  /-- XOR (R143): Bitwise XOR of two registers. -/
  | xor (d a b : BitVec 5) (w : Bool)
  /-- ANDN (R143): x[ra] AND NOT x[rb]. -/
  | andn (d a b : BitVec 5) (w : Bool)
  /-- ORN (R143): x[ra] OR NOT x[rb]. -/
  | orn (d a b : BitVec 5) (w : Bool)
  /-- SLL (R143): Logical shift left by a register amount. -/
  | sll (d a b : BitVec 5) (w : Bool)
  /-- SRL (R143): Logical shift right by a register amount. -/
  | srl (d a b : BitVec 5) (w : Bool)
  /-- SRA (R143): Arithmetic shift right by a register amount. -/
  | sra (d a b : BitVec 5) (w : Bool)
  /-- ROL (R143): Rotate left by a register amount. -/
  | rol (d a b : BitVec 5) (w : Bool)
  /-- ROR (R143): Rotate right by a register amount. -/
  | ror (d a b : BitVec 5) (w : Bool)
  /-- MUL (R143): Low half of the signed product. -/
  | mul (d a b : BitVec 5) (w : Bool)
  /-- MULH (R143): High half of the signed product. -/
  | mulh (d a b : BitVec 5) (w : Bool)
  /-- MULHU (R143): High half of the unsigned product. -/
  | mulhu (d a b : BitVec 5) (w : Bool)
  /-- DIV (R144): Signed division on the core's divider, truncating, with fixed edge results and no trap. -/
  | div (d a b : BitVec 5) (w : Bool)
  /-- DIVU (R144): Unsigned division on the core's divider. -/
  | divu (d a b : BitVec 5) (w : Bool)
  /-- REM (R144): Signed remainder on the core's divider. -/
  | rem (d a b : BitVec 5) (w : Bool)
  /-- REMU (R144): Unsigned remainder on the core's divider. -/
  | remu (d a b : BitVec 5) (w : Bool)
  /-- MIN (R143): Signed minimum of two registers. -/
  | min (d a b : BitVec 5) (w : Bool)
  /-- MAX (R143): Signed maximum of two registers. -/
  | max (d a b : BitVec 5) (w : Bool)
  /-- MINU (R143): Unsigned minimum of two registers. -/
  | minu (d a b : BitVec 5) (w : Bool)
  /-- MAXU (R143): Unsigned maximum of two registers. -/
  | maxu (d a b : BitVec 5) (w : Bool)
  /-- SLT (R143): Set to 1 when x[ra] < x[rb] signed. -/
  | slt (d a b : BitVec 5) (w : Bool)
  /-- SLTU (R143): Set to 1 when x[ra] < x[rb] unsigned. -/
  | sltu (d a b : BitVec 5) (w : Bool)
  /-- CLZ (R143): Count of leading zero bits. -/
  | clz (d a : BitVec 5) (w : Bool)
  /-- CTZ (R143): Count of trailing zero bits. -/
  | ctz (d a : BitVec 5) (w : Bool)
  /-- POPC (R143): Count of one bits. -/
  | popc (d a : BitVec 5) (w : Bool)
  /-- SEXT (R143): Sign-extend the low w bits of x[ra], with w from x[rb]. -/
  | sext (d a b : BitVec 5) (w : Bool)
  /-- ZEXT (R143): Zero-extend the low w bits of x[ra], with w from x[rb]. -/
  | zext (d a b : BitVec 5) (w : Bool)
  /-- BREV (R143): Reverse the bit order of x[ra]. -/
  | brev (d a : BitVec 5) (w : Bool)
  /-- ADDI (R146): Add a sign-extended 15-bit immediate. -/
  | addi (d a : BitVec 5) (i : BitVec 15)
  /-- ANDI (R146): AND with a sign-extended immediate. -/
  | andi (d a : BitVec 5) (i : BitVec 15)
  /-- ORI (R146): OR with a sign-extended immediate. -/
  | ori (d a : BitVec 5) (i : BitVec 15)
  /-- XORI (R146): XOR with a sign-extended immediate. -/
  | xori (d a : BitVec 5) (i : BitVec 15)
  /-- SLLI (R147): Logical shift left by an immediate amount. -/
  | slli (d a : BitVec 5) (n : BitVec 6)
  /-- SRLI (R147): Logical shift right by an immediate amount. -/
  | srli (d a : BitVec 5) (n : BitVec 6)
  /-- SRAI (R147): Arithmetic shift right by an immediate amount. -/
  | srai (d a : BitVec 5) (n : BitVec 6)
  /-- SLTI (R148): Set to 1 when x[ra] < imm signed. -/
  | slti (d a : BitVec 5) (i : BitVec 15)
  /-- LUI (R149): Load a sign-extended 20-bit immediate times 2^15. -/
  | lui (d : BitVec 5) (i : BitVec 20)
  /-- ADDPC (R150): PC plus 4 times a 20-bit displacement. -/
  | addpc (d : BitVec 5) (i : BitVec 20)
  /-- GADDR (R154): Build a GLOBAL address from a coordinate word and a vault offset. -/
  | gaddr (d a b : BitVec 5)
  /-- GCOORD (R155): Decode an address into a coordinate word and an offset. -/
  | gcoord (d a : BitVec 5)
  /-- GNBR (R156): Coordinate word of a neighbour in a direction, or all ones outside the partition. -/
  | gnbr (d a n : BitVec 5)
  /-- GSELF (R157): Own coordinate word with the partition's x0 and width. -/
  | gself (d : BitVec 5)
  /-- BFX (R151): Extract a bit field, optionally sign-extended. -/
  | bfx (d a : BitVec 5) (s : Bool) (w l : BitVec 6)
  /-- BFI (R151): Insert a bit field into x[rd]. -/
  | bfi (d a : BitVec 5) (w l : BitVec 6)
  /-- SEL (R152): Select x[ra] or x[rb] by a condition on x[rc]. -/
  | sel (d a b c k : BitVec 5)
  /-- BEQ (R158): Branch when equal. -/
  | beq (a b : BitVec 5) (d : BitVec 15)
  /-- BNE (R158): Branch when not equal. -/
  | bne (a b : BitVec 5) (d : BitVec 15)
  /-- BLT (R158): Branch when less than, signed. -/
  | blt (a b : BitVec 5) (d : BitVec 15)
  /-- BGE (R158): Branch when greater or equal, signed. -/
  | bge (a b : BitVec 5) (d : BitVec 15)
  /-- BLTU (R158): Branch when less than, unsigned. -/
  | bltu (a b : BitVec 5) (d : BitVec 15)
  /-- BGEU (R158): Branch when greater or equal, unsigned. -/
  | bgeu (a b : BitVec 5) (d : BitVec 15)
  /-- J (R159): Jump by a 25-bit word displacement. -/
  | j (d : BitVec 25)
  /-- JAL (R159): Jump and write PC + 4 to x1. -/
  | jal (d : BitVec 25)
  /-- JALR (R160): Jump to a register plus offset and link into x[rd]. -/
  | jalr (d a : BitVec 5) (i : BitVec 15)
  /-- LOOP (R163): Activate a counted hardware loop, or skip the body on a count of 0. -/
  | loop (n a : BitVec 5) (len : BitVec 16)
  /-- LOOPQ (R166): Wait for a message of a tag and start a hardware loop with its word 0 as the trip count. -/
  | loopq (n a b : BitVec 5) (len : BitVec 16) (tag : BitVec 6)
  /-- FADD (R170): Scalar floating-point add rounded once; under .X it also writes the error term. -/
  | fadd (d a b : BitVec 5) (r : BitVec 3) (x : Bool) (p : BitVec 2)
  /-- FSUB (R170): Scalar floating-point subtract, with the optional .X error term. -/
  | fsub (d a b : BitVec 5) (r : BitVec 3) (x : Bool) (p : BitVec 2)
  /-- FMUL (R170): Scalar floating-point multiply, with the optional .X error term. -/
  | fmul (d a b : BitVec 5) (r : BitVec 3) (x : Bool) (p : BitVec 2)
  /-- FDIV (R170): Scalar floating-point divide on the core's divider. -/
  | fdiv (d a b : BitVec 5) (r : BitVec 3) (p : BitVec 2)
  /-- FSQRT (R170): Scalar floating-point square root on the core's divider. -/
  | fsqrt (d a : BitVec 5) (r : BitVec 3) (p : BitVec 2)
  /-- FMIN (R170): IEEE minimumNumber of two scalars. -/
  | fmin (d a b : BitVec 5) (p : BitVec 2)
  /-- FMAX (R170): IEEE maximumNumber of two scalars. -/
  | fmax (d a b : BitVec 5) (p : BitVec 2)
  /-- FCMP (R171): Compare two scalars into a one-hot relation mask. -/
  | fcmp (d a b : BitVec 5) (p : BitVec 2)
  /-- FCLASS (R171): Classify a scalar into a one-hot class mask. -/
  | fclass (d a : BitVec 5) (p : BitVec 2)
  /-- FMA (R172): Fused multiply-add a × b + c with one rounding. -/
  | fma (d a b c : BitVec 5) (r : BitVec 3) (p : BitVec 2)
  /-- FCVT (R173): Convert between scalar float and integer types. -/
  | fcvt (d a : BitVec 5) (r f t : BitVec 3)
  /-- LD (R258): Load B, H, W, D or Q from NEAR, SELF, GLOBAL or CTRL space. -/
  | ld (d a : BitVec 5) (z : BitVec 3) (i : BitVec 12)
  /-- ST (R258): Store B, H, W, D or Q to NEAR, SELF, GLOBAL or CTRL space. -/
  | st (d a : BitVec 5) (z : BitVec 3) (i : BitVec 12)
  /-- LDA (R259): Aligned load that is an acquire. -/
  | lda (d a : BitVec 5) (z : BitVec 3) (i : BitVec 12)
  /-- STL (R259): Aligned store that is a release and takes deferred faults. -/
  | stl (d a : BitVec 5) (z : BitVec 3) (i : BitVec 12)
  /-- LDFE (R260): Wait until a vault word is FULL and load it. -/
  | ldfe (d a : BitVec 5) (i : BitVec 12)
  /-- LDFE_E (R260): Wait until a vault word is FULL, load it and set it EMPTY in one event. -/
  | ldfeE (d a : BitVec 5) (i : BitVec 12)
  /-- STFE (R260): Wait until a vault word is EMPTY, store it and set it FULL; a release. -/
  | stfe (d a : BitVec 5) (i : BitVec 12)
  /-- STFE_F (R260): Store a vault word and set it FULL without waiting; a release. -/
  | stfeF (d a : BitVec 5) (i : BitVec 12)
  /-- LDV (R262): Vector load of 2^sz bytes, or 64 bytes when sz is 0. -/
  | ldv (d a : BitVec 5) (z : BitVec 3) (i : BitVec 12)
  /-- STV (R262): Vector store of 2^sz bytes, or 64 bytes when sz is 0. -/
  | stv (d a : BitVec 5) (z : BitVec 3) (i : BitVec 12)
  /-- LDVS (R262): Strided vector load, one element event at a time. -/
  | ldvs (d a : BitVec 5) (z : BitVec 3) (i : BitVec 12)
  /-- STVS (R262): Strided vector store. -/
  | stvs (d a : BitVec 5) (z : BitVec 3) (i : BitVec 12)
  /-- LDVG (R262): Vector gather using the lane indices held in vd. -/
  | ldvg (d a : BitVec 5) (z : BitVec 3) (i : BitVec 12)
  /-- STVX (R262): Vector scatter using the lane indices held in vd + 1. -/
  | stvx (d a : BitVec 5) (z : BitVec 3) (i : BitVec 12)
  /-- AMO_ADD (R263): Atomic add at the quay. -/
  | amoAdd (d a b : BitVec 5) (z : BitVec 3)
  /-- AMO_SUB (R263): Atomic subtract at the quay. -/
  | amoSub (d a b : BitVec 5) (z : BitVec 3)
  /-- AMO_AND (R263): Atomic AND at the quay. -/
  | amoAnd (d a b : BitVec 5) (z : BitVec 3)
  /-- AMO_OR (R263): Atomic OR at the quay. -/
  | amoOr (d a b : BitVec 5) (z : BitVec 3)
  /-- AMO_XOR (R263): Atomic XOR at the quay. -/
  | amoXor (d a b : BitVec 5) (z : BitVec 3)
  /-- AMO_MIN (R263): Atomic signed minimum at the quay. -/
  | amoMin (d a b : BitVec 5) (z : BitVec 3)
  /-- AMO_MAX (R263): Atomic signed maximum at the quay. -/
  | amoMax (d a b : BitVec 5) (z : BitVec 3)
  /-- AMO_MINU (R263): Atomic unsigned minimum at the quay. -/
  | amoMinu (d a b : BitVec 5) (z : BitVec 3)
  /-- AMO_MAXU (R263): Atomic unsigned maximum at the quay. -/
  | amoMaxu (d a b : BitVec 5) (z : BitVec 3)
  /-- AMO_SWAP (R263): Atomic swap at the quay. -/
  | amoSwap (d a b : BitVec 5) (z : BitVec 3)
  /-- AMO_ADDSAT (R263): Atomic saturating signed add at the quay; it raises no flag. -/
  | amoAddsat (d a b : BitVec 5) (z : BitVec 3)
  /-- AMO_FADD (R263): Atomic floating-point add at the quay, rounded RNE, with no flag. -/
  | amoFadd (d a b : BitVec 5) (z : BitVec 3)
  /-- AMO_BFADD (R263): Atomic BF16 lane add at the quay. -/
  | amoBfadd (d a b : BitVec 5) (z : BitVec 3)
  /-- CAS (R264): Compare and swap at the quay as one event. -/
  | cas (d a b c : BitVec 5) (z : BitVec 3)
  /-- AMOV (R265): 64-byte vector add at the quay, without returning the old bytes. -/
  | amov (a b : BitVec 5) (g t : BitVec 3)
  /-- AMOV_R (R265): 64-byte vector add at the quay, returning the old bytes into vd. -/
  | amovR (d a b : BitVec 5) (g t : BitVec 3)
  /-- FENCE (R285): Acquire, release, far or engine fence at a scope. -/
  | fence (s : BitVec 2) (e f r q : Bool)
  /-- PBWAIT (R287): Wait in the store queue until PBC or FPBC is at or below a threshold. -/
  | pbwait (a : BitVec 5) (f : Bool)
  /-- RDPB (R287): Read PBC, FPBC, XPB or SPB after every earlier queue entry has left. -/
  | rdpb (d : BitVec 5) (s : BitVec 2)
  /-- VADD (R180): Vector add, lane-guarded. -/
  | vadd (d a b : BitVec 5) (g t : BitVec 3)
  /-- VSUB (R180): Vector subtract. -/
  | vsub (d a b : BitVec 5) (g t : BitVec 3)
  /-- VMUL (R180): Vector multiply. -/
  | vmul (d a b : BitVec 5) (g t : BitVec 3)
  /-- VMA (R180): Vector multiply-add into vd with one rounding. -/
  | vma (d a b : BitVec 5) (g t : BitVec 3)
  /-- VMS (R180): Vector c − a × b with one rounding. -/
  | vms (d a b : BitVec 5) (g t : BitVec 3)
  /-- VMIN (R180): Vector minimum. -/
  | vmin (d a b : BitVec 5) (g t : BitVec 3)
  /-- VMAX (R180): Vector maximum. -/
  | vmax (d a b : BitVec 5) (g t : BitVec 3)
  /-- VABS (R180): Vector absolute value. -/
  | vabs (d a : BitVec 5) (g t : BitVec 3)
  /-- VNEG (R180): Vector negation. -/
  | vneg (d a : BitVec 5) (g t : BitVec 3)
  /-- VAND (R182): Vector bitwise AND per lane. -/
  | vand (d a b : BitVec 5) (g : BitVec 3)
  /-- VOR (R182): Vector bitwise OR per lane. -/
  | vor (d a b : BitVec 5) (g : BitVec 3)
  /-- VXOR (R182): Vector bitwise XOR per lane. -/
  | vxor (d a b : BitVec 5) (g : BitVec 3)
  /-- VSHL (R182): Vector shift left by per-element amounts. -/
  | vshl (d a b : BitVec 5) (g t : BitVec 3)
  /-- VSHR (R182): Vector shift right, arithmetic or logical by type. -/
  | vshr (d a b : BitVec 5) (g t : BitVec 3)
  /-- VCMP (R183): Vector compare into a predicate, one bit per lane. -/
  | vcmp (c : BitVec 2) (p : BitVec 3) (a b : BitVec 5) (g t : BitVec 3)
  /-- VSEL (R182): Select lanes of va or vb by a selector predicate. -/
  | vsel (d a b : BitVec 5) (s : BitVec 3)
  /-- VMOV (R184): Guarded vector move. -/
  | vmov (d a : BitVec 5) (g : BitVec 3)
  /-- VBCAST (R184): Broadcast an x register to every element. -/
  | vbcast (d b : BitVec 5) (g t : BitVec 3)
  /-- VPERM (R184): Permute elements of va by the indices in vb. -/
  | vperm (d a b : BitVec 5) (g t : BitVec 3)
  /-- VSHUF (R184): Two-table shuffle indexed by the old vd. -/
  | vshuf (d a b : BitVec 5) (g t : BitVec 3)
  /-- VSLIDE (R184): Slide elements by a signed register amount. -/
  | vslide (d a b : BitVec 5) (g t : BitVec 3)
  /-- VEXT (R184): Extract one element into an x register. -/
  | vext (d a b : BitVec 5) (t : BitVec 3)
  /-- VINS (R184): Insert an x register into one element. -/
  | vins (d a b : BitVec 5) (g t : BitVec 3)
  /-- VRCP (R185): Correctly rounded vector reciprocal. -/
  | vrcp (d a : BitVec 5) (g t : BitVec 3)
  /-- VRSQ (R185): Correctly rounded vector reciprocal square root. -/
  | vrsq (d a : BitVec 5) (g t : BitVec 3)
  /-- VEXP2 (R185): Correctly rounded vector 2^a. -/
  | vexp2 (d a : BitVec 5) (g t : BitVec 3)
  /-- VLOG2 (R185): Correctly rounded vector log2 a. -/
  | vlog2 (d a : BitVec 5) (g t : BitVec 3)
  /-- VADD_X (R194): Vector exact-pair add: the rounded sum and its error term. -/
  | vaddX (d a b : BitVec 5) (g t : BitVec 3)
  /-- VSUB_X (R194): Vector exact-pair subtract. -/
  | vsubX (d a b : BitVec 5) (g t : BitVec 3)
  /-- VMUL_X (R194): Vector exact-pair multiply. -/
  | vmulX (d a b : BitVec 5) (g t : BitVec 3)
  /-- VDWADD (R196): Double-word pair add by the fixed algorithm. -/
  | vdwadd (d a b : BitVec 5) (g t : BitVec 3)
  /-- VDWMUL (R196): Double-word pair multiply by the fixed algorithm. -/
  | vdwmul (d a b : BitVec 5) (g t : BitVec 3)
  /-- VDWNORM (R196): Renormalise a double-word pair. -/
  | vdwnorm (d a : BitVec 5) (g t : BitVec 3)
  /-- VSUMX (R200): Compensated pair reduction over a fixed tree. -/
  | vsumx (d a : BitVec 5) (g t : BitVec 3)
  /-- VRED (R201): Single-value reduction over a fixed tree. -/
  | vred (d a : BitVec 5) (g t : BitVec 3)
  /-- VCVT (R208): Convert elements between types of equal width. -/
  | vcvt (d a : BitVec 5) (f g t : BitVec 3)
  /-- VPACK (R209): Narrow a pair of F32 registers into a packed image, optionally as an MX block. -/
  | vpack (d a : BitVec 5) (m : Bool) (f : BitVec 4) (g : BitVec 3)
  /-- VUNPK (R213): Widen a packed image or narrow vector into a pair of 32-bit registers. -/
  | vunpk (d a : BitVec 5) (h : Bool) (f : BitVec 4) (g t : BitVec 3)
  /-- VSCALE (R214): Multiply elements by powers of two. -/
  | vscale (d a b : BitVec 5) (g t : BitVec 3)
  /-- VQNT (R215): Quantise 16 F32 lanes into an SBF block. -/
  | vqnt (d a : BitVec 5) (f : BitVec 4) (g : BitVec 3)
  /-- VQNT_DEQ (R216): Dequantise an SBF block into 16 F32 lanes. -/
  | vqntDeq (d a : BitVec 5) (f : BitVec 4) (g : BitVec 3)
  /-- VHAD (R217): Apply enabled Hadamard stages across the elements. -/
  | vhad (d a m : BitVec 5) (g t : BitVec 3) (s : BitVec 4)
  /-- VRAND (R218): Fill elements with Philox words and advance STEP. -/
  | vrand (d a : BitVec 5) (g t : BitVec 3) (w : BitVec 2)
  /-- PAND (R186): Guarded predicate AND. -/
  | pand (d a b : BitVec 5) (g : BitVec 3)
  /-- POR (R186): Guarded predicate OR. -/
  | por (d a b : BitVec 5) (g : BitVec 3)
  /-- PXOR (R186): Guarded predicate XOR. -/
  | pxor (d a b : BitVec 5) (g : BitVec 3)
  /-- PNOT (R186): Guarded predicate NOT. -/
  | pnot (d a : BitVec 5) (g : BitVec 3)
  /-- PSET (R186): Set predicate bits from an x register. -/
  | pset (d a : BitVec 5) (g : BitVec 3)
  /-- PSET_N (R186): Set the low min(n, 16) predicate bits. -/
  | psetN (d a : BitVec 5) (g : BitVec 3)
  /-- PCNT (R186): Count the set bits of pa AND g. -/
  | pcnt (d a : BitVec 5) (g : BitVec 3)
  /-- PFIRST (R186): Index of the first set bit of pa AND g, or 16. -/
  | pfirst (d a : BitVec 5) (g : BitVec 3)
  /-- ATAKE (R221): Take a free accumulator, or report its holder. -/
  | atake (d a : BitVec 5)
  /-- AGIVE (R221): Give back a held accumulator once the unit no longer uses it. -/
  | agive (a : BitVec 5)
  /-- MZERO (R221): Queue a clear of a held accumulator. -/
  | mzero (a : BitVec 5)
  /-- MDESC (R229): Fill a matrix descriptor from two x registers. -/
  | mdesc (d a b : BitVec 5)
  /-- MLD (R230): Queue a snapshot of k-step 0 of a descriptor into a stager slot. -/
  | mld (d : BitVec 5)
  /-- MMA (R232): Queue a matrix multiply-accumulate into an accumulator. -/
  | mma (t a b : BitVec 5) (acc : Bool) (ofmt kb : BitVec 4)
  /-- MDRAIN (R237): Queue a rounded write of an accumulator, with residual and dropout. -/
  | mdrain (t dd b : BitVec 5) (z drop res : Bool) (rc : BitVec 3) (dr : BitVec 2) (q : BitVec 8)
  /-- MXPQ (R240): Queue a requantising transpose of an MX tile. -/
  | mxpq (dd ds a : BitVec 5) (rc : BitVec 3)
  /-- BCOPY (R349): Bulk copy of vault bytes, optionally broadcast over a stream. -/
  | bcopy (d a b : BitVec 5) (bc fe : Bool) (c : BitVec 5) (sem : BitVec 4) (sv : Bool) (vs : BitVec 6)
  /-- BFILL (R349): Bulk fill with a 64-bit pattern, optionally broadcast. -/
  | bfill (d a b : BitVec 5) (bc fe : Bool) (c : BitVec 5) (sem : BitVec 4) (sv : Bool) (vs : BitVec 6)
  /-- BSTRIDE (R349): Bulk strided copy of rows. -/
  | bstride (d a b : BitVec 5) (fe : Bool) (c : BitVec 5) (sem : BitVec 4) (sv : Bool)
  /-- FMGET (R362): Read an SPB and move far rows into the vault. -/
  | fmget (a : BitVec 5) (disp : BitVec 16)
  /-- FMPUT (R362): Read an SPB and move vault rows to far memory. -/
  | fmput (a : BitVec 5) (disp : BitVec 16)
  /-- FMGATH (R363): Gather far elements by index, with optional chase tables. -/
  | fmgath (a : BitVec 5) (disp : BitVec 16)
  /-- FMSCAT (R363): Scatter elements to far memory by index. -/
  | fmscat (a : BitVec 5) (disp : BitVec 16)
  /-- VFLIP (R374): Invert the version selector of the versioned pages of a range at every strait. -/
  | vflip (a b : BitVec 5) (sem : BitVec 4) (sv : Bool)
  /-- SATT (R343): Attach a stream endpoint on a VS. -/
  | satt (d a b : BitVec 5)
  /-- SDET (R343): Detach a stream endpoint. -/
  | sdet (d a : BitVec 5)
  /-- SPUSH (R344): Push lane beats or a block into a stream source. -/
  | spush (d a : BitVec 5) (h : Bool)
  /-- SPULL (R344): Wait for and take the oldest item of a pull sink. -/
  | spull (d a b : BitVec 5) (h : Bool)
  /-- SMARK (R344): Send a STEP or END marker into a stream source. -/
  | smark (a b : BitVec 5) (e : Bool)
  /-- SEND (R298): Send four words as a message; a release at .C. -/
  | send (d a b c e : BitVec 5) (tag : BitVec 6) (dk : BitVec 3)
  /-- SENDV (R298): Send a v register as a message. -/
  | sendv (d a : BitVec 5) (tag : BitVec 6) (dk : BitVec 3)
  /-- RECV (R298): Wait for and take the oldest message of an unbound tag into x registers. -/
  | recv (d a b c e : BitVec 5) (tag : BitVec 6)
  /-- RECVV (R298): Wait for and take a message into a v register. -/
  | recvv (d a : BitVec 5) (tag : BitVec 6)
  /-- PEEK (R298): Count the queued messages of a tag and read word 0 of the oldest. -/
  | peek (d a : BitVec 5) (tag : BitVec 6)
  /-- TFLUSH (R298): Discard the queued messages of a tag. -/
  | tflush (d : BitVec 5) (tag : BitVec 6)
  /-- HSET (R301): Bind a tag to a handler entry on a strand. -/
  | hset (u : Bool) (s : BitVec 2) (a : BitVec 5) (t : BitVec 6)
  /-- HSET_CLR (R301): Empty the binding of a tag. -/
  | hsetClr (t : BitVec 6)
  /-- HRET (R302): End a handler, acting as HALT or HALT.R. -/
  | hret
  /-- HMASK (R303): Exchange the core's dispatch mask. -/
  | hmask (d a : BitVec 5)
  /-- BMASK (R307): Set the core's barrier channel membership. -/
  | bmask (d a : BitVec 5)
  /-- BARV (R307): Arrive at a barrier channel, optionally as a release. -/
  | barv (d c : BitVec 5) (r : Bool)
  /-- BARW (R307): Wait until a channel's generation passes a value; an acquire. -/
  | barw (c b : BitVec 5)
  /-- BART (R307): Test the barrier generation condition without waiting. -/
  | bart (d c b : BitVec 5)
  /-- SEMI (R266): Increment a core semaphore; a release at .C. -/
  | semi (s b : BitVec 5)
  /-- SEMW (R266): Wait for and take a semaphore count; an acquire. -/
  | semw (s b : BitVec 5)
  /-- SEMT (R266): Try to take a semaphore count without waiting. -/
  | semt (d s b : BitVec 5)
  /-- SEMS (R266): Swap a semaphore's value. -/
  | sems (d s b : BitVec 5)
  /-- FECLR (R267): Set consecutive vault words EMPTY. -/
  | feclr (a b : BitVec 5)
  /-- FESET (R267): Set consecutive vault words FULL. -/
  | feset (a b : BitVec 5)
  /-- FORK (R319): Increment the join counter, then push a task record on the deque. -/
  | fork (d a b : BitVec 5)
  /-- JOIN (R320): Wait at the quay until a join counter reads 0; an acquire. -/
  | join (a : BitVec 5)
  /-- TPOP (R321): Pop the bottom task from the own deque, or return all ones. -/
  | tpop (d : BitVec 5)
  /-- TPOP_S (R321): Pop a task, or steal through the steal domains until limited. -/
  | tpopS (d b : BitVec 5)
  /-- STEAL (R322): Send one steal request to a named core and push any record received. -/
  | steal (d a : BitVec 5)
  /-- TDONE (R323): Release, decrement the join counter and halt. -/
  | tdone (a : BitVec 5)
  /-- TDONE_K (R323): Release and decrement the join counter, then continue. -/
  | tdoneK (a : BitVec 5)
  /-- SPAWN (R135): Start the lowest free unbound strand of the core at an entry. -/
  | spawn (d a b : BitVec 5) (g u : Bool)
  /-- HALT (R136): Wait for the counters and loads, give back resources and become FREE. -/
  | halt
  /-- HALT_R (R136): As HALT, but become RETAINED with the registers kept. -/
  | haltR
  /-- YIELD (R137): Give up the next issue turn. -/
  | yield
  /-- WAITEV (R139): Wait for a masked core event or a timeout. -/
  | waitev (d a b : BitVec 5)
  /-- NOP (R414): Do nothing but advance the PC and INSTRET. -/
  | nop
  /-- TRAP (R415): Complete, then enter a software trap with cause 0x010 + n. -/
  | trap (a : BitVec 5) (n : BitVec 4)
  /-- ERET (R417): Return from a trap to EPC and restore the privilege. -/
  | eret
  /-- ERET_P (R417): Resume the held partition from the exempt strand. -/
  | eretP
  /-- BRK (R416): Breakpoint trap at the instruction itself. -/
  | brk (n : BitVec 5)
  /-- PREQ (R418): Request pre-emption of the partition and wait until it is held. -/
  | preq (d : BitVec 5)
  /-- CHART (R419): Read 8 bytes of the expanded chart. -/
  | chart (d a : BitVec 5)
  /-- CSRRD (R140): Read a control register. -/
  | csrrd (d : BitVec 5) (c : BitVec 12)
  /-- CSRWR (R140): Write a control register field by field. -/
  | csrwr (a : BitVec 5) (c : BitVec 12)
  /-- CSRXCH (R140): Read and write a control register as one step. -/
  | csrxch (d a : BitVec 5) (c : BitVec 12)
  /-- STRAND_WAKE (R122): A waiting strand becomes READY when its awaited condition holds. -/
  | strandWake (core strand : Nat)
  /-- PROMOTION (R133): A strand eligible for 60 cycles without issue is promoted. -/
  | promotion (core strand : Nat)
  /-- WAITEV_TIMEOUT (R139): WAITEV's timeout expires and it returns bit 6. -/
  | waitevTimeout (core strand : Nat)
  /-- UNIT_EXECUTE (R222): The matrix unit starts the oldest queued instruction when it falls idle. -/
  | unitExecute (core : Nat)
  /-- MMA_KSTEP (R232): Once its operand data is in, a k-step adds 16 block dot products into AX80. -/
  | mmaKstep (core : Nat)
  /-- QUAY_ADMIT (R250): A quay admits and performs an access in arrival order. -/
  | quayAdmit (req : Nat)
  /-- FE_BUSY_REISSUE (R261): An FE_BUSY access is reissued after 64 cycles. -/
  | feBusyReissue (req : Nat)
  /-- LOAD_RETURN (R252): A load response returns and writes its result, or traps at the load. -/
  | loadReturn (core strand seq : Nat)
  /-- STORE_QUEUE_RELEASE (R252): The store queue releases its oldest entry once earlier loads have returned. -/
  | storeQueueRelease (core strand : Nat)
  /-- WRITE_ACK (R274): An acknowledgement or fault response returns and leaves PBC. -/
  | writeAck (ack : Nat)
  /-- RETRY_REISSUE (R59): After 256 cycles every RETRY-answered access is reissued in issue order. -/
  | retryReissue (core strand : Nat)
  /-- PATROL_SCRUB (R257): Patrol scrub reads and corrects vault words on idle port cycles. -/
  | patrolScrub (core word kind : Nat)
  /-- SEM_INCREMENT (R266): An engine or stream increments a semaphore, saturating with a record. -/
  | semIncrement (core sem : Nat)
  /-- SEND_QUEUE_SEND (R295): The send queue sends an entry once earlier entries to that destination are acknowledged. -/
  | sendQueueSend (core entry : Nat)
  /-- MESSAGE_ACCEPT (R291): A receiving core accepts a message into its buffer with the next arrival number. -/
  | messageAccept (msg : Nat)
  /-- ACCEPTANCE_NOTICE (R295): An acceptance or refusal notice returns to the send queue. -/
  | acceptanceNotice (notice : Nat)
  /-- MESSAGE_RESEND (R295): A refused entry is sent again 32 cycles after its refusal returns. -/
  | messageResend (core entry : Nat)
  /-- REFUSAL_HOLD_EXPIRE (R296): A buffer entry held 64 cycles for a refused sender is released. -/
  | refusalHoldExpire (core : Nat)
  /-- HANDLER_ENTRY (R300): The oldest takeable message starts a handler on an idle bound strand. -/
  | handlerEntry (core strand : Nat)
  /-- BARRIER_PHASE (R305): A barrier group completes a phase, advances G and clears every F. -/
  | barrierPhase (core channel : Nat)
  /-- STEAL_SEND (R316): A core sends a steal request at most once per 32 cycles. -/
  | stealSend (core strand : Nat)
  /-- STEAL_REQUEST (R316): A victim's task unit answers a steal with its oldest record or EMPTY. -/
  | stealRequest (req : Nat)
  /-- STEAL_REPLY (R321): A steal reply reaches the thief and is delivered or pushed. -/
  | stealReply (req : Nat)
  /-- LAUNCH_IDLE_COMPLETE (R327): When every target core is idle the lead core writes DONE and increments DSEM. -/
  | launchIdleComplete (part slot : Nat)
  /-- STREAM_ENTRY_VALIDATE (R331): A write of W0 with VALID 1 checks and reserves the stream entry. -/
  | streamEntryValidate (core vs w0 : Nat)
  /-- STREAM_ENTRY_INVALIDATE (R331): A write of W0 with VALID 0 discards buffers, releases slots and ends attachments. -/
  | streamEntryInvalidate (core vs w0 : Nat)
  /-- STREAM_POSITION (R336): A router combines or forwards a position once every input port has delivered it. -/
  | streamPosition (core vs : Nat)
  /-- SLOT_FREE_NOTICE (R334): A slot-free notice returns a credit to the upstream router. -/
  | slotFreeNotice (notice : Nat)
  /-- STREAM_WATCHDOG (R345): The watchdog expires, marks failed ports and sends FAIL flits. -/
  | streamWatchdog (core vs : Nat)
  /-- SINK_WRITE (R342): A vault sink writes a delivered position at its next data offset. -/
  | sinkWrite (core vs : Nat)
  /-- SINK_END (R346): At END a sink writes its record W2, increments SEM and reports if it is a root. -/
  | sinkEnd (core vs : Nat)
  /-- ROOT_REPORT (R347): A root report updates the completion block; the last writes DONE and increments DSEM. -/
  | rootReport (report : Nat)
  /-- BULK_EXECUTE (R349): The bulk engine starts its oldest command and moves its beats. -/
  | bulkExecute (core beat : Nat)
  /-- ADDRESSED_BEAT (R351): A receiving router writes an addressed broadcast beat. -/
  | addressedBeat (core beat : Nat)
  /-- BULK_END_FLIT (R351): A receiver's writes are performed; it increments SEM and acknowledges. -/
  | bulkEndFlit (core flit : Nat)
  /-- BULK_ACK (R351): A receiver acknowledgement arrives; the last completes the command. -/
  | bulkAck (core ack : Nat)
  /-- RING_GO (R352): A write of GO starts a Halif ring operation, or sets INC. -/
  | ringGo (part slot ring w3 : Nat)
  /-- RING_STEP (R353): An arriving chunk is combined or forwarded by the ring sequencer. -/
  | ringStep (part slot ring : Nat)
  /-- RING_STALL (R353): A 10 ms stall sets INC and poisons the unfinished chunks. -/
  | ringStall (part slot ring : Nat)
  /-- STRAIT_ADMIT (R359): A far command holding a credit is admitted at its strait. -/
  | straitAdmit (cmd : Nat)
  /-- TABLE_WALK (R366): A TLB miss walks the radix table in far memory. -/
  | tableWalk (cmd line : Nat)
  /-- FAR_LINE_COMPLETE (R369): A far line access completes, is checked and is moved. -/
  | farLineComplete (cmd line : Nat)
  /-- FAULT_PWAIT_EXPIRE (R375): A parked command fails when PWAIT expires. -/
  | faultPwaitExpire (part strait idx : Nat)
  /-- ACT_RESUME (R375): A write of ACT 1 retranslates and resumes a parked command. -/
  | actResume (part strait idx : Nat)
  /-- ACT_FAIL (R375): A write of ACT 2 fails a parked command. -/
  | actFail (part strait idx : Nat)
  /-- FAR_COMMAND_COMPLETE (R364): A far command completes, increments SEM and latches any fault. -/
  | farCommandComplete (cmd : Nat)
  /-- LEAF_COMMIT (R372): A write of LEAFW0 commits a leaf, drops TLB entries and replays waiting writes. -/
  | leafCommit (part slot : Nat)
  /-- FLUSH (R371): Every strait of the partition drops its TLB. -/
  | flush (part slot : Nat)
  /-- CNTOP (R378): Gather a page's access counts, shift ACNT and report CNTVAL. -/
  | cntop (part slot : Nat)
  /-- FAR_LINK_DOWN (R396): A strait link drops and its open accesses fault FAR_DEVICE. -/
  | farLinkDown (part strait : Nat)
  /-- FAR_IDE (R396): An IDE integrity check fails on a strait link. -/
  | farIde (part strait : Nat)
  /-- ERROR_RECORD (R400): An error record is logged and written to the partition's ring. -/
  | errorRecord (part : Nat)
  /-- PREEMPT_REQUEST (R401): A write of REQ requests a hold and names the exempt strand. -/
  | preemptRequest (part slot core strand : Nat)
  /-- PREEMPT_STOP (R402): The request reaches a core and its strands stop issuing. -/
  | preemptStop (core : Nat)
  /-- PREEMPT_SAVE (R403): After draining, a core writes its frame and reports; the last report sets HELD. -/
  | preemptSave (core : Nat)
  /-- RES (R410): A write of RES resumes the held partition, restoring every frame. -/
  | res (part slot : Nat)
  /-- CHART_AMENDMENT (R56): The Grefiest controller amends the chart for a fault event, one at a time. -/
  | chartAmendment (part : Nat)
  /-- MOVE_COPY_DONE (R58): The copy completes, the name tables are rewritten and stopped strands resume. -/
  | moveCopyDone (part idx : Nat)
  /-- HOLD_RELEASE (R61): After traffic drains, paths are recomputed and the partition is released. -/
  | holdRelease (part slot : Nat)
  /-- LINK_CRC_EXHAUSTED (R56): CRC retry is exhausted on lanes of a link. -/
  | linkCrcExhausted (part px py link : Nat)
  /-- LINK_RETRY_RATE (R56): The 2^30-cycle retry-rate window finds too many CRC retries. -/
  | linkRetryRate (part px py link : Nat)
  /-- ROUTER_FAILURE (R56): A router reports a parity or arbitration failure. -/
  | routerFailure (part px py : Nat)
  /-- QUAY_FAIL (R56): A quay fails. -/
  | quayFail (part px py : Nat)
  /-- FORM (R424): Form a partition: set reefs, zeroise, assign ports, load firmware and send INIT. -/
  | form (part : Nat)
  /-- TEARDOWN (R425): Tear down a partition, poison far writes, empty keys and zeroise. -/
  | teardown (part : Nat)
  /-- PREEMPT (R421): Host command making the Grefiest request of a hold. -/
  | preempt (part : Nat)
  /-- RESUME (R421): Host command making the Grefiest write of RES. -/
  | resume (part : Nat)
  /-- ATTEST (R432): Produce a signed attestation report with a new ephemeral key. -/
  | attest (part : Nat)
  /-- KEYLOAD (R434): Unwrap a matter key and load it into every strait. -/
  | keyload (part : Nat)
  /-- KEYREVOKE (R435): Revoke a loaded matter key at every strait. -/
  | keyrevoke (part : Nat)
  /-- DOMAIN (R436): Set the domain id, part count and part index. -/
  | domain (part : Nat)
  /-- LOGREAD (R422): Return up to 64 error-log records. -/
  | logread (part : Nat)
  /-- SENSORS (R442): Return the sensor readings. -/
  | sensors (part : Nat)
  /-- PLIMIT (R441): Set the module power limit. -/
  | plimit (part : Nat)
  /-- DOORBELL_LAUNCH (R429): DB = 1 snapshots the launch record and sends event 1, or sets OVR. -/
  | doorbellLaunch (part slot : Nat)
  /-- DOORBELL_SIGNAL (R429): DB = 2 sends event 2 with SIGWORD to the supervisor. -/
  | doorbellSignal (part slot : Nat)
  /-- IRQ (R428): A supervisor write of IRQ sends MSI-X vector 1 + p. -/
  | irq (part slot : Nat)
  /-- NWIN (R326): A CTRL access through a core's near-store window. -/
  | nwin (core offset write data : Nat)
  /-- EXMAP (R326): A write of a core's execute bits, with the start lines protected. -/
  | exmap (core word data : Nat)
  /-- COMPLETION_BLOCK_WRITE (R347): A write of the completion block's ROOTS clears INC and PCNT. -/
  | completionBlockWrite (part slot w0 : Nat)
  /-- REGISTER_WRITE (R13): A write to a register with no row of its own, by its access code. -/
  | registerWrite (part slot addr data : Nat)
  /-- POWER_ON (R430): The boot ROM measures and verifies the firmware and derives keys. -/
  | powerOn (part : Nat)
  /-- POWER_WINDOW (R441): At the end of each 96,000-cycle window the clock is lowered or raised one step. -/
  | powerWindow (part : Nat)
  /-- CURRENT_LIMIT (R32): Reaching the current limit lowers the module clock. -/
  | currentLimit (part : Nat)
  /-- SENSOR_THROTTLE (R442): A sensor passes its throttle limit and the clock is lowered. -/
  | sensorThrottle (part sensor : Nat)
  /-- SENSOR_POWER_OFF (R442): A sensor passes its power-off limit and module power is removed. -/
  | sensorPowerOff (part sensor : Nat)
  /-- HALIF_LINK_FAIL (R439): A failed Halif link is held, rerouted or left unreachable. -/
  | halifLinkFail (part port : Nat)
  /-- HALIF_LINK_TRAIN (R436): A Halif port trains with a matching peer and is confirmed. -/
  | halifLinkTrain (part port : Nat)
  /-- MODULE_POWER_LOSS (R440): Module supply is removed from outside and the module enters OFF, losing every SRAM. -/
  | modulePowerLoss (part : Nat)
  /-- STRAIT_LINK_TRAINING (R356): The Grefiest controller trains a strait's CXL link and enumerates its device, setting UP, RATE, WIDTH and IDE. -/
  | straitLinkTraining (part strait : Nat)
  /-- DYNAMIC_CAPACITY_EXTENT (R356): A dynamic-capacity device offers or releases an extent and the Grefiest controller accepts or releases it. -/
  | dynamicCapacityExtent (part strait : Nat)
  /-- HALIF_LANE_LOSS (R438): A Halif link loses lanes and runs on 4 lanes at half rate. -/
  | halifLaneLoss (part port : Nat)
  /-- HALIF_PEER_CONFIRMATION (R436): The peer part's FORM or TEARDOWN with DOM is confirmed over a Halif port, changing whether that port carries the partition's traffic. -/
  | halifPeerConfirmation (part port : Nat)
  /-- BARRIER_WIRE (R396): A barrier wire fails its check and the Grefiest controller amends the chart with a record. -/
  | barrierWire (part px py : Nat)
  /-- STEAL_LANE (R396): A steal lane fails its check and the Grefiest controller amends the chart with a record. -/
  | stealLane (part px py : Nat)
  /-- BULK_WATCHDOG (R351): The plan's watchdog expires at the source before every receiver has acknowledged, and the broadcast command completes with STREAM_INCOMPLETE. -/
  | bulkWatchdog (core : Nat)
deriving DecidableEq, Repr

end Sys2Proof
end

