-- ==== Sys2Proof/WellFormed.lean ====
section
/-!
DEFINITION. The checks of R72 steps 9 to 11 that remain once a word has been identified (Decode.lean makes steps 5 to 8 and
the must-be-zero part of step 9): register numbers beyond their file (R74), reserved sizes and rounding codes, types the card
does not accept (ILL_TYPE), and odd or zero pairs (R76).
-/
namespace Sys2Proof

/-- Why a word is refused before its operands are looked at (R72 steps 5 to 11, R392). -/
inductive Ill where
  /-- R72 step 5: major 0x00. -/
  | zeroWord
  /-- R72 step 5: major 0x7F. -/
  | onesWord
  /-- R72 step 6, R69: a reserved major. -/
  | major
  /-- R72 step 8: a function value the opcode map does not list. -/
  | function
  /-- R72 step 9: a must-be-zero field, a reserved code or a register beyond its file. -/
  | field
  /-- R72 step 10: a type, precision or size the card does not accept. -/
  | type
  /-- R72 step 11, R76: an odd pair. -/
  | pairOdd
  /-- R72 step 11, R76: the scalar pair (x0, x1). -/
  | pairZero
  /-- Not a cause of the spec: the byte list handed to the decoder ends inside the instruction. -/
  | truncated
deriving DecidableEq, Repr

/-- R76: a register number that cannot begin a pair. -/
def oddReg (r : BitVec 5) : Bool := r.toNat % 2 == 1

/-- R203: the format codes that take the MX flag. -/
def mxCode (f : BitVec 4) : Bool := 3 <= f.toNat && f.toNat <= 8

/-- R207: the pairs of equal width that VCVT accepts, source type first. -/
def vcvtPair (f t : BitVec 3) : Bool :=
  match f.toNat, t.toNat with
  | 0, 4 | 4, 0 | 1, 4 | 4, 1 | 0, 1 | 1, 0 | 4, 4 => true
  | 2, 5 | 5, 2 | 3, 5 | 5, 3 | 2, 6 | 6, 2 | 3, 6 | 6, 3 | 5, 6 | 6, 5 | 2, 3 | 3, 2 | 5, 5 | 6, 6 => true
  | _, _ => false

/-- R231: the selector kind of an MMA operand: 0 octet, 1 descriptor, 2 stager slot, 3 reserved. -/
def selKind (a : BitVec 5) : Nat := a.toNat / 8

/-- R231: reserved selector kind, or selector bit 2 set. -/
def selBad (a : BitVec 5) : Bool := selKind a == 3 || a.toNat / 4 % 2 == 1

/-- R231: an octet source. -/
def selOctet (a : BitVec 5) : Bool := selKind a == 0

/-- R231: a source that holds one k-step only (an octet or a stager slot). -/
def selFixed (a : BitVec 5) : Bool := selKind a == 0 || selKind a == 2

/-- R72 steps 9 to 11 on an identified instruction: the first check that fails, or none. A machine event has none. -/
def check : Instr → Option Ill
  | .add _ _ _ _ => none
  | .sub _ _ _ _ => none
  | .and _ _ _ _ => none
  | .or _ _ _ _ => none
  | .xor _ _ _ _ => none
  | .andn _ _ _ _ => none
  | .orn _ _ _ _ => none
  | .sll _ _ _ _ => none
  | .srl _ _ _ _ => none
  | .sra _ _ _ _ => none
  | .rol _ _ _ _ => none
  | .ror _ _ _ _ => none
  | .mul _ _ _ _ => none
  | .mulh _ _ _ _ => none
  | .mulhu _ _ _ _ => none
  | .div _ _ _ _ => none
  | .divu _ _ _ _ => none
  | .rem _ _ _ _ => none
  | .remu _ _ _ _ => none
  | .min _ _ _ _ => none
  | .max _ _ _ _ => none
  | .minu _ _ _ _ => none
  | .maxu _ _ _ _ => none
  | .slt _ _ _ _ => none
  | .sltu _ _ _ _ => none
  | .clz _ _ _ => none
  | .ctz _ _ _ => none
  | .popc _ _ _ => none
  | .sext _ _ _ _ => none
  | .zext _ _ _ _ => none
  | .brev _ _ _ => none
  | .addi _ _ _ => none
  | .andi _ _ _ => none
  | .ori _ _ _ => none
  | .xori _ _ _ => none
  | .slli _ _ _ => none
  | .srli _ _ _ => none
  | .srai _ _ _ => none
  | .slti _ _ _ => none
  | .lui _ _ => none
  | .addpc _ _ => none
  | .gaddr _ _ _ => none
  | .gcoord _ _ => none
  | .gnbr _ _ n => if 4 <= n.toNat then some .field else none
  | .gself _ => none
  | .bfx _ _ _ _ _ => none
  | .bfi _ _ _ _ => none
  | .sel _ _ _ _ k => if 4 <= k.toNat then some .field else none
  | .beq _ _ _ => none
  | .bne _ _ _ => none
  | .blt _ _ _ => none
  | .bge _ _ _ => none
  | .bltu _ _ _ => none
  | .bgeu _ _ _ => none
  | .j _ => none
  | .jal _ => none
  | .jalr _ _ _ => none
  | .loop n _ _ => if 3 <= n.toNat then some .field else none
  | .loopq n _ _ _ _ => if 3 <= n.toNat then some .field else none
  | .fadd d _ _ r x p => if r == 7 || (x && p == 3) then some .field else if x && oddReg d then some .pairOdd else if x && d == 0 then some .pairZero else none
  | .fsub d _ _ r x p => if r == 7 || (x && p == 3) then some .field else if x && oddReg d then some .pairOdd else if x && d == 0 then some .pairZero else none
  | .fmul d _ _ r x p => if r == 7 || (x && p == 3) then some .field else if x && oddReg d then some .pairOdd else if x && d == 0 then some .pairZero else none
  | .fdiv _ _ _ r _ => if r == 7 then some .field else none
  | .fsqrt _ _ r _ => if r == 7 then some .field else none
  | .fmin _ _ _ _ => none
  | .fmax _ _ _ _ => none
  | .fcmp _ _ _ _ => none
  | .fclass _ _ _ => none
  | .fma _ _ _ _ r _ => if r == 7 then some .field else none
  | .fcvt _ _ r f t => if r == 7 then some .field else if 4 <= f.toNat && 4 <= t.toNat then some .type else none
  | .ld d _ z _ => if 6 <= z.toNat then some .field else if z == 5 then some .type else if z == 4 && oddReg d then some .pairOdd else if z == 4 && d == 0 then some .pairZero else none
  | .st d _ z _ => if 6 <= z.toNat then some .field else if z == 5 then some .type else if z == 4 && oddReg d then some .pairOdd else if z == 4 && d == 0 then some .pairZero else none
  | .lda _ _ z _ => if 6 <= z.toNat then some .field else if 4 <= z.toNat then some .type else none
  | .stl _ _ z _ => if 6 <= z.toNat then some .field else if 4 <= z.toNat then some .type else none
  | .ldfe _ _ _ => none
  | .ldfeE _ _ _ => none
  | .stfe _ _ _ => none
  | .stfeF _ _ _ => none
  | .ldv _ _ z _ => if 6 <= z.toNat then some .field else none
  | .stv _ _ z _ => if 6 <= z.toNat then some .field else none
  | .ldvs _ _ z _ => if 6 <= z.toNat then some .field else none
  | .stvs _ _ z _ => if 6 <= z.toNat then some .field else none
  | .ldvg _ _ z _ => if 6 <= z.toNat then some .field else if 3 <= z.toNat then some .type else none
  | .stvx d _ z _ => if 6 <= z.toNat then some .field else if 3 <= z.toNat then some .type else if oddReg d then some .pairOdd else none
  | .amoAdd _ _ _ z => if 6 <= z.toNat then some .field else if !(z == 2 || z == 3) then some .type else none
  | .amoSub _ _ _ z => if 6 <= z.toNat then some .field else if !(z == 2 || z == 3) then some .type else none
  | .amoAnd _ _ _ z => if 6 <= z.toNat then some .field else if !(z == 2 || z == 3) then some .type else none
  | .amoOr _ _ _ z => if 6 <= z.toNat then some .field else if !(z == 2 || z == 3) then some .type else none
  | .amoXor _ _ _ z => if 6 <= z.toNat then some .field else if !(z == 2 || z == 3) then some .type else none
  | .amoMin _ _ _ z => if 6 <= z.toNat then some .field else if !(z == 2 || z == 3) then some .type else none
  | .amoMax _ _ _ z => if 6 <= z.toNat then some .field else if !(z == 2 || z == 3) then some .type else none
  | .amoMinu _ _ _ z => if 6 <= z.toNat then some .field else if !(z == 2 || z == 3) then some .type else none
  | .amoMaxu _ _ _ z => if 6 <= z.toNat then some .field else if !(z == 2 || z == 3) then some .type else none
  | .amoSwap _ _ _ z => if 6 <= z.toNat then some .field else if !(z == 2 || z == 3) then some .type else none
  | .amoAddsat _ _ _ z => if 6 <= z.toNat then some .field else if !(z == 2 || z == 3) then some .type else none
  | .amoFadd _ _ _ z => if 6 <= z.toNat then some .field else if !(z == 1 || z == 2 || z == 3) then some .type else none
  | .amoBfadd _ _ _ z => if 6 <= z.toNat then some .field else if !(z == 1 || z == 2 || z == 3) then some .type else none
  | .cas _ _ _ _ z => if !(z == 2 || z == 3) then some .type else none
  | .amov _ _ _ _ => none
  | .amovR _ _ _ _ _ => none
  | .fence s e f r q => if s == 3 || (!(q || !(e || f || r || q)) && !(r || !(e || f || r || q)) && !(s == 0)) then some .field else none
  | .pbwait _ _ => none
  | .rdpb _ _ => none
  | .vadd _ _ _ _ _ => none
  | .vsub _ _ _ _ _ => none
  | .vmul _ _ _ _ _ => none
  | .vma _ _ _ _ _ => none
  | .vms _ _ _ _ _ => none
  | .vmin _ _ _ _ _ => none
  | .vmax _ _ _ _ _ => none
  | .vabs _ _ _ t => if t == 1 || t == 3 then some .type else none
  | .vneg _ _ _ t => if t == 1 || t == 3 then some .type else none
  | .vand _ _ _ _ => none
  | .vor _ _ _ _ => none
  | .vxor _ _ _ _ => none
  | .vshl _ _ _ _ t => if t == 4 || t == 5 || t == 6 then some .type else none
  | .vshr _ _ _ _ t => if t == 4 || t == 5 || t == 6 then some .type else none
  | .vcmp _ _ _ _ _ _ => none
  | .vsel _ _ _ _ => none
  | .vmov _ _ _ => none
  | .vbcast _ _ _ _ => none
  | .vperm _ _ _ _ _ => none
  | .vshuf _ _ _ _ _ => none
  | .vslide _ _ _ _ _ => none
  | .vext _ _ _ _ => none
  | .vins _ _ _ _ _ => none
  | .vrcp _ _ _ t => if !(t == 4 || t == 5 || t == 6) then some .type else none
  | .vrsq _ _ _ t => if !(t == 4 || t == 5 || t == 6) then some .type else none
  | .vexp2 _ _ _ t => if !(t == 4 || t == 5 || t == 6) then some .type else none
  | .vlog2 _ _ _ t => if !(t == 4 || t == 5 || t == 6) then some .type else none
  | .vaddX d _ _ _ t => if !(t == 4 || t == 5) then some .type else if oddReg d then some .pairOdd else none
  | .vsubX d _ _ _ t => if !(t == 4 || t == 5) then some .type else if oddReg d then some .pairOdd else none
  | .vmulX d _ _ _ t => if !(t == 4 || t == 5) then some .type else if oddReg d then some .pairOdd else none
  | .vdwadd d a b _ t => if !(t == 4 || t == 5) then some .type else if oddReg d || oddReg a || oddReg b then some .pairOdd else none
  | .vdwmul d a b _ t => if !(t == 4 || t == 5) then some .type else if oddReg d || oddReg a || oddReg b then some .pairOdd else none
  | .vdwnorm d a _ t => if !(t == 4 || t == 5) then some .type else if oddReg d || oddReg a then some .pairOdd else none
  | .vsumx d _ _ t => if !(t == 4 || t == 5) then some .type else if oddReg d then some .pairOdd else none
  | .vred _ _ _ t => if !(t == 4 || t == 5 || t == 6 || t == 0 || t == 1) then some .type else none
  | .vcvt _ _ f _ t => if !vcvtPair f t then some .type else none
  | .vpack _ a m f _ => if m && !mxCode f then some .field else if f == 0 || 9 <= f.toNat then some .type else if oddReg a then some .pairOdd else none
  | .vunpk d _ h f _ t => if h && !(mxCode f || (f == 0 && t == 7)) then some .field else if 9 <= f.toNat || (f == 0 && (t == 0 || t == 1 || t == 4)) || (!(f == 0) && !(t == 4)) then some .type else if oddReg d then some .pairOdd else none
  | .vscale _ _ _ _ t => if !(t == 4 || t == 5 || t == 6) then some .type else none
  | .vqnt _ _ f _ => if !(f == 9 || f == 10 || f == 11) then some .type else none
  | .vqntDeq _ _ f _ => if !(f == 9 || f == 10 || f == 11) then some .type else none
  | .vhad _ _ m _ t _ => if t == 4 && 16 <= m.toNat then some .field else if !(t == 4 || t == 5 || t == 6) then some .type else none
  | .vrand _ _ _ _ _ => none
  | .pand d a b _ => if 8 <= d.toNat || 8 <= a.toNat || 8 <= b.toNat then some .field else none
  | .por d a b _ => if 8 <= d.toNat || 8 <= a.toNat || 8 <= b.toNat then some .field else none
  | .pxor d a b _ => if 8 <= d.toNat || 8 <= a.toNat || 8 <= b.toNat then some .field else none
  | .pnot d a _ => if 8 <= d.toNat || 8 <= a.toNat then some .field else none
  | .pset d _ _ => if 8 <= d.toNat then some .field else none
  | .psetN d _ _ => if 8 <= d.toNat then some .field else none
  | .pcnt _ a _ => if 8 <= a.toNat then some .field else none
  | .pfirst _ a _ => if 8 <= a.toNat then some .field else none
  | .atake _ a => if 8 <= a.toNat then some .field else none
  | .agive a => if 8 <= a.toNat then some .field else none
  | .mzero a => if 8 <= a.toNat then some .field else none
  | .mdesc d _ _ => if 4 <= d.toNat then some .field else none
  | .mld d => if 4 <= d.toNat then some .field else none
  | .mma t a b _ ofmt kb => if 8 <= t.toNat || selBad a || selBad b || (!(kb == 0) && (selFixed a || selFixed b)) || (!(ofmt == 0) && !(selOctet a || selOctet b)) then some .field else if (selOctet a || selOctet b) && !(ofmt == 10 || ofmt == 2) then some .type else none
  | .mdrain t dd _ _ drop res rc dr q => if 8 <= t.toNat || 4 <= dd.toNat || rc == 7 || (!res && !(dr == 0)) || (!drop && !(q == 0)) then some .field else none
  | .mxpq dd ds _ rc => if 4 <= dd.toNat || 4 <= ds.toNat || rc == 7 then some .field else none
  | .bcopy _ _ _ bc _ c _ _ vs => if !bc && (!(c == 0) || !(vs == 0)) then some .field else none
  | .bfill _ _ _ bc _ c _ _ vs => if !bc && (!(c == 0) || !(vs == 0)) then some .field else none
  | .bstride _ _ _ _ _ _ _ => none
  | .fmget _ _ => none
  | .fmput _ _ => none
  | .fmgath _ _ => none
  | .fmscat _ _ => none
  | .vflip _ _ _ _ => none
  | .satt _ _ _ => none
  | .sdet _ _ => none
  | .spush _ _ _ => none
  | .spull _ _ _ _ => none
  | .smark _ _ _ => none
  | .send d _ _ _ _ _ dk => if 5 <= dk.toNat || (dk.toNat < 4 && !(d == 0)) then some .field else none
  | .sendv d _ _ dk => if 5 <= dk.toNat || (dk.toNat < 4 && !(d == 0)) then some .field else none
  | .recv _ _ _ _ _ _ => none
  | .recvv _ _ _ => none
  | .peek _ _ _ => none
  | .tflush _ _ => none
  | .hset _ _ _ _ => none
  | .hsetClr _ => none
  | .hret => none
  | .hmask _ _ => none
  | .bmask _ _ => none
  | .barv _ c _ => if 16 <= c.toNat then some .field else none
  | .barw c _ => if 16 <= c.toNat then some .field else none
  | .bart _ c _ => if 16 <= c.toNat then some .field else none
  | .semi s _ => if 16 <= s.toNat then some .field else none
  | .semw s _ => if 16 <= s.toNat then some .field else none
  | .semt _ s _ => if 16 <= s.toNat then some .field else none
  | .sems _ s _ => if 16 <= s.toNat then some .field else none
  | .feclr _ _ => none
  | .feset _ _ => none
  | .fork _ _ _ => none
  | .join _ => none
  | .tpop _ => none
  | .tpopS _ _ => none
  | .steal _ _ => none
  | .tdone _ => none
  | .tdoneK _ => none
  | .spawn _ _ _ _ _ => none
  | .halt => none
  | .haltR => none
  | .yield => none
  | .waitev _ _ _ => none
  | .nop => none
  | .trap _ _ => none
  | .eret => none
  | .eretP => none
  | .brk _ => none
  | .preq _ => none
  | .chart _ _ => none
  | .csrrd _ _ => none
  | .csrwr _ _ => none
  | .csrxch _ _ _ => none
  | .strandWake _ _ => none
  | .promotion _ _ => none
  | .waitevTimeout _ _ => none
  | .unitExecute _ => none
  | .mmaKstep _ => none
  | .quayAdmit _ => none
  | .feBusyReissue _ => none
  | .loadReturn _ _ _ => none
  | .storeQueueRelease _ _ => none
  | .writeAck _ => none
  | .retryReissue _ _ => none
  | .patrolScrub _ _ _ => none
  | .semIncrement _ _ => none
  | .sendQueueSend _ _ => none
  | .messageAccept _ => none
  | .acceptanceNotice _ => none
  | .messageResend _ _ => none
  | .refusalHoldExpire _ => none
  | .handlerEntry _ _ => none
  | .barrierPhase _ _ => none
  | .stealSend _ _ => none
  | .stealRequest _ => none
  | .stealReply _ => none
  | .launchIdleComplete _ _ => none
  | .streamEntryValidate _ _ _ => none
  | .streamEntryInvalidate _ _ _ => none
  | .streamPosition _ _ => none
  | .slotFreeNotice _ => none
  | .streamWatchdog _ _ => none
  | .sinkWrite _ _ => none
  | .sinkEnd _ _ => none
  | .rootReport _ => none
  | .bulkExecute _ _ => none
  | .addressedBeat _ _ => none
  | .bulkEndFlit _ _ => none
  | .bulkAck _ _ => none
  | .ringGo _ _ _ _ => none
  | .ringStep _ _ _ => none
  | .ringStall _ _ _ => none
  | .straitAdmit _ => none
  | .tableWalk _ _ => none
  | .farLineComplete _ _ => none
  | .faultPwaitExpire _ _ _ => none
  | .actResume _ _ _ => none
  | .actFail _ _ _ => none
  | .farCommandComplete _ => none
  | .leafCommit _ _ => none
  | .flush _ _ => none
  | .cntop _ _ => none
  | .farLinkDown _ _ => none
  | .farIde _ _ => none
  | .errorRecord _ => none
  | .preemptRequest _ _ _ _ => none
  | .preemptStop _ => none
  | .preemptSave _ => none
  | .res _ _ => none
  | .chartAmendment _ => none
  | .moveCopyDone _ _ => none
  | .holdRelease _ _ => none
  | .linkCrcExhausted _ _ _ _ => none
  | .linkRetryRate _ _ _ _ => none
  | .routerFailure _ _ _ => none
  | .quayFail _ _ _ => none
  | .form _ => none
  | .teardown _ => none
  | .preempt _ => none
  | .resume _ => none
  | .attest _ => none
  | .keyload _ => none
  | .keyrevoke _ => none
  | .domain _ => none
  | .logread _ => none
  | .sensors _ => none
  | .plimit _ => none
  | .doorbellLaunch _ _ => none
  | .doorbellSignal _ _ => none
  | .irq _ _ => none
  | .nwin _ _ _ _ => none
  | .exmap _ _ _ => none
  | .completionBlockWrite _ _ _ => none
  | .registerWrite _ _ _ _ => none
  | .powerOn _ => none
  | .powerWindow _ => none
  | .currentLimit _ => none
  | .sensorThrottle _ _ => none
  | .sensorPowerOff _ _ => none
  | .halifLinkFail _ _ => none
  | .halifLinkTrain _ _ => none
  | .modulePowerLoss _ => none
  | .straitLinkTraining _ _ => none
  | .dynamicCapacityExtent _ _ => none
  | .halifLaneLoss _ _ => none
  | .halifPeerConfirmation _ _ => none
  | .barrierWire _ _ _ => none
  | .stealLane _ _ _ => none
  | .bulkWatchdog _ => none

/-- A well-formed instruction: R72 steps 9 to 11 find nothing to refuse. -/
def WellFormed (i : Instr) : Prop := check i = none

/-- R64: the majors that take an extension word. -/
def longMajor (op : Nat) : Bool :=
  op == 0x19 || op == 0x1A || op == 0x53 || op == 0x54 || op == 0x55 || op == 0x58 || op == 0x59 || op == 0x60

end Sys2Proof
end

