-- ==== Sys2Proof/Decode.lean ====
section
/-!
DEFINITION. The decoder, total on any list of bytes, and the encoder. Both are written from the opcode map (R68), the formats
(R65) and the cards' encoding tables. `identify` is R72 steps 5 to 8 and the must-be-zero checks of step 9; the rest of step 9
and steps 10 and 11 are `check` (WellFormed.lean).
-/
namespace Sys2Proof

/-- Bits [lo + n - 1 : lo] of a word. -/
def fld (w lo n : Nat) : BitVec n := BitVec.ofNat n (w / 2^lo)

/-- Bit lo of a word. -/
def bitOf (w lo : Nat) : Bool := w / 2^lo % 2 == 1

/-- R67: bits [lo + n - 1 : lo] of a word are zero. -/
def zero (w lo n : Nat) : Bool := w / 2^lo % 2^n == 0

/-- Bits [lo + n - 1 : lo] of a word hold v. -/
def fieldIs (w lo n v : Nat) : Bool := w / 2^lo % 2^n == v

/-- R67: the instruction when its must-be-zero fields are zero, else ILL_FIELD. -/
def need (b : Bool) (i : Instr) : Except Ill Instr := if b then .ok i else .error .field

/-- Major 0x01 (R68): the function field is bits [5:0]. -/
def dec01 (w : Nat) : Except Ill Instr :=
  match w / 2^0 % 2^6 with
  | 0 => need (zero w 7 3) (.add (fld w 20 5) (fld w 15 5) (fld w 10 5) (bitOf w 6))
  | 1 => need (zero w 7 3) (.sub (fld w 20 5) (fld w 15 5) (fld w 10 5) (bitOf w 6))
  | 2 => need (zero w 7 3) (.and (fld w 20 5) (fld w 15 5) (fld w 10 5) (bitOf w 6))
  | 3 => need (zero w 7 3) (.or (fld w 20 5) (fld w 15 5) (fld w 10 5) (bitOf w 6))
  | 4 => need (zero w 7 3) (.xor (fld w 20 5) (fld w 15 5) (fld w 10 5) (bitOf w 6))
  | 5 => need (zero w 7 3) (.andn (fld w 20 5) (fld w 15 5) (fld w 10 5) (bitOf w 6))
  | 6 => need (zero w 7 3) (.orn (fld w 20 5) (fld w 15 5) (fld w 10 5) (bitOf w 6))
  | 7 => need (zero w 7 3) (.sll (fld w 20 5) (fld w 15 5) (fld w 10 5) (bitOf w 6))
  | 8 => need (zero w 7 3) (.srl (fld w 20 5) (fld w 15 5) (fld w 10 5) (bitOf w 6))
  | 9 => need (zero w 7 3) (.sra (fld w 20 5) (fld w 15 5) (fld w 10 5) (bitOf w 6))
  | 10 => need (zero w 7 3) (.rol (fld w 20 5) (fld w 15 5) (fld w 10 5) (bitOf w 6))
  | 11 => need (zero w 7 3) (.ror (fld w 20 5) (fld w 15 5) (fld w 10 5) (bitOf w 6))
  | 12 => need (zero w 7 3) (.mul (fld w 20 5) (fld w 15 5) (fld w 10 5) (bitOf w 6))
  | 13 => need (zero w 7 3) (.mulh (fld w 20 5) (fld w 15 5) (fld w 10 5) (bitOf w 6))
  | 14 => need (zero w 7 3) (.mulhu (fld w 20 5) (fld w 15 5) (fld w 10 5) (bitOf w 6))
  | 15 => need (zero w 7 3) (.div (fld w 20 5) (fld w 15 5) (fld w 10 5) (bitOf w 6))
  | 16 => need (zero w 7 3) (.divu (fld w 20 5) (fld w 15 5) (fld w 10 5) (bitOf w 6))
  | 17 => need (zero w 7 3) (.rem (fld w 20 5) (fld w 15 5) (fld w 10 5) (bitOf w 6))
  | 18 => need (zero w 7 3) (.remu (fld w 20 5) (fld w 15 5) (fld w 10 5) (bitOf w 6))
  | 19 => need (zero w 7 3) (.min (fld w 20 5) (fld w 15 5) (fld w 10 5) (bitOf w 6))
  | 20 => need (zero w 7 3) (.max (fld w 20 5) (fld w 15 5) (fld w 10 5) (bitOf w 6))
  | 21 => need (zero w 7 3) (.minu (fld w 20 5) (fld w 15 5) (fld w 10 5) (bitOf w 6))
  | 22 => need (zero w 7 3) (.maxu (fld w 20 5) (fld w 15 5) (fld w 10 5) (bitOf w 6))
  | 23 => need (zero w 7 3) (.slt (fld w 20 5) (fld w 15 5) (fld w 10 5) (bitOf w 6))
  | 24 => need (zero w 7 3) (.sltu (fld w 20 5) (fld w 15 5) (fld w 10 5) (bitOf w 6))
  | 25 => need (zero w 7 8) (.clz (fld w 20 5) (fld w 15 5) (bitOf w 6))
  | 26 => need (zero w 7 8) (.ctz (fld w 20 5) (fld w 15 5) (bitOf w 6))
  | 27 => need (zero w 7 8) (.popc (fld w 20 5) (fld w 15 5) (bitOf w 6))
  | 28 => need (zero w 7 3) (.sext (fld w 20 5) (fld w 15 5) (fld w 10 5) (bitOf w 6))
  | 29 => need (zero w 7 3) (.zext (fld w 20 5) (fld w 15 5) (fld w 10 5) (bitOf w 6))
  | 30 => need (zero w 7 8) (.brev (fld w 20 5) (fld w 15 5) (bitOf w 6))
  | _ => .error .function

/-- Major 0x06 (R68): the function field is bits [14:13]. -/
def dec06 (w : Nat) : Except Ill Instr :=
  match w / 2^13 % 2^2 with
  | 0 => need (zero w 6 7) (.slli (fld w 20 5) (fld w 15 5) (fld w 0 6))
  | 1 => need (zero w 6 7) (.srli (fld w 20 5) (fld w 15 5) (fld w 0 6))
  | 2 => need (zero w 6 7) (.srai (fld w 20 5) (fld w 15 5) (fld w 0 6))
  | _ => .error .function

/-- Major 0x0A (R68): the function field is bits [3:0]. -/
def dec0A (w : Nat) : Except Ill Instr :=
  match w / 2^0 % 2^4 with
  | 0 => need (zero w 4 6) (.gaddr (fld w 20 5) (fld w 15 5) (fld w 10 5))
  | 1 => need (zero w 4 11) (.gcoord (fld w 20 5) (fld w 15 5))
  | 2 => need (zero w 4 6) (.gnbr (fld w 20 5) (fld w 15 5) (fld w 10 5))
  | 3 => need (zero w 4 16) (.gself (fld w 20 5))
  | _ => .error .function

/-- Major 0x0B (R68): the function field is bits [14:14]. -/
def dec0B (w : Nat) : Except Ill Instr :=
  match w / 2^14 % 2^1 with
  | 0 => need (zero w 13 1) (.bfx (fld w 20 5) (fld w 15 5) (bitOf w 12) (fld w 6 6) (fld w 0 6))
  | 1 => need (zero w 12 2) (.bfi (fld w 20 5) (fld w 15 5) (fld w 6 6) (fld w 0 6))
  | _ => .error .function

/-- Major 0x20 (R68): the function field is bits [6:3]. -/
def dec20 (w : Nat) : Except Ill Instr :=
  match w / 2^3 % 2^4 with
  | 0 => .ok (.fadd (fld w 20 5) (fld w 15 5) (fld w 10 5) (fld w 7 3) (bitOf w 2) (fld w 0 2))
  | 1 => .ok (.fsub (fld w 20 5) (fld w 15 5) (fld w 10 5) (fld w 7 3) (bitOf w 2) (fld w 0 2))
  | 2 => .ok (.fmul (fld w 20 5) (fld w 15 5) (fld w 10 5) (fld w 7 3) (bitOf w 2) (fld w 0 2))
  | 3 => need (zero w 2 1) (.fdiv (fld w 20 5) (fld w 15 5) (fld w 10 5) (fld w 7 3) (fld w 0 2))
  | 4 => need (zero w 2 1 && zero w 10 5) (.fsqrt (fld w 20 5) (fld w 15 5) (fld w 7 3) (fld w 0 2))
  | 5 => need (zero w 2 1 && zero w 7 3) (.fmin (fld w 20 5) (fld w 15 5) (fld w 10 5) (fld w 0 2))
  | 6 => need (zero w 2 1 && zero w 7 3) (.fmax (fld w 20 5) (fld w 15 5) (fld w 10 5) (fld w 0 2))
  | 7 => need (zero w 2 1 && zero w 7 3) (.fcmp (fld w 20 5) (fld w 15 5) (fld w 10 5) (fld w 0 2))
  | 8 => need (zero w 2 1 && zero w 7 8) (.fclass (fld w 20 5) (fld w 15 5) (fld w 0 2))
  | _ => .error .function

/-- Major 0x34 (R68): the function field is bits [3:0]. -/
def dec34 (w : Nat) : Except Ill Instr :=
  match w / 2^0 % 2^4 with
  | 0 => need (zero w 7 3) (.amoAdd (fld w 20 5) (fld w 15 5) (fld w 10 5) (fld w 4 3))
  | 1 => need (zero w 7 3) (.amoSub (fld w 20 5) (fld w 15 5) (fld w 10 5) (fld w 4 3))
  | 2 => need (zero w 7 3) (.amoAnd (fld w 20 5) (fld w 15 5) (fld w 10 5) (fld w 4 3))
  | 3 => need (zero w 7 3) (.amoOr (fld w 20 5) (fld w 15 5) (fld w 10 5) (fld w 4 3))
  | 4 => need (zero w 7 3) (.amoXor (fld w 20 5) (fld w 15 5) (fld w 10 5) (fld w 4 3))
  | 5 => need (zero w 7 3) (.amoMin (fld w 20 5) (fld w 15 5) (fld w 10 5) (fld w 4 3))
  | 6 => need (zero w 7 3) (.amoMax (fld w 20 5) (fld w 15 5) (fld w 10 5) (fld w 4 3))
  | 7 => need (zero w 7 3) (.amoMinu (fld w 20 5) (fld w 15 5) (fld w 10 5) (fld w 4 3))
  | 8 => need (zero w 7 3) (.amoMaxu (fld w 20 5) (fld w 15 5) (fld w 10 5) (fld w 4 3))
  | 9 => need (zero w 7 3) (.amoSwap (fld w 20 5) (fld w 15 5) (fld w 10 5) (fld w 4 3))
  | 10 => need (zero w 7 3) (.amoAddsat (fld w 20 5) (fld w 15 5) (fld w 10 5) (fld w 4 3))
  | 11 => need (zero w 7 3) (.amoFadd (fld w 20 5) (fld w 15 5) (fld w 10 5) (fld w 4 3))
  | 12 => need (zero w 7 3) (.amoBfadd (fld w 20 5) (fld w 15 5) (fld w 10 5) (fld w 4 3))
  | _ => .error .function

/-- Major 0x38 (R68): the function field is bits [3:0]. -/
def dec38 (w : Nat) : Except Ill Instr :=
  match w / 2^0 % 2^4 with
  | 0 => need (zero w 5 10 && zero w 20 5) (.pbwait (fld w 15 5) (bitOf w 4))
  | 1 => need (zero w 6 14) (.rdpb (fld w 20 5) (fld w 4 2))
  | _ => .error .function

/-- Major 0x40 (R68): the function field is bits [3:0]. -/
def dec40 (w : Nat) : Except Ill Instr :=
  match w / 2^0 % 2^4 with
  | 0 => .ok (.vadd (fld w 20 5) (fld w 15 5) (fld w 10 5) (fld w 7 3) (fld w 4 3))
  | 1 => .ok (.vsub (fld w 20 5) (fld w 15 5) (fld w 10 5) (fld w 7 3) (fld w 4 3))
  | 2 => .ok (.vmul (fld w 20 5) (fld w 15 5) (fld w 10 5) (fld w 7 3) (fld w 4 3))
  | 3 => .ok (.vma (fld w 20 5) (fld w 15 5) (fld w 10 5) (fld w 7 3) (fld w 4 3))
  | 4 => .ok (.vms (fld w 20 5) (fld w 15 5) (fld w 10 5) (fld w 7 3) (fld w 4 3))
  | 5 => .ok (.vmin (fld w 20 5) (fld w 15 5) (fld w 10 5) (fld w 7 3) (fld w 4 3))
  | 6 => .ok (.vmax (fld w 20 5) (fld w 15 5) (fld w 10 5) (fld w 7 3) (fld w 4 3))
  | 7 => need (zero w 10 5) (.vabs (fld w 20 5) (fld w 15 5) (fld w 7 3) (fld w 4 3))
  | 8 => need (zero w 10 5) (.vneg (fld w 20 5) (fld w 15 5) (fld w 7 3) (fld w 4 3))
  | _ => .error .function

/-- Major 0x41 (R68): the function field is bits [3:0]. -/
def dec41 (w : Nat) : Except Ill Instr :=
  match w / 2^0 % 2^4 with
  | 0 => need (zero w 4 3) (.vand (fld w 20 5) (fld w 15 5) (fld w 10 5) (fld w 7 3))
  | 1 => need (zero w 4 3) (.vor (fld w 20 5) (fld w 15 5) (fld w 10 5) (fld w 7 3))
  | 2 => need (zero w 4 3) (.vxor (fld w 20 5) (fld w 15 5) (fld w 10 5) (fld w 7 3))
  | 3 => .ok (.vshl (fld w 20 5) (fld w 15 5) (fld w 10 5) (fld w 7 3) (fld w 4 3))
  | 4 => .ok (.vshr (fld w 20 5) (fld w 15 5) (fld w 10 5) (fld w 7 3) (fld w 4 3))
  | 5 => .ok (.vcmp (fld w 23 2) (fld w 20 3) (fld w 15 5) (fld w 10 5) (fld w 7 3) (fld w 4 3))
  | 6 => need (zero w 4 3) (.vsel (fld w 20 5) (fld w 15 5) (fld w 10 5) (fld w 7 3))
  | _ => .error .function

/-- Major 0x42 (R68): the function field is bits [3:0]. -/
def dec42 (w : Nat) : Except Ill Instr :=
  match w / 2^0 % 2^4 with
  | 0 => need (zero w 4 3 && zero w 10 5) (.vmov (fld w 20 5) (fld w 15 5) (fld w 7 3))
  | 1 => need (zero w 15 5) (.vbcast (fld w 20 5) (fld w 10 5) (fld w 7 3) (fld w 4 3))
  | 2 => .ok (.vperm (fld w 20 5) (fld w 15 5) (fld w 10 5) (fld w 7 3) (fld w 4 3))
  | 3 => .ok (.vshuf (fld w 20 5) (fld w 15 5) (fld w 10 5) (fld w 7 3) (fld w 4 3))
  | 4 => .ok (.vslide (fld w 20 5) (fld w 15 5) (fld w 10 5) (fld w 7 3) (fld w 4 3))
  | 5 => need (zero w 7 3) (.vext (fld w 20 5) (fld w 15 5) (fld w 10 5) (fld w 4 3))
  | 6 => .ok (.vins (fld w 20 5) (fld w 15 5) (fld w 10 5) (fld w 7 3) (fld w 4 3))
  | _ => .error .function

/-- Major 0x43 (R68): the function field is bits [3:0]. -/
def dec43 (w : Nat) : Except Ill Instr :=
  match w / 2^0 % 2^4 with
  | 0 => need (zero w 10 5) (.vrcp (fld w 20 5) (fld w 15 5) (fld w 7 3) (fld w 4 3))
  | 1 => need (zero w 10 5) (.vrsq (fld w 20 5) (fld w 15 5) (fld w 7 3) (fld w 4 3))
  | 2 => need (zero w 10 5) (.vexp2 (fld w 20 5) (fld w 15 5) (fld w 7 3) (fld w 4 3))
  | 3 => need (zero w 10 5) (.vlog2 (fld w 20 5) (fld w 15 5) (fld w 7 3) (fld w 4 3))
  | _ => .error .function

/-- Major 0x44 (R68): the function field is bits [3:0]. -/
def dec44 (w : Nat) : Except Ill Instr :=
  match w / 2^0 % 2^4 with
  | 0 => .ok (.vaddX (fld w 20 5) (fld w 15 5) (fld w 10 5) (fld w 7 3) (fld w 4 3))
  | 1 => .ok (.vsubX (fld w 20 5) (fld w 15 5) (fld w 10 5) (fld w 7 3) (fld w 4 3))
  | 2 => .ok (.vmulX (fld w 20 5) (fld w 15 5) (fld w 10 5) (fld w 7 3) (fld w 4 3))
  | 3 => .ok (.vdwadd (fld w 20 5) (fld w 15 5) (fld w 10 5) (fld w 7 3) (fld w 4 3))
  | 4 => .ok (.vdwmul (fld w 20 5) (fld w 15 5) (fld w 10 5) (fld w 7 3) (fld w 4 3))
  | 5 => need (zero w 10 5) (.vdwnorm (fld w 20 5) (fld w 15 5) (fld w 7 3) (fld w 4 3))
  | 6 => need (zero w 10 5) (.vsumx (fld w 20 5) (fld w 15 5) (fld w 7 3) (fld w 4 3))
  | 7 => need (zero w 10 5) (.vred (fld w 20 5) (fld w 15 5) (fld w 7 3) (fld w 4 3))
  | _ => .error .function

/-- Major 0x45 (R68): the function field is bits [3:0]. -/
def dec45 (w : Nat) : Except Ill Instr :=
  match w / 2^0 % 2^4 with
  | 0 => need (zero w 13 2) (.vcvt (fld w 20 5) (fld w 15 5) (fld w 10 3) (fld w 7 3) (fld w 4 3))
  | 1 => if bitOf w 14 && !mxCode (fld w 10 4) then .error .field else if fieldIs w 4 3 4 then .ok (.vpack (fld w 20 5) (fld w 15 5) (bitOf w 14) (fld w 10 4) (fld w 7 3)) else .error .type
  | 2 => .ok (.vunpk (fld w 20 5) (fld w 15 5) (bitOf w 14) (fld w 10 4) (fld w 7 3) (fld w 4 3))
  | 3 => .ok (.vscale (fld w 20 5) (fld w 15 5) (fld w 10 5) (fld w 7 3) (fld w 4 3))
  | 4 => if fieldIs w 4 3 4 then (if bitOf w 14 then .ok (.vqntDeq (fld w 20 5) (fld w 15 5) (fld w 10 4) (fld w 7 3)) else .ok (.vqnt (fld w 20 5) (fld w 15 5) (fld w 10 4) (fld w 7 3))) else .error .type
  | _ => .error .function

/-- Major 0x48 (R68): the function field is bits [3:0]. -/
def dec48 (w : Nat) : Except Ill Instr :=
  match w / 2^0 % 2^4 with
  | 0 => need (zero w 4 3) (.pand (fld w 20 5) (fld w 15 5) (fld w 10 5) (fld w 7 3))
  | 1 => need (zero w 4 3) (.por (fld w 20 5) (fld w 15 5) (fld w 10 5) (fld w 7 3))
  | 2 => need (zero w 4 3) (.pxor (fld w 20 5) (fld w 15 5) (fld w 10 5) (fld w 7 3))
  | 3 => need (zero w 4 3 && zero w 10 5) (.pnot (fld w 20 5) (fld w 15 5) (fld w 7 3))
  | 4 => if zero w 10 5 then (match w / 2^4 % 2^3 with | 0 => .ok (.pset (fld w 20 5) (fld w 15 5) (fld w 7 3)) | 1 => .ok (.psetN (fld w 20 5) (fld w 15 5) (fld w 7 3)) | _ => .error .field) else .error .field
  | 5 => need (zero w 4 3 && zero w 10 5) (.pcnt (fld w 20 5) (fld w 15 5) (fld w 7 3))
  | 6 => need (zero w 4 3 && zero w 10 5) (.pfirst (fld w 20 5) (fld w 15 5) (fld w 7 3))
  | _ => .error .function

/-- Major 0x50 (R68): the function field is bits [3:0]. -/
def dec50 (w : Nat) : Except Ill Instr :=
  match w / 2^0 % 2^4 with
  | 0 => need (zero w 4 11) (.atake (fld w 20 5) (fld w 15 5))
  | 1 => need (zero w 4 11 && zero w 20 5) (.agive (fld w 15 5))
  | 2 => need (zero w 4 11 && zero w 20 5) (.mzero (fld w 15 5))
  | _ => .error .function

/-- Major 0x58 (R68): the function field is bits [3:0]. -/
def dec58 (w w1 : Nat) : Except Ill Instr :=
  match w / 2^0 % 2^4 with
  | 0 => need (zero w 6 4 && zero w1 16 16) (.bcopy (fld w 20 5) (fld w 15 5) (fld w 10 5) (bitOf w 5) (bitOf w 4) (fld w1 0 5) (fld w1 5 4) (bitOf w1 9) (fld w1 10 6))
  | 1 => need (zero w 6 4 && zero w1 16 16) (.bfill (fld w 20 5) (fld w 15 5) (fld w 10 5) (bitOf w 5) (bitOf w 4) (fld w1 0 5) (fld w1 5 4) (bitOf w1 9) (fld w1 10 6))
  | 2 => need (zero w 5 5 && zero w1 10 22) (.bstride (fld w 20 5) (fld w 15 5) (fld w 10 5) (bitOf w 4) (fld w1 0 5) (fld w1 5 4) (bitOf w1 9))
  | _ => .error .function

/-- Major 0x59 (R68): the function field is bits [3:0]. -/
def dec59 (w w1 : Nat) : Except Ill Instr :=
  match w / 2^0 % 2^4 with
  | 0 => need (zero w 4 11 && zero w 20 5 && zero w1 16 16) (.fmget (fld w 15 5) (fld w1 0 16))
  | 1 => need (zero w 4 11 && zero w 20 5 && zero w1 16 16) (.fmput (fld w 15 5) (fld w1 0 16))
  | 2 => need (zero w 4 11 && zero w 20 5 && zero w1 16 16) (.fmgath (fld w 15 5) (fld w1 0 16))
  | 3 => need (zero w 4 11 && zero w 20 5 && zero w1 16 16) (.fmscat (fld w 15 5) (fld w1 0 16))
  | 4 => need (zero w 4 6 && zero w 20 5 && zero w1 5 27) (.vflip (fld w 15 5) (fld w 10 5) (fld w1 0 4) (bitOf w1 4))
  | _ => .error .function

/-- Major 0x5A (R68): the function field is bits [3:0]. -/
def dec5A (w : Nat) : Except Ill Instr :=
  match w / 2^0 % 2^4 with
  | 0 => need (zero w 4 6) (.satt (fld w 20 5) (fld w 15 5) (fld w 10 5))
  | 1 => need (zero w 4 11) (.sdet (fld w 20 5) (fld w 15 5))
  | 2 => need (zero w 5 10) (.spush (fld w 20 5) (fld w 15 5) (bitOf w 4))
  | 3 => need (zero w 5 5) (.spull (fld w 20 5) (fld w 15 5) (fld w 10 5) (bitOf w 4))
  | 4 => need (zero w 5 5 && zero w 20 5) (.smark (fld w 15 5) (fld w 10 5) (bitOf w 4))
  | _ => .error .function

/-- Major 0x60 (R68): the function field is bits [3:0]. -/
def dec60 (w w1 : Nat) : Except Ill Instr :=
  match w / 2^0 % 2^4 with
  | 0 => need (zero w 4 6 && zero w1 19 13) (.send (fld w 20 5) (fld w 15 5) (fld w 10 5) (fld w1 0 5) (fld w1 5 5) (fld w1 10 6) (fld w1 16 3))
  | 1 => need (zero w 4 11 && zero w1 0 10 && zero w1 19 13) (.sendv (fld w 20 5) (fld w 15 5) (fld w1 10 6) (fld w1 16 3))
  | 2 => need (zero w 4 6 && zero w1 16 16) (.recv (fld w 20 5) (fld w 15 5) (fld w 10 5) (fld w1 0 5) (fld w1 5 5) (fld w1 10 6))
  | 3 => need (zero w 4 11 && zero w1 0 10 && zero w1 16 16) (.recvv (fld w 20 5) (fld w 15 5) (fld w1 10 6))
  | 4 => need (zero w 4 11 && zero w1 0 10 && zero w1 16 16) (.peek (fld w 20 5) (fld w 15 5) (fld w1 10 6))
  | 5 => need (zero w 4 16 && zero w1 0 10 && zero w1 16 16) (.tflush (fld w 20 5) (fld w1 10 6))
  | _ => .error .function

/-- Major 0x61 (R68): the function field is bits [3:0]. -/
def dec61 (w : Nat) : Except Ill Instr :=
  match w / 2^0 % 2^4 with
  | 0 => if bitOf w 23 then need (zero w 10 13 && zero w 24 1) (.hsetClr (fld w 4 6)) else need (zero w 10 5 && zero w 24 1) (.hset (bitOf w 22) (fld w 20 2) (fld w 15 5) (fld w 4 6))
  | 1 => need (zero w 4 21) (.hret)
  | 2 => need (zero w 4 11) (.hmask (fld w 20 5) (fld w 15 5))
  | _ => .error .function

/-- Major 0x62 (R68): the function field is bits [3:0]. -/
def dec62 (w : Nat) : Except Ill Instr :=
  match w / 2^0 % 2^4 with
  | 0 => need (zero w 4 11) (.bmask (fld w 20 5) (fld w 15 5))
  | 1 => need (zero w 5 10) (.barv (fld w 20 5) (fld w 15 5) (bitOf w 4))
  | 2 => need (zero w 4 6 && zero w 20 5) (.barw (fld w 15 5) (fld w 10 5))
  | 3 => need (zero w 4 6) (.bart (fld w 20 5) (fld w 15 5) (fld w 10 5))
  | _ => .error .function

/-- Major 0x63 (R68): the function field is bits [3:0]. -/
def dec63 (w : Nat) : Except Ill Instr :=
  match w / 2^0 % 2^4 with
  | 0 => need (zero w 4 6 && zero w 20 5) (.semi (fld w 15 5) (fld w 10 5))
  | 1 => need (zero w 4 6 && zero w 20 5) (.semw (fld w 15 5) (fld w 10 5))
  | 2 => need (zero w 4 6) (.semt (fld w 20 5) (fld w 15 5) (fld w 10 5))
  | 3 => need (zero w 4 6) (.sems (fld w 20 5) (fld w 15 5) (fld w 10 5))
  | 4 => need (zero w 4 6 && zero w 20 5) (.feclr (fld w 15 5) (fld w 10 5))
  | 5 => need (zero w 4 6 && zero w 20 5) (.feset (fld w 15 5) (fld w 10 5))
  | _ => .error .function

/-- Major 0x64 (R68): the function field is bits [3:0]. -/
def dec64 (w : Nat) : Except Ill Instr :=
  match w / 2^0 % 2^4 with
  | 0 => need (zero w 4 6) (.fork (fld w 20 5) (fld w 15 5) (fld w 10 5))
  | 1 => need (zero w 4 11 && zero w 20 5) (.join (fld w 15 5))
  | 2 => if bitOf w 4 then need (zero w 5 5 && zero w 15 5) (.tpopS (fld w 20 5) (fld w 10 5)) else need (zero w 5 15) (.tpop (fld w 20 5))
  | 3 => need (zero w 4 11) (.steal (fld w 20 5) (fld w 15 5))
  | 4 => if bitOf w 4 then need (zero w 5 10 && zero w 20 5) (.tdoneK (fld w 15 5)) else need (zero w 5 10 && zero w 20 5) (.tdone (fld w 15 5))
  | _ => .error .function

/-- Major 0x65 (R68): the function field is bits [3:0]. -/
def dec65 (w : Nat) : Except Ill Instr :=
  match w / 2^0 % 2^4 with
  | 0 => need (zero w 6 4) (.spawn (fld w 20 5) (fld w 15 5) (fld w 10 5) (bitOf w 5) (bitOf w 4))
  | 1 => if bitOf w 4 then need (zero w 5 20) (.haltR) else need (zero w 5 20) (.halt)
  | 2 => need (zero w 4 21) (.yield)
  | 3 => need (zero w 4 6) (.waitev (fld w 20 5) (fld w 15 5) (fld w 10 5))
  | _ => .error .function

/-- Major 0x70 (R68): the function field is bits [3:0]. -/
def dec70 (w : Nat) : Except Ill Instr :=
  match w / 2^0 % 2^4 with
  | 0 => need (zero w 4 21) (.nop)
  | 1 => need (zero w 8 7 && zero w 20 5) (.trap (fld w 15 5) (fld w 4 4))
  | 2 => if bitOf w 4 then need (zero w 5 20) (.eretP) else need (zero w 5 20) (.eret)
  | 3 => need (zero w 9 16) (.brk (fld w 4 5))
  | 4 => need (zero w 4 16) (.preq (fld w 20 5))
  | 5 => need (zero w 4 11) (.chart (fld w 20 5) (fld w 15 5))
  | _ => .error .function

/-- Major 0x71 (R68): the function field is bits [14:13]. -/
def dec71 (w : Nat) : Except Ill Instr :=
  match w / 2^13 % 2^2 with
  | 0 => need (zero w 12 1 && zero w 15 5) (.csrrd (fld w 20 5) (fld w 0 12))
  | 1 => need (zero w 12 1 && zero w 20 5) (.csrwr (fld w 15 5) (fld w 0 12))
  | 2 => need (zero w 12 1) (.csrxch (fld w 20 5) (fld w 15 5) (fld w 0 12))
  | _ => .error .function

/-- R72 steps 5 to 9 on word 0 and the extension word (0 when the major takes none). -/
def identify (w w1 : Nat) : Except Ill Instr :=
  match w / 2^25 % 2^7 with
  | 0x00 => .error .zeroWord
  | 0x7F => .error .onesWord
  | 0x01 => dec01 w
  | 0x02 => .ok (.addi (fld w 20 5) (fld w 15 5) (fld w 0 15))
  | 0x03 => .ok (.andi (fld w 20 5) (fld w 15 5) (fld w 0 15))
  | 0x04 => .ok (.ori (fld w 20 5) (fld w 15 5) (fld w 0 15))
  | 0x05 => .ok (.xori (fld w 20 5) (fld w 15 5) (fld w 0 15))
  | 0x06 => dec06 w
  | 0x07 => .ok (.slti (fld w 20 5) (fld w 15 5) (fld w 0 15))
  | 0x08 => .ok (.lui (fld w 20 5) (fld w 0 20))
  | 0x09 => .ok (.addpc (fld w 20 5) (fld w 0 20))
  | 0x0A => dec0A w
  | 0x0B => dec0B w
  | 0x0C => .ok (.sel (fld w 20 5) (fld w 15 5) (fld w 10 5) (fld w 5 5) (fld w 0 5))
  | 0x10 => .ok (.beq (fld w 20 5) (fld w 15 5) (fld w 0 15))
  | 0x11 => .ok (.bne (fld w 20 5) (fld w 15 5) (fld w 0 15))
  | 0x12 => .ok (.blt (fld w 20 5) (fld w 15 5) (fld w 0 15))
  | 0x13 => .ok (.bge (fld w 20 5) (fld w 15 5) (fld w 0 15))
  | 0x14 => .ok (.bltu (fld w 20 5) (fld w 15 5) (fld w 0 15))
  | 0x15 => .ok (.bgeu (fld w 20 5) (fld w 15 5) (fld w 0 15))
  | 0x16 => .ok (.j (fld w 0 25))
  | 0x17 => .ok (.jal (fld w 0 25))
  | 0x18 => .ok (.jalr (fld w 20 5) (fld w 15 5) (fld w 0 15))
  | 0x19 => need (zero w 0 15 && zero w1 16 16) (.loop (fld w 20 5) (fld w 15 5) (fld w1 0 16))
  | 0x1A => need (zero w 0 10 && zero w1 22 10) (.loopq (fld w 20 5) (fld w 15 5) (fld w 10 5) (fld w1 0 16) (fld w1 16 6))
  | 0x20 => dec20 w
  | 0x21 => .ok (.fma (fld w 20 5) (fld w 15 5) (fld w 10 5) (fld w 5 5) (fld w 2 3) (fld w 0 2))
  | 0x22 => need (zero w 6 1 && zero w 10 5) (.fcvt (fld w 20 5) (fld w 15 5) (fld w 7 3) (fld w 3 3) (fld w 0 3))
  | 0x28 => .ok (.ld (fld w 20 5) (fld w 15 5) (fld w 12 3) (fld w 0 12))
  | 0x29 => .ok (.st (fld w 20 5) (fld w 15 5) (fld w 12 3) (fld w 0 12))
  | 0x2A => .ok (.lda (fld w 20 5) (fld w 15 5) (fld w 12 3) (fld w 0 12))
  | 0x2B => .ok (.stl (fld w 20 5) (fld w 15 5) (fld w 12 3) (fld w 0 12))
  | 0x2C => match w / 2^12 % 2^3 with | 3 => .ok (.ldfe (fld w 20 5) (fld w 15 5) (fld w 0 12)) | 2 => .ok (.ldfeE (fld w 20 5) (fld w 15 5) (fld w 0 12)) | 6 => .error .field | 7 => .error .field | _ => .error .type
  | 0x2D => match w / 2^12 % 2^3 with | 3 => .ok (.stfe (fld w 20 5) (fld w 15 5) (fld w 0 12)) | 2 => .ok (.stfeF (fld w 20 5) (fld w 15 5) (fld w 0 12)) | 6 => .error .field | 7 => .error .field | _ => .error .type
  | 0x2E => .ok (.ldv (fld w 20 5) (fld w 15 5) (fld w 12 3) (fld w 0 12))
  | 0x2F => .ok (.stv (fld w 20 5) (fld w 15 5) (fld w 12 3) (fld w 0 12))
  | 0x30 => .ok (.ldvs (fld w 20 5) (fld w 15 5) (fld w 12 3) (fld w 0 12))
  | 0x31 => .ok (.stvs (fld w 20 5) (fld w 15 5) (fld w 12 3) (fld w 0 12))
  | 0x32 => .ok (.ldvg (fld w 20 5) (fld w 15 5) (fld w 12 3) (fld w 0 12))
  | 0x33 => .ok (.stvx (fld w 20 5) (fld w 15 5) (fld w 12 3) (fld w 0 12))
  | 0x34 => dec34 w
  | 0x35 => need (zero w 3 2) (.cas (fld w 20 5) (fld w 15 5) (fld w 10 5) (fld w 5 5) (fld w 0 3))
  | 0x36 => if bitOf w 0 then need (zero w 1 3) (.amovR (fld w 20 5) (fld w 15 5) (fld w 10 5) (fld w 7 3) (fld w 4 3)) else need (zero w 1 3 && zero w 20 5) (.amov (fld w 15 5) (fld w 10 5) (fld w 7 3) (fld w 4 3))
  | 0x37 => need (zero w 6 19) (.fence (fld w 4 2) (bitOf w 3) (bitOf w 2) (bitOf w 1) (bitOf w 0))
  | 0x38 => dec38 w
  | 0x40 => dec40 w
  | 0x41 => dec41 w
  | 0x42 => dec42 w
  | 0x43 => dec43 w
  | 0x44 => dec44 w
  | 0x45 => dec45 w
  | 0x46 => .ok (.vhad (fld w 20 5) (fld w 15 5) (fld w 10 5) (fld w 7 3) (fld w 4 3) (fld w 0 4))
  | 0x47 => need (zero w 2 2 && zero w 10 5) (.vrand (fld w 20 5) (fld w 15 5) (fld w 7 3) (fld w 4 3) (fld w 0 2))
  | 0x48 => dec48 w
  | 0x50 => dec50 w
  | 0x51 => need (zero w 0 10) (.mdesc (fld w 20 5) (fld w 15 5) (fld w 10 5))
  | 0x52 => need (zero w 0 20) (.mld (fld w 20 5))
  | 0x53 => need (zero w 1 9 && zero w1 8 24) (.mma (fld w 20 5) (fld w 15 5) (fld w 10 5) (bitOf w 0) (fld w1 0 4) (fld w1 4 4))
  | 0x54 => need (zero w 3 7 && zero w1 13 19) (.mdrain (fld w 20 5) (fld w 15 5) (fld w 10 5) (bitOf w 2) (bitOf w 1) (bitOf w 0) (fld w1 0 3) (fld w1 3 2) (fld w1 5 8))
  | 0x55 => need (zero w 0 10 && zero w1 3 29) (.mxpq (fld w 20 5) (fld w 15 5) (fld w 10 5) (fld w1 0 3))
  | 0x58 => dec58 w w1
  | 0x59 => dec59 w w1
  | 0x5A => dec5A w
  | 0x60 => dec60 w w1
  | 0x61 => dec61 w
  | 0x62 => dec62 w
  | 0x63 => dec63 w
  | 0x64 => dec64 w
  | 0x65 => dec65 w
  | 0x70 => dec70 w
  | 0x71 => dec71 w
  | _ => .error .major

/-- R8, R63: a word from its four bytes, least significant first. -/
def wordOf (b0 b1 b2 b3 : BitVec 8) : Nat := b0.toNat + b1.toNat * 2^8 + b2.toNat * 2^16 + b3.toNat * 2^24

/-- The four bytes of a word, least significant first. -/
def wordBytes (w : Nat) : List (BitVec 8) :=
  [BitVec.ofNat 8 w, BitVec.ofNat 8 (w / 2^8), BitVec.ofNat 8 (w / 2^16), BitVec.ofNat 8 (w / 2^24)]

/-- The instruction at the head of a byte list with the bytes after it; total on any bytes, refusing by name. -/
def decode : List (BitVec 8) → Except Ill (Instr × List (BitVec 8))
  | b0 :: b1 :: b2 :: b3 :: rest =>
    let w := wordOf b0 b1 b2 b3
    if longMajor (w / 2^25 % 2^7) then
      match rest with
      | c0 :: c1 :: c2 :: c3 :: rest' => (identify w (wordOf c0 c1 c2 c3)).map (·, rest')
      | _ => .error .truncated
    else (identify w 0).map (·, rest)
  | _ => .error .truncated

/-- The instruction whose bits are w, numbered as the opcode table numbers them: bit 0 is the least significant bit of
word 0 and the extension word begins at bit 32. Bits above nbits are zero. -/
def decodeTableWord (nbits w : Nat) : Option Instr :=
  let v := w % 2^nbits
  match decode (wordBytes (v % 2^32) ++ wordBytes (v / 2^32 % 2^32)) with
  | .ok (i, _) => some i
  | .error _ => none

/-- One bit as a number. -/
def bn (b : Bool) : Nat := if b then 1 else 0

/-- The word of ADD. -/
def encAdd (d a b : BitVec 5) (w : Bool) : Nat :=
  0x2000000 + d.toNat * 2^20 + a.toNat * 2^15 + b.toNat * 2^10 + bn w * 2^6
/-- The word of SUB. -/
def encSub (d a b : BitVec 5) (w : Bool) : Nat :=
  0x2000001 + d.toNat * 2^20 + a.toNat * 2^15 + b.toNat * 2^10 + bn w * 2^6
/-- The word of AND. -/
def encAnd (d a b : BitVec 5) (w : Bool) : Nat :=
  0x2000002 + d.toNat * 2^20 + a.toNat * 2^15 + b.toNat * 2^10 + bn w * 2^6
/-- The word of OR. -/
def encOr (d a b : BitVec 5) (w : Bool) : Nat :=
  0x2000003 + d.toNat * 2^20 + a.toNat * 2^15 + b.toNat * 2^10 + bn w * 2^6
/-- The word of XOR. -/
def encXor (d a b : BitVec 5) (w : Bool) : Nat :=
  0x2000004 + d.toNat * 2^20 + a.toNat * 2^15 + b.toNat * 2^10 + bn w * 2^6
/-- The word of ANDN. -/
def encAndn (d a b : BitVec 5) (w : Bool) : Nat :=
  0x2000005 + d.toNat * 2^20 + a.toNat * 2^15 + b.toNat * 2^10 + bn w * 2^6
/-- The word of ORN. -/
def encOrn (d a b : BitVec 5) (w : Bool) : Nat :=
  0x2000006 + d.toNat * 2^20 + a.toNat * 2^15 + b.toNat * 2^10 + bn w * 2^6
/-- The word of SLL. -/
def encSll (d a b : BitVec 5) (w : Bool) : Nat :=
  0x2000007 + d.toNat * 2^20 + a.toNat * 2^15 + b.toNat * 2^10 + bn w * 2^6
/-- The word of SRL. -/
def encSrl (d a b : BitVec 5) (w : Bool) : Nat :=
  0x2000008 + d.toNat * 2^20 + a.toNat * 2^15 + b.toNat * 2^10 + bn w * 2^6
/-- The word of SRA. -/
def encSra (d a b : BitVec 5) (w : Bool) : Nat :=
  0x2000009 + d.toNat * 2^20 + a.toNat * 2^15 + b.toNat * 2^10 + bn w * 2^6
/-- The word of ROL. -/
def encRol (d a b : BitVec 5) (w : Bool) : Nat :=
  0x200000a + d.toNat * 2^20 + a.toNat * 2^15 + b.toNat * 2^10 + bn w * 2^6
/-- The word of ROR. -/
def encRor (d a b : BitVec 5) (w : Bool) : Nat :=
  0x200000b + d.toNat * 2^20 + a.toNat * 2^15 + b.toNat * 2^10 + bn w * 2^6
/-- The word of MUL. -/
def encMul (d a b : BitVec 5) (w : Bool) : Nat :=
  0x200000c + d.toNat * 2^20 + a.toNat * 2^15 + b.toNat * 2^10 + bn w * 2^6
/-- The word of MULH. -/
def encMulh (d a b : BitVec 5) (w : Bool) : Nat :=
  0x200000d + d.toNat * 2^20 + a.toNat * 2^15 + b.toNat * 2^10 + bn w * 2^6
/-- The word of MULHU. -/
def encMulhu (d a b : BitVec 5) (w : Bool) : Nat :=
  0x200000e + d.toNat * 2^20 + a.toNat * 2^15 + b.toNat * 2^10 + bn w * 2^6
/-- The word of DIV. -/
def encDiv (d a b : BitVec 5) (w : Bool) : Nat :=
  0x200000f + d.toNat * 2^20 + a.toNat * 2^15 + b.toNat * 2^10 + bn w * 2^6
/-- The word of DIVU. -/
def encDivu (d a b : BitVec 5) (w : Bool) : Nat :=
  0x2000010 + d.toNat * 2^20 + a.toNat * 2^15 + b.toNat * 2^10 + bn w * 2^6
/-- The word of REM. -/
def encRem (d a b : BitVec 5) (w : Bool) : Nat :=
  0x2000011 + d.toNat * 2^20 + a.toNat * 2^15 + b.toNat * 2^10 + bn w * 2^6
/-- The word of REMU. -/
def encRemu (d a b : BitVec 5) (w : Bool) : Nat :=
  0x2000012 + d.toNat * 2^20 + a.toNat * 2^15 + b.toNat * 2^10 + bn w * 2^6
/-- The word of MIN. -/
def encMin (d a b : BitVec 5) (w : Bool) : Nat :=
  0x2000013 + d.toNat * 2^20 + a.toNat * 2^15 + b.toNat * 2^10 + bn w * 2^6
/-- The word of MAX. -/
def encMax (d a b : BitVec 5) (w : Bool) : Nat :=
  0x2000014 + d.toNat * 2^20 + a.toNat * 2^15 + b.toNat * 2^10 + bn w * 2^6
/-- The word of MINU. -/
def encMinu (d a b : BitVec 5) (w : Bool) : Nat :=
  0x2000015 + d.toNat * 2^20 + a.toNat * 2^15 + b.toNat * 2^10 + bn w * 2^6
/-- The word of MAXU. -/
def encMaxu (d a b : BitVec 5) (w : Bool) : Nat :=
  0x2000016 + d.toNat * 2^20 + a.toNat * 2^15 + b.toNat * 2^10 + bn w * 2^6
/-- The word of SLT. -/
def encSlt (d a b : BitVec 5) (w : Bool) : Nat :=
  0x2000017 + d.toNat * 2^20 + a.toNat * 2^15 + b.toNat * 2^10 + bn w * 2^6
/-- The word of SLTU. -/
def encSltu (d a b : BitVec 5) (w : Bool) : Nat :=
  0x2000018 + d.toNat * 2^20 + a.toNat * 2^15 + b.toNat * 2^10 + bn w * 2^6
/-- The word of CLZ. -/
def encClz (d a : BitVec 5) (w : Bool) : Nat :=
  0x2000019 + d.toNat * 2^20 + a.toNat * 2^15 + bn w * 2^6
/-- The word of CTZ. -/
def encCtz (d a : BitVec 5) (w : Bool) : Nat :=
  0x200001a + d.toNat * 2^20 + a.toNat * 2^15 + bn w * 2^6
/-- The word of POPC. -/
def encPopc (d a : BitVec 5) (w : Bool) : Nat :=
  0x200001b + d.toNat * 2^20 + a.toNat * 2^15 + bn w * 2^6
/-- The word of SEXT. -/
def encSext (d a b : BitVec 5) (w : Bool) : Nat :=
  0x200001c + d.toNat * 2^20 + a.toNat * 2^15 + b.toNat * 2^10 + bn w * 2^6
/-- The word of ZEXT. -/
def encZext (d a b : BitVec 5) (w : Bool) : Nat :=
  0x200001d + d.toNat * 2^20 + a.toNat * 2^15 + b.toNat * 2^10 + bn w * 2^6
/-- The word of BREV. -/
def encBrev (d a : BitVec 5) (w : Bool) : Nat :=
  0x200001e + d.toNat * 2^20 + a.toNat * 2^15 + bn w * 2^6
/-- The word of ADDI. -/
def encAddi (d a : BitVec 5) (i : BitVec 15) : Nat :=
  0x4000000 + d.toNat * 2^20 + a.toNat * 2^15 + i.toNat
/-- The word of ANDI. -/
def encAndi (d a : BitVec 5) (i : BitVec 15) : Nat :=
  0x6000000 + d.toNat * 2^20 + a.toNat * 2^15 + i.toNat
/-- The word of ORI. -/
def encOri (d a : BitVec 5) (i : BitVec 15) : Nat :=
  0x8000000 + d.toNat * 2^20 + a.toNat * 2^15 + i.toNat
/-- The word of XORI. -/
def encXori (d a : BitVec 5) (i : BitVec 15) : Nat :=
  0xa000000 + d.toNat * 2^20 + a.toNat * 2^15 + i.toNat
/-- The word of SLLI. -/
def encSlli (d a : BitVec 5) (n : BitVec 6) : Nat :=
  0xc000000 + d.toNat * 2^20 + a.toNat * 2^15 + n.toNat
/-- The word of SRLI. -/
def encSrli (d a : BitVec 5) (n : BitVec 6) : Nat :=
  0xc002000 + d.toNat * 2^20 + a.toNat * 2^15 + n.toNat
/-- The word of SRAI. -/
def encSrai (d a : BitVec 5) (n : BitVec 6) : Nat :=
  0xc004000 + d.toNat * 2^20 + a.toNat * 2^15 + n.toNat
/-- The word of SLTI. -/
def encSlti (d a : BitVec 5) (i : BitVec 15) : Nat :=
  0xe000000 + d.toNat * 2^20 + a.toNat * 2^15 + i.toNat
/-- The word of LUI. -/
def encLui (d : BitVec 5) (i : BitVec 20) : Nat :=
  0x10000000 + d.toNat * 2^20 + i.toNat
/-- The word of ADDPC. -/
def encAddpc (d : BitVec 5) (i : BitVec 20) : Nat :=
  0x12000000 + d.toNat * 2^20 + i.toNat
/-- The word of GADDR. -/
def encGaddr (d a b : BitVec 5) : Nat :=
  0x14000000 + d.toNat * 2^20 + a.toNat * 2^15 + b.toNat * 2^10
/-- The word of GCOORD. -/
def encGcoord (d a : BitVec 5) : Nat :=
  0x14000001 + d.toNat * 2^20 + a.toNat * 2^15
/-- The word of GNBR. -/
def encGnbr (d a n : BitVec 5) : Nat :=
  0x14000002 + d.toNat * 2^20 + a.toNat * 2^15 + n.toNat * 2^10
/-- The word of GSELF. -/
def encGself (d : BitVec 5) : Nat :=
  0x14000003 + d.toNat * 2^20
/-- The word of BFX. -/
def encBfx (d a : BitVec 5) (s : Bool) (w l : BitVec 6) : Nat :=
  0x16000000 + d.toNat * 2^20 + a.toNat * 2^15 + bn s * 2^12 + w.toNat * 2^6 + l.toNat
/-- The word of BFI. -/
def encBfi (d a : BitVec 5) (w l : BitVec 6) : Nat :=
  0x16004000 + d.toNat * 2^20 + a.toNat * 2^15 + w.toNat * 2^6 + l.toNat
/-- The word of SEL. -/
def encSel (d a b c k : BitVec 5) : Nat :=
  0x18000000 + d.toNat * 2^20 + a.toNat * 2^15 + b.toNat * 2^10 + c.toNat * 2^5 + k.toNat
/-- The word of BEQ. -/
def encBeq (a b : BitVec 5) (d : BitVec 15) : Nat :=
  0x20000000 + a.toNat * 2^20 + b.toNat * 2^15 + d.toNat
/-- The word of BNE. -/
def encBne (a b : BitVec 5) (d : BitVec 15) : Nat :=
  0x22000000 + a.toNat * 2^20 + b.toNat * 2^15 + d.toNat
/-- The word of BLT. -/
def encBlt (a b : BitVec 5) (d : BitVec 15) : Nat :=
  0x24000000 + a.toNat * 2^20 + b.toNat * 2^15 + d.toNat
/-- The word of BGE. -/
def encBge (a b : BitVec 5) (d : BitVec 15) : Nat :=
  0x26000000 + a.toNat * 2^20 + b.toNat * 2^15 + d.toNat
/-- The word of BLTU. -/
def encBltu (a b : BitVec 5) (d : BitVec 15) : Nat :=
  0x28000000 + a.toNat * 2^20 + b.toNat * 2^15 + d.toNat
/-- The word of BGEU. -/
def encBgeu (a b : BitVec 5) (d : BitVec 15) : Nat :=
  0x2a000000 + a.toNat * 2^20 + b.toNat * 2^15 + d.toNat
/-- The word of J. -/
def encJ (d : BitVec 25) : Nat :=
  0x2c000000 + d.toNat
/-- The word of JAL. -/
def encJal (d : BitVec 25) : Nat :=
  0x2e000000 + d.toNat
/-- The word of JALR. -/
def encJalr (d a : BitVec 5) (i : BitVec 15) : Nat :=
  0x30000000 + d.toNat * 2^20 + a.toNat * 2^15 + i.toNat
/-- The words of LOOP. -/
def encLoop (n a : BitVec 5) (len : BitVec 16) : Nat :=
  0x32000000 + n.toNat * 2^20 + a.toNat * 2^15 + len.toNat * 2^32
/-- The words of LOOPQ. -/
def encLoopq (n a b : BitVec 5) (len : BitVec 16) (tag : BitVec 6) : Nat :=
  0x34000000 + n.toNat * 2^20 + a.toNat * 2^15 + b.toNat * 2^10 + len.toNat * 2^32 + tag.toNat * 2^48
/-- The word of FADD. -/
def encFadd (d a b : BitVec 5) (r : BitVec 3) (x : Bool) (p : BitVec 2) : Nat :=
  0x40000000 + d.toNat * 2^20 + a.toNat * 2^15 + b.toNat * 2^10 + r.toNat * 2^7 + bn x * 2^2 + p.toNat
/-- The word of FSUB. -/
def encFsub (d a b : BitVec 5) (r : BitVec 3) (x : Bool) (p : BitVec 2) : Nat :=
  0x40000008 + d.toNat * 2^20 + a.toNat * 2^15 + b.toNat * 2^10 + r.toNat * 2^7 + bn x * 2^2 + p.toNat
/-- The word of FMUL. -/
def encFmul (d a b : BitVec 5) (r : BitVec 3) (x : Bool) (p : BitVec 2) : Nat :=
  0x40000010 + d.toNat * 2^20 + a.toNat * 2^15 + b.toNat * 2^10 + r.toNat * 2^7 + bn x * 2^2 + p.toNat
/-- The word of FDIV. -/
def encFdiv (d a b : BitVec 5) (r : BitVec 3) (p : BitVec 2) : Nat :=
  0x40000018 + d.toNat * 2^20 + a.toNat * 2^15 + b.toNat * 2^10 + r.toNat * 2^7 + p.toNat
/-- The word of FSQRT. -/
def encFsqrt (d a : BitVec 5) (r : BitVec 3) (p : BitVec 2) : Nat :=
  0x40000020 + d.toNat * 2^20 + a.toNat * 2^15 + r.toNat * 2^7 + p.toNat
/-- The word of FMIN. -/
def encFmin (d a b : BitVec 5) (p : BitVec 2) : Nat :=
  0x40000028 + d.toNat * 2^20 + a.toNat * 2^15 + b.toNat * 2^10 + p.toNat
/-- The word of FMAX. -/
def encFmax (d a b : BitVec 5) (p : BitVec 2) : Nat :=
  0x40000030 + d.toNat * 2^20 + a.toNat * 2^15 + b.toNat * 2^10 + p.toNat
/-- The word of FCMP. -/
def encFcmp (d a b : BitVec 5) (p : BitVec 2) : Nat :=
  0x40000038 + d.toNat * 2^20 + a.toNat * 2^15 + b.toNat * 2^10 + p.toNat
/-- The word of FCLASS. -/
def encFclass (d a : BitVec 5) (p : BitVec 2) : Nat :=
  0x40000040 + d.toNat * 2^20 + a.toNat * 2^15 + p.toNat
/-- The word of FMA. -/
def encFma (d a b c : BitVec 5) (r : BitVec 3) (p : BitVec 2) : Nat :=
  0x42000000 + d.toNat * 2^20 + a.toNat * 2^15 + b.toNat * 2^10 + c.toNat * 2^5 + r.toNat * 2^2 + p.toNat
/-- The word of FCVT. -/
def encFcvt (d a : BitVec 5) (r f t : BitVec 3) : Nat :=
  0x44000000 + d.toNat * 2^20 + a.toNat * 2^15 + r.toNat * 2^7 + f.toNat * 2^3 + t.toNat
/-- The word of LD. -/
def encLd (d a : BitVec 5) (z : BitVec 3) (i : BitVec 12) : Nat :=
  0x50000000 + d.toNat * 2^20 + a.toNat * 2^15 + z.toNat * 2^12 + i.toNat
/-- The word of ST. -/
def encSt (d a : BitVec 5) (z : BitVec 3) (i : BitVec 12) : Nat :=
  0x52000000 + d.toNat * 2^20 + a.toNat * 2^15 + z.toNat * 2^12 + i.toNat
/-- The word of LDA. -/
def encLda (d a : BitVec 5) (z : BitVec 3) (i : BitVec 12) : Nat :=
  0x54000000 + d.toNat * 2^20 + a.toNat * 2^15 + z.toNat * 2^12 + i.toNat
/-- The word of STL. -/
def encStl (d a : BitVec 5) (z : BitVec 3) (i : BitVec 12) : Nat :=
  0x56000000 + d.toNat * 2^20 + a.toNat * 2^15 + z.toNat * 2^12 + i.toNat
/-- The word of LDFE. -/
def encLdfe (d a : BitVec 5) (i : BitVec 12) : Nat :=
  0x58003000 + d.toNat * 2^20 + a.toNat * 2^15 + i.toNat
/-- The word of LDFE_E. -/
def encLdfeE (d a : BitVec 5) (i : BitVec 12) : Nat :=
  0x58002000 + d.toNat * 2^20 + a.toNat * 2^15 + i.toNat
/-- The word of STFE. -/
def encStfe (d a : BitVec 5) (i : BitVec 12) : Nat :=
  0x5a003000 + d.toNat * 2^20 + a.toNat * 2^15 + i.toNat
/-- The word of STFE_F. -/
def encStfeF (d a : BitVec 5) (i : BitVec 12) : Nat :=
  0x5a002000 + d.toNat * 2^20 + a.toNat * 2^15 + i.toNat
/-- The word of LDV. -/
def encLdv (d a : BitVec 5) (z : BitVec 3) (i : BitVec 12) : Nat :=
  0x5c000000 + d.toNat * 2^20 + a.toNat * 2^15 + z.toNat * 2^12 + i.toNat
/-- The word of STV. -/
def encStv (d a : BitVec 5) (z : BitVec 3) (i : BitVec 12) : Nat :=
  0x5e000000 + d.toNat * 2^20 + a.toNat * 2^15 + z.toNat * 2^12 + i.toNat
/-- The word of LDVS. -/
def encLdvs (d a : BitVec 5) (z : BitVec 3) (i : BitVec 12) : Nat :=
  0x60000000 + d.toNat * 2^20 + a.toNat * 2^15 + z.toNat * 2^12 + i.toNat
/-- The word of STVS. -/
def encStvs (d a : BitVec 5) (z : BitVec 3) (i : BitVec 12) : Nat :=
  0x62000000 + d.toNat * 2^20 + a.toNat * 2^15 + z.toNat * 2^12 + i.toNat
/-- The word of LDVG. -/
def encLdvg (d a : BitVec 5) (z : BitVec 3) (i : BitVec 12) : Nat :=
  0x64000000 + d.toNat * 2^20 + a.toNat * 2^15 + z.toNat * 2^12 + i.toNat
/-- The word of STVX. -/
def encStvx (d a : BitVec 5) (z : BitVec 3) (i : BitVec 12) : Nat :=
  0x66000000 + d.toNat * 2^20 + a.toNat * 2^15 + z.toNat * 2^12 + i.toNat
/-- The word of AMO_ADD. -/
def encAmoAdd (d a b : BitVec 5) (z : BitVec 3) : Nat :=
  0x68000000 + d.toNat * 2^20 + a.toNat * 2^15 + b.toNat * 2^10 + z.toNat * 2^4
/-- The word of AMO_SUB. -/
def encAmoSub (d a b : BitVec 5) (z : BitVec 3) : Nat :=
  0x68000001 + d.toNat * 2^20 + a.toNat * 2^15 + b.toNat * 2^10 + z.toNat * 2^4
/-- The word of AMO_AND. -/
def encAmoAnd (d a b : BitVec 5) (z : BitVec 3) : Nat :=
  0x68000002 + d.toNat * 2^20 + a.toNat * 2^15 + b.toNat * 2^10 + z.toNat * 2^4
/-- The word of AMO_OR. -/
def encAmoOr (d a b : BitVec 5) (z : BitVec 3) : Nat :=
  0x68000003 + d.toNat * 2^20 + a.toNat * 2^15 + b.toNat * 2^10 + z.toNat * 2^4
/-- The word of AMO_XOR. -/
def encAmoXor (d a b : BitVec 5) (z : BitVec 3) : Nat :=
  0x68000004 + d.toNat * 2^20 + a.toNat * 2^15 + b.toNat * 2^10 + z.toNat * 2^4
/-- The word of AMO_MIN. -/
def encAmoMin (d a b : BitVec 5) (z : BitVec 3) : Nat :=
  0x68000005 + d.toNat * 2^20 + a.toNat * 2^15 + b.toNat * 2^10 + z.toNat * 2^4
/-- The word of AMO_MAX. -/
def encAmoMax (d a b : BitVec 5) (z : BitVec 3) : Nat :=
  0x68000006 + d.toNat * 2^20 + a.toNat * 2^15 + b.toNat * 2^10 + z.toNat * 2^4
/-- The word of AMO_MINU. -/
def encAmoMinu (d a b : BitVec 5) (z : BitVec 3) : Nat :=
  0x68000007 + d.toNat * 2^20 + a.toNat * 2^15 + b.toNat * 2^10 + z.toNat * 2^4
/-- The word of AMO_MAXU. -/
def encAmoMaxu (d a b : BitVec 5) (z : BitVec 3) : Nat :=
  0x68000008 + d.toNat * 2^20 + a.toNat * 2^15 + b.toNat * 2^10 + z.toNat * 2^4
/-- The word of AMO_SWAP. -/
def encAmoSwap (d a b : BitVec 5) (z : BitVec 3) : Nat :=
  0x68000009 + d.toNat * 2^20 + a.toNat * 2^15 + b.toNat * 2^10 + z.toNat * 2^4
/-- The word of AMO_ADDSAT. -/
def encAmoAddsat (d a b : BitVec 5) (z : BitVec 3) : Nat :=
  0x6800000a + d.toNat * 2^20 + a.toNat * 2^15 + b.toNat * 2^10 + z.toNat * 2^4
/-- The word of AMO_FADD. -/
def encAmoFadd (d a b : BitVec 5) (z : BitVec 3) : Nat :=
  0x6800000b + d.toNat * 2^20 + a.toNat * 2^15 + b.toNat * 2^10 + z.toNat * 2^4
/-- The word of AMO_BFADD. -/
def encAmoBfadd (d a b : BitVec 5) (z : BitVec 3) : Nat :=
  0x6800000c + d.toNat * 2^20 + a.toNat * 2^15 + b.toNat * 2^10 + z.toNat * 2^4
/-- The word of CAS. -/
def encCas (d a b c : BitVec 5) (z : BitVec 3) : Nat :=
  0x6a000000 + d.toNat * 2^20 + a.toNat * 2^15 + b.toNat * 2^10 + c.toNat * 2^5 + z.toNat
/-- The word of AMOV. -/
def encAmov (a b : BitVec 5) (g t : BitVec 3) : Nat :=
  0x6c000000 + a.toNat * 2^15 + b.toNat * 2^10 + g.toNat * 2^7 + t.toNat * 2^4
/-- The word of AMOV_R. -/
def encAmovR (d a b : BitVec 5) (g t : BitVec 3) : Nat :=
  0x6c000001 + d.toNat * 2^20 + a.toNat * 2^15 + b.toNat * 2^10 + g.toNat * 2^7 + t.toNat * 2^4
/-- The word of FENCE. -/
def encFence (s : BitVec 2) (e f r q : Bool) : Nat :=
  0x6e000000 + s.toNat * 2^4 + bn e * 2^3 + bn f * 2^2 + bn r * 2^1 + bn q
/-- The word of PBWAIT. -/
def encPbwait (a : BitVec 5) (f : Bool) : Nat :=
  0x70000000 + a.toNat * 2^15 + bn f * 2^4
/-- The word of RDPB. -/
def encRdpb (d : BitVec 5) (s : BitVec 2) : Nat :=
  0x70000001 + d.toNat * 2^20 + s.toNat * 2^4
/-- The word of VADD. -/
def encVadd (d a b : BitVec 5) (g t : BitVec 3) : Nat :=
  0x80000000 + d.toNat * 2^20 + a.toNat * 2^15 + b.toNat * 2^10 + g.toNat * 2^7 + t.toNat * 2^4
/-- The word of VSUB. -/
def encVsub (d a b : BitVec 5) (g t : BitVec 3) : Nat :=
  0x80000001 + d.toNat * 2^20 + a.toNat * 2^15 + b.toNat * 2^10 + g.toNat * 2^7 + t.toNat * 2^4
/-- The word of VMUL. -/
def encVmul (d a b : BitVec 5) (g t : BitVec 3) : Nat :=
  0x80000002 + d.toNat * 2^20 + a.toNat * 2^15 + b.toNat * 2^10 + g.toNat * 2^7 + t.toNat * 2^4
/-- The word of VMA. -/
def encVma (d a b : BitVec 5) (g t : BitVec 3) : Nat :=
  0x80000003 + d.toNat * 2^20 + a.toNat * 2^15 + b.toNat * 2^10 + g.toNat * 2^7 + t.toNat * 2^4
/-- The word of VMS. -/
def encVms (d a b : BitVec 5) (g t : BitVec 3) : Nat :=
  0x80000004 + d.toNat * 2^20 + a.toNat * 2^15 + b.toNat * 2^10 + g.toNat * 2^7 + t.toNat * 2^4
/-- The word of VMIN. -/
def encVmin (d a b : BitVec 5) (g t : BitVec 3) : Nat :=
  0x80000005 + d.toNat * 2^20 + a.toNat * 2^15 + b.toNat * 2^10 + g.toNat * 2^7 + t.toNat * 2^4
/-- The word of VMAX. -/
def encVmax (d a b : BitVec 5) (g t : BitVec 3) : Nat :=
  0x80000006 + d.toNat * 2^20 + a.toNat * 2^15 + b.toNat * 2^10 + g.toNat * 2^7 + t.toNat * 2^4
/-- The word of VABS. -/
def encVabs (d a : BitVec 5) (g t : BitVec 3) : Nat :=
  0x80000007 + d.toNat * 2^20 + a.toNat * 2^15 + g.toNat * 2^7 + t.toNat * 2^4
/-- The word of VNEG. -/
def encVneg (d a : BitVec 5) (g t : BitVec 3) : Nat :=
  0x80000008 + d.toNat * 2^20 + a.toNat * 2^15 + g.toNat * 2^7 + t.toNat * 2^4
/-- The word of VAND. -/
def encVand (d a b : BitVec 5) (g : BitVec 3) : Nat :=
  0x82000000 + d.toNat * 2^20 + a.toNat * 2^15 + b.toNat * 2^10 + g.toNat * 2^7
/-- The word of VOR. -/
def encVor (d a b : BitVec 5) (g : BitVec 3) : Nat :=
  0x82000001 + d.toNat * 2^20 + a.toNat * 2^15 + b.toNat * 2^10 + g.toNat * 2^7
/-- The word of VXOR. -/
def encVxor (d a b : BitVec 5) (g : BitVec 3) : Nat :=
  0x82000002 + d.toNat * 2^20 + a.toNat * 2^15 + b.toNat * 2^10 + g.toNat * 2^7
/-- The word of VSHL. -/
def encVshl (d a b : BitVec 5) (g t : BitVec 3) : Nat :=
  0x82000003 + d.toNat * 2^20 + a.toNat * 2^15 + b.toNat * 2^10 + g.toNat * 2^7 + t.toNat * 2^4
/-- The word of VSHR. -/
def encVshr (d a b : BitVec 5) (g t : BitVec 3) : Nat :=
  0x82000004 + d.toNat * 2^20 + a.toNat * 2^15 + b.toNat * 2^10 + g.toNat * 2^7 + t.toNat * 2^4
/-- The word of VCMP. -/
def encVcmp (c : BitVec 2) (p : BitVec 3) (a b : BitVec 5) (g t : BitVec 3) : Nat :=
  0x82000005 + c.toNat * 2^23 + p.toNat * 2^20 + a.toNat * 2^15 + b.toNat * 2^10 + g.toNat * 2^7 + t.toNat * 2^4
/-- The word of VSEL. -/
def encVsel (d a b : BitVec 5) (s : BitVec 3) : Nat :=
  0x82000006 + d.toNat * 2^20 + a.toNat * 2^15 + b.toNat * 2^10 + s.toNat * 2^7
/-- The word of VMOV. -/
def encVmov (d a : BitVec 5) (g : BitVec 3) : Nat :=
  0x84000000 + d.toNat * 2^20 + a.toNat * 2^15 + g.toNat * 2^7
/-- The word of VBCAST. -/
def encVbcast (d b : BitVec 5) (g t : BitVec 3) : Nat :=
  0x84000001 + d.toNat * 2^20 + b.toNat * 2^10 + g.toNat * 2^7 + t.toNat * 2^4
/-- The word of VPERM. -/
def encVperm (d a b : BitVec 5) (g t : BitVec 3) : Nat :=
  0x84000002 + d.toNat * 2^20 + a.toNat * 2^15 + b.toNat * 2^10 + g.toNat * 2^7 + t.toNat * 2^4
/-- The word of VSHUF. -/
def encVshuf (d a b : BitVec 5) (g t : BitVec 3) : Nat :=
  0x84000003 + d.toNat * 2^20 + a.toNat * 2^15 + b.toNat * 2^10 + g.toNat * 2^7 + t.toNat * 2^4
/-- The word of VSLIDE. -/
def encVslide (d a b : BitVec 5) (g t : BitVec 3) : Nat :=
  0x84000004 + d.toNat * 2^20 + a.toNat * 2^15 + b.toNat * 2^10 + g.toNat * 2^7 + t.toNat * 2^4
/-- The word of VEXT. -/
def encVext (d a b : BitVec 5) (t : BitVec 3) : Nat :=
  0x84000005 + d.toNat * 2^20 + a.toNat * 2^15 + b.toNat * 2^10 + t.toNat * 2^4
/-- The word of VINS. -/
def encVins (d a b : BitVec 5) (g t : BitVec 3) : Nat :=
  0x84000006 + d.toNat * 2^20 + a.toNat * 2^15 + b.toNat * 2^10 + g.toNat * 2^7 + t.toNat * 2^4
/-- The word of VRCP. -/
def encVrcp (d a : BitVec 5) (g t : BitVec 3) : Nat :=
  0x86000000 + d.toNat * 2^20 + a.toNat * 2^15 + g.toNat * 2^7 + t.toNat * 2^4
/-- The word of VRSQ. -/
def encVrsq (d a : BitVec 5) (g t : BitVec 3) : Nat :=
  0x86000001 + d.toNat * 2^20 + a.toNat * 2^15 + g.toNat * 2^7 + t.toNat * 2^4
/-- The word of VEXP2. -/
def encVexp2 (d a : BitVec 5) (g t : BitVec 3) : Nat :=
  0x86000002 + d.toNat * 2^20 + a.toNat * 2^15 + g.toNat * 2^7 + t.toNat * 2^4
/-- The word of VLOG2. -/
def encVlog2 (d a : BitVec 5) (g t : BitVec 3) : Nat :=
  0x86000003 + d.toNat * 2^20 + a.toNat * 2^15 + g.toNat * 2^7 + t.toNat * 2^4
/-- The word of VADD_X. -/
def encVaddX (d a b : BitVec 5) (g t : BitVec 3) : Nat :=
  0x88000000 + d.toNat * 2^20 + a.toNat * 2^15 + b.toNat * 2^10 + g.toNat * 2^7 + t.toNat * 2^4
/-- The word of VSUB_X. -/
def encVsubX (d a b : BitVec 5) (g t : BitVec 3) : Nat :=
  0x88000001 + d.toNat * 2^20 + a.toNat * 2^15 + b.toNat * 2^10 + g.toNat * 2^7 + t.toNat * 2^4
/-- The word of VMUL_X. -/
def encVmulX (d a b : BitVec 5) (g t : BitVec 3) : Nat :=
  0x88000002 + d.toNat * 2^20 + a.toNat * 2^15 + b.toNat * 2^10 + g.toNat * 2^7 + t.toNat * 2^4
/-- The word of VDWADD. -/
def encVdwadd (d a b : BitVec 5) (g t : BitVec 3) : Nat :=
  0x88000003 + d.toNat * 2^20 + a.toNat * 2^15 + b.toNat * 2^10 + g.toNat * 2^7 + t.toNat * 2^4
/-- The word of VDWMUL. -/
def encVdwmul (d a b : BitVec 5) (g t : BitVec 3) : Nat :=
  0x88000004 + d.toNat * 2^20 + a.toNat * 2^15 + b.toNat * 2^10 + g.toNat * 2^7 + t.toNat * 2^4
/-- The word of VDWNORM. -/
def encVdwnorm (d a : BitVec 5) (g t : BitVec 3) : Nat :=
  0x88000005 + d.toNat * 2^20 + a.toNat * 2^15 + g.toNat * 2^7 + t.toNat * 2^4
/-- The word of VSUMX. -/
def encVsumx (d a : BitVec 5) (g t : BitVec 3) : Nat :=
  0x88000006 + d.toNat * 2^20 + a.toNat * 2^15 + g.toNat * 2^7 + t.toNat * 2^4
/-- The word of VRED. -/
def encVred (d a : BitVec 5) (g t : BitVec 3) : Nat :=
  0x88000007 + d.toNat * 2^20 + a.toNat * 2^15 + g.toNat * 2^7 + t.toNat * 2^4
/-- The word of VCVT. -/
def encVcvt (d a : BitVec 5) (f g t : BitVec 3) : Nat :=
  0x8a000000 + d.toNat * 2^20 + a.toNat * 2^15 + f.toNat * 2^10 + g.toNat * 2^7 + t.toNat * 2^4
/-- The word of VPACK. -/
def encVpack (d a : BitVec 5) (m : Bool) (f : BitVec 4) (g : BitVec 3) : Nat :=
  0x8a000041 + d.toNat * 2^20 + a.toNat * 2^15 + bn m * 2^14 + f.toNat * 2^10 + g.toNat * 2^7
/-- The word of VUNPK. -/
def encVunpk (d a : BitVec 5) (h : Bool) (f : BitVec 4) (g t : BitVec 3) : Nat :=
  0x8a000002 + d.toNat * 2^20 + a.toNat * 2^15 + bn h * 2^14 + f.toNat * 2^10 + g.toNat * 2^7 + t.toNat * 2^4
/-- The word of VSCALE. -/
def encVscale (d a b : BitVec 5) (g t : BitVec 3) : Nat :=
  0x8a000003 + d.toNat * 2^20 + a.toNat * 2^15 + b.toNat * 2^10 + g.toNat * 2^7 + t.toNat * 2^4
/-- The word of VQNT. -/
def encVqnt (d a : BitVec 5) (f : BitVec 4) (g : BitVec 3) : Nat :=
  0x8a000044 + d.toNat * 2^20 + a.toNat * 2^15 + f.toNat * 2^10 + g.toNat * 2^7
/-- The word of VQNT_DEQ. -/
def encVqntDeq (d a : BitVec 5) (f : BitVec 4) (g : BitVec 3) : Nat :=
  0x8a004044 + d.toNat * 2^20 + a.toNat * 2^15 + f.toNat * 2^10 + g.toNat * 2^7
/-- The word of VHAD. -/
def encVhad (d a m : BitVec 5) (g t : BitVec 3) (s : BitVec 4) : Nat :=
  0x8c000000 + d.toNat * 2^20 + a.toNat * 2^15 + m.toNat * 2^10 + g.toNat * 2^7 + t.toNat * 2^4 + s.toNat
/-- The word of VRAND. -/
def encVrand (d a : BitVec 5) (g t : BitVec 3) (w : BitVec 2) : Nat :=
  0x8e000000 + d.toNat * 2^20 + a.toNat * 2^15 + g.toNat * 2^7 + t.toNat * 2^4 + w.toNat
/-- The word of PAND. -/
def encPand (d a b : BitVec 5) (g : BitVec 3) : Nat :=
  0x90000000 + d.toNat * 2^20 + a.toNat * 2^15 + b.toNat * 2^10 + g.toNat * 2^7
/-- The word of POR. -/
def encPor (d a b : BitVec 5) (g : BitVec 3) : Nat :=
  0x90000001 + d.toNat * 2^20 + a.toNat * 2^15 + b.toNat * 2^10 + g.toNat * 2^7
/-- The word of PXOR. -/
def encPxor (d a b : BitVec 5) (g : BitVec 3) : Nat :=
  0x90000002 + d.toNat * 2^20 + a.toNat * 2^15 + b.toNat * 2^10 + g.toNat * 2^7
/-- The word of PNOT. -/
def encPnot (d a : BitVec 5) (g : BitVec 3) : Nat :=
  0x90000003 + d.toNat * 2^20 + a.toNat * 2^15 + g.toNat * 2^7
/-- The word of PSET. -/
def encPset (d a : BitVec 5) (g : BitVec 3) : Nat :=
  0x90000004 + d.toNat * 2^20 + a.toNat * 2^15 + g.toNat * 2^7
/-- The word of PSET_N. -/
def encPsetN (d a : BitVec 5) (g : BitVec 3) : Nat :=
  0x90000014 + d.toNat * 2^20 + a.toNat * 2^15 + g.toNat * 2^7
/-- The word of PCNT. -/
def encPcnt (d a : BitVec 5) (g : BitVec 3) : Nat :=
  0x90000005 + d.toNat * 2^20 + a.toNat * 2^15 + g.toNat * 2^7
/-- The word of PFIRST. -/
def encPfirst (d a : BitVec 5) (g : BitVec 3) : Nat :=
  0x90000006 + d.toNat * 2^20 + a.toNat * 2^15 + g.toNat * 2^7
/-- The word of ATAKE. -/
def encAtake (d a : BitVec 5) : Nat :=
  0xa0000000 + d.toNat * 2^20 + a.toNat * 2^15
/-- The word of AGIVE. -/
def encAgive (a : BitVec 5) : Nat :=
  0xa0000001 + a.toNat * 2^15
/-- The word of MZERO. -/
def encMzero (a : BitVec 5) : Nat :=
  0xa0000002 + a.toNat * 2^15
/-- The word of MDESC. -/
def encMdesc (d a b : BitVec 5) : Nat :=
  0xa2000000 + d.toNat * 2^20 + a.toNat * 2^15 + b.toNat * 2^10
/-- The word of MLD. -/
def encMld (d : BitVec 5) : Nat :=
  0xa4000000 + d.toNat * 2^20
/-- The words of MMA. -/
def encMma (t a b : BitVec 5) (acc : Bool) (ofmt kb : BitVec 4) : Nat :=
  0xa6000000 + t.toNat * 2^20 + a.toNat * 2^15 + b.toNat * 2^10 + bn acc + ofmt.toNat * 2^32 + kb.toNat * 2^36
/-- The words of MDRAIN. -/
def encMdrain (t dd b : BitVec 5) (z drop res : Bool) (rc : BitVec 3) (dr : BitVec 2) (q : BitVec 8) : Nat :=
  0xa8000000 + t.toNat * 2^20 + dd.toNat * 2^15 + b.toNat * 2^10 + bn z * 2^2 + bn drop * 2^1 + bn res + rc.toNat * 2^32 + dr.toNat * 2^35 + q.toNat * 2^37
/-- The words of MXPQ. -/
def encMxpq (dd ds a : BitVec 5) (rc : BitVec 3) : Nat :=
  0xaa000000 + dd.toNat * 2^20 + ds.toNat * 2^15 + a.toNat * 2^10 + rc.toNat * 2^32
/-- The words of BCOPY. -/
def encBcopy (d a b : BitVec 5) (bc fe : Bool) (c : BitVec 5) (sem : BitVec 4) (sv : Bool) (vs : BitVec 6) : Nat :=
  0xb0000000 + d.toNat * 2^20 + a.toNat * 2^15 + b.toNat * 2^10 + bn bc * 2^5 + bn fe * 2^4 + c.toNat * 2^32 + sem.toNat * 2^37 + bn sv * 2^41 + vs.toNat * 2^42
/-- The words of BFILL. -/
def encBfill (d a b : BitVec 5) (bc fe : Bool) (c : BitVec 5) (sem : BitVec 4) (sv : Bool) (vs : BitVec 6) : Nat :=
  0xb0000001 + d.toNat * 2^20 + a.toNat * 2^15 + b.toNat * 2^10 + bn bc * 2^5 + bn fe * 2^4 + c.toNat * 2^32 + sem.toNat * 2^37 + bn sv * 2^41 + vs.toNat * 2^42
/-- The words of BSTRIDE. -/
def encBstride (d a b : BitVec 5) (fe : Bool) (c : BitVec 5) (sem : BitVec 4) (sv : Bool) : Nat :=
  0xb0000002 + d.toNat * 2^20 + a.toNat * 2^15 + b.toNat * 2^10 + bn fe * 2^4 + c.toNat * 2^32 + sem.toNat * 2^37 + bn sv * 2^41
/-- The words of FMGET. -/
def encFmget (a : BitVec 5) (disp : BitVec 16) : Nat :=
  0xb2000000 + a.toNat * 2^15 + disp.toNat * 2^32
/-- The words of FMPUT. -/
def encFmput (a : BitVec 5) (disp : BitVec 16) : Nat :=
  0xb2000001 + a.toNat * 2^15 + disp.toNat * 2^32
/-- The words of FMGATH. -/
def encFmgath (a : BitVec 5) (disp : BitVec 16) : Nat :=
  0xb2000002 + a.toNat * 2^15 + disp.toNat * 2^32
/-- The words of FMSCAT. -/
def encFmscat (a : BitVec 5) (disp : BitVec 16) : Nat :=
  0xb2000003 + a.toNat * 2^15 + disp.toNat * 2^32
/-- The words of VFLIP. -/
def encVflip (a b : BitVec 5) (sem : BitVec 4) (sv : Bool) : Nat :=
  0xb2000004 + a.toNat * 2^15 + b.toNat * 2^10 + sem.toNat * 2^32 + bn sv * 2^36
/-- The word of SATT. -/
def encSatt (d a b : BitVec 5) : Nat :=
  0xb4000000 + d.toNat * 2^20 + a.toNat * 2^15 + b.toNat * 2^10
/-- The word of SDET. -/
def encSdet (d a : BitVec 5) : Nat :=
  0xb4000001 + d.toNat * 2^20 + a.toNat * 2^15
/-- The word of SPUSH. -/
def encSpush (d a : BitVec 5) (h : Bool) : Nat :=
  0xb4000002 + d.toNat * 2^20 + a.toNat * 2^15 + bn h * 2^4
/-- The word of SPULL. -/
def encSpull (d a b : BitVec 5) (h : Bool) : Nat :=
  0xb4000003 + d.toNat * 2^20 + a.toNat * 2^15 + b.toNat * 2^10 + bn h * 2^4
/-- The word of SMARK. -/
def encSmark (a b : BitVec 5) (e : Bool) : Nat :=
  0xb4000004 + a.toNat * 2^15 + b.toNat * 2^10 + bn e * 2^4
/-- The words of SEND. -/
def encSend (d a b c e : BitVec 5) (tag : BitVec 6) (dk : BitVec 3) : Nat :=
  0xc0000000 + d.toNat * 2^20 + a.toNat * 2^15 + b.toNat * 2^10 + c.toNat * 2^32 + e.toNat * 2^37 + tag.toNat * 2^42 + dk.toNat * 2^48
/-- The words of SENDV. -/
def encSendv (d a : BitVec 5) (tag : BitVec 6) (dk : BitVec 3) : Nat :=
  0xc0000001 + d.toNat * 2^20 + a.toNat * 2^15 + tag.toNat * 2^42 + dk.toNat * 2^48
/-- The words of RECV. -/
def encRecv (d a b c e : BitVec 5) (tag : BitVec 6) : Nat :=
  0xc0000002 + d.toNat * 2^20 + a.toNat * 2^15 + b.toNat * 2^10 + c.toNat * 2^32 + e.toNat * 2^37 + tag.toNat * 2^42
/-- The words of RECVV. -/
def encRecvv (d a : BitVec 5) (tag : BitVec 6) : Nat :=
  0xc0000003 + d.toNat * 2^20 + a.toNat * 2^15 + tag.toNat * 2^42
/-- The words of PEEK. -/
def encPeek (d a : BitVec 5) (tag : BitVec 6) : Nat :=
  0xc0000004 + d.toNat * 2^20 + a.toNat * 2^15 + tag.toNat * 2^42
/-- The words of TFLUSH. -/
def encTflush (d : BitVec 5) (tag : BitVec 6) : Nat :=
  0xc0000005 + d.toNat * 2^20 + tag.toNat * 2^42
/-- The word of HSET. -/
def encHset (u : Bool) (s : BitVec 2) (a : BitVec 5) (t : BitVec 6) : Nat :=
  0xc2000000 + bn u * 2^22 + s.toNat * 2^20 + a.toNat * 2^15 + t.toNat * 2^4
/-- The word of HSET_CLR. -/
def encHsetClr (t : BitVec 6) : Nat :=
  0xc2800000 + t.toNat * 2^4
/-- The word of HRET. -/
def encHret : Nat :=
  0xc2000001
/-- The word of HMASK. -/
def encHmask (d a : BitVec 5) : Nat :=
  0xc2000002 + d.toNat * 2^20 + a.toNat * 2^15
/-- The word of BMASK. -/
def encBmask (d a : BitVec 5) : Nat :=
  0xc4000000 + d.toNat * 2^20 + a.toNat * 2^15
/-- The word of BARV. -/
def encBarv (d c : BitVec 5) (r : Bool) : Nat :=
  0xc4000001 + d.toNat * 2^20 + c.toNat * 2^15 + bn r * 2^4
/-- The word of BARW. -/
def encBarw (c b : BitVec 5) : Nat :=
  0xc4000002 + c.toNat * 2^15 + b.toNat * 2^10
/-- The word of BART. -/
def encBart (d c b : BitVec 5) : Nat :=
  0xc4000003 + d.toNat * 2^20 + c.toNat * 2^15 + b.toNat * 2^10
/-- The word of SEMI. -/
def encSemi (s b : BitVec 5) : Nat :=
  0xc6000000 + s.toNat * 2^15 + b.toNat * 2^10
/-- The word of SEMW. -/
def encSemw (s b : BitVec 5) : Nat :=
  0xc6000001 + s.toNat * 2^15 + b.toNat * 2^10
/-- The word of SEMT. -/
def encSemt (d s b : BitVec 5) : Nat :=
  0xc6000002 + d.toNat * 2^20 + s.toNat * 2^15 + b.toNat * 2^10
/-- The word of SEMS. -/
def encSems (d s b : BitVec 5) : Nat :=
  0xc6000003 + d.toNat * 2^20 + s.toNat * 2^15 + b.toNat * 2^10
/-- The word of FECLR. -/
def encFeclr (a b : BitVec 5) : Nat :=
  0xc6000004 + a.toNat * 2^15 + b.toNat * 2^10
/-- The word of FESET. -/
def encFeset (a b : BitVec 5) : Nat :=
  0xc6000005 + a.toNat * 2^15 + b.toNat * 2^10
/-- The word of FORK. -/
def encFork (d a b : BitVec 5) : Nat :=
  0xc8000000 + d.toNat * 2^20 + a.toNat * 2^15 + b.toNat * 2^10
/-- The word of JOIN. -/
def encJoin (a : BitVec 5) : Nat :=
  0xc8000001 + a.toNat * 2^15
/-- The word of TPOP. -/
def encTpop (d : BitVec 5) : Nat :=
  0xc8000002 + d.toNat * 2^20
/-- The word of TPOP_S. -/
def encTpopS (d b : BitVec 5) : Nat :=
  0xc8000012 + d.toNat * 2^20 + b.toNat * 2^10
/-- The word of STEAL. -/
def encSteal (d a : BitVec 5) : Nat :=
  0xc8000003 + d.toNat * 2^20 + a.toNat * 2^15
/-- The word of TDONE. -/
def encTdone (a : BitVec 5) : Nat :=
  0xc8000004 + a.toNat * 2^15
/-- The word of TDONE_K. -/
def encTdoneK (a : BitVec 5) : Nat :=
  0xc8000014 + a.toNat * 2^15
/-- The word of SPAWN. -/
def encSpawn (d a b : BitVec 5) (g u : Bool) : Nat :=
  0xca000000 + d.toNat * 2^20 + a.toNat * 2^15 + b.toNat * 2^10 + bn g * 2^5 + bn u * 2^4
/-- The word of HALT. -/
def encHalt : Nat :=
  0xca000001
/-- The word of HALT_R. -/
def encHaltR : Nat :=
  0xca000011
/-- The word of YIELD. -/
def encYield : Nat :=
  0xca000002
/-- The word of WAITEV. -/
def encWaitev (d a b : BitVec 5) : Nat :=
  0xca000003 + d.toNat * 2^20 + a.toNat * 2^15 + b.toNat * 2^10
/-- The word of NOP. -/
def encNop : Nat :=
  0xe0000000
/-- The word of TRAP. -/
def encTrap (a : BitVec 5) (n : BitVec 4) : Nat :=
  0xe0000001 + a.toNat * 2^15 + n.toNat * 2^4
/-- The word of ERET. -/
def encEret : Nat :=
  0xe0000002
/-- The word of ERET_P. -/
def encEretP : Nat :=
  0xe0000012
/-- The word of BRK. -/
def encBrk (n : BitVec 5) : Nat :=
  0xe0000003 + n.toNat * 2^4
/-- The word of PREQ. -/
def encPreq (d : BitVec 5) : Nat :=
  0xe0000004 + d.toNat * 2^20
/-- The word of CHART. -/
def encChart (d a : BitVec 5) : Nat :=
  0xe0000005 + d.toNat * 2^20 + a.toNat * 2^15
/-- The word of CSRRD. -/
def encCsrrd (d : BitVec 5) (c : BitVec 12) : Nat :=
  0xe2000000 + d.toNat * 2^20 + c.toNat
/-- The word of CSRWR. -/
def encCsrwr (a : BitVec 5) (c : BitVec 12) : Nat :=
  0xe2002000 + a.toNat * 2^15 + c.toNat
/-- The word of CSRXCH. -/
def encCsrxch (d a : BitVec 5) (c : BitVec 12) : Nat :=
  0xe2004000 + d.toNat * 2^20 + a.toNat * 2^15 + c.toNat

/-- The words of an instruction: how many bits it has, and their value with word 0 lowest. A machine event has no words. -/
def encode : Instr → Option (Nat × Nat)
  | .add d a b w => some (32, encAdd d a b w)
  | .sub d a b w => some (32, encSub d a b w)
  | .and d a b w => some (32, encAnd d a b w)
  | .or d a b w => some (32, encOr d a b w)
  | .xor d a b w => some (32, encXor d a b w)
  | .andn d a b w => some (32, encAndn d a b w)
  | .orn d a b w => some (32, encOrn d a b w)
  | .sll d a b w => some (32, encSll d a b w)
  | .srl d a b w => some (32, encSrl d a b w)
  | .sra d a b w => some (32, encSra d a b w)
  | .rol d a b w => some (32, encRol d a b w)
  | .ror d a b w => some (32, encRor d a b w)
  | .mul d a b w => some (32, encMul d a b w)
  | .mulh d a b w => some (32, encMulh d a b w)
  | .mulhu d a b w => some (32, encMulhu d a b w)
  | .div d a b w => some (32, encDiv d a b w)
  | .divu d a b w => some (32, encDivu d a b w)
  | .rem d a b w => some (32, encRem d a b w)
  | .remu d a b w => some (32, encRemu d a b w)
  | .min d a b w => some (32, encMin d a b w)
  | .max d a b w => some (32, encMax d a b w)
  | .minu d a b w => some (32, encMinu d a b w)
  | .maxu d a b w => some (32, encMaxu d a b w)
  | .slt d a b w => some (32, encSlt d a b w)
  | .sltu d a b w => some (32, encSltu d a b w)
  | .clz d a w => some (32, encClz d a w)
  | .ctz d a w => some (32, encCtz d a w)
  | .popc d a w => some (32, encPopc d a w)
  | .sext d a b w => some (32, encSext d a b w)
  | .zext d a b w => some (32, encZext d a b w)
  | .brev d a w => some (32, encBrev d a w)
  | .addi d a i => some (32, encAddi d a i)
  | .andi d a i => some (32, encAndi d a i)
  | .ori d a i => some (32, encOri d a i)
  | .xori d a i => some (32, encXori d a i)
  | .slli d a n => some (32, encSlli d a n)
  | .srli d a n => some (32, encSrli d a n)
  | .srai d a n => some (32, encSrai d a n)
  | .slti d a i => some (32, encSlti d a i)
  | .lui d i => some (32, encLui d i)
  | .addpc d i => some (32, encAddpc d i)
  | .gaddr d a b => some (32, encGaddr d a b)
  | .gcoord d a => some (32, encGcoord d a)
  | .gnbr d a n => some (32, encGnbr d a n)
  | .gself d => some (32, encGself d)
  | .bfx d a s w l => some (32, encBfx d a s w l)
  | .bfi d a w l => some (32, encBfi d a w l)
  | .sel d a b c k => some (32, encSel d a b c k)
  | .beq a b d => some (32, encBeq a b d)
  | .bne a b d => some (32, encBne a b d)
  | .blt a b d => some (32, encBlt a b d)
  | .bge a b d => some (32, encBge a b d)
  | .bltu a b d => some (32, encBltu a b d)
  | .bgeu a b d => some (32, encBgeu a b d)
  | .j d => some (32, encJ d)
  | .jal d => some (32, encJal d)
  | .jalr d a i => some (32, encJalr d a i)
  | .loop n a len => some (64, encLoop n a len)
  | .loopq n a b len tag => some (64, encLoopq n a b len tag)
  | .fadd d a b r x p => some (32, encFadd d a b r x p)
  | .fsub d a b r x p => some (32, encFsub d a b r x p)
  | .fmul d a b r x p => some (32, encFmul d a b r x p)
  | .fdiv d a b r p => some (32, encFdiv d a b r p)
  | .fsqrt d a r p => some (32, encFsqrt d a r p)
  | .fmin d a b p => some (32, encFmin d a b p)
  | .fmax d a b p => some (32, encFmax d a b p)
  | .fcmp d a b p => some (32, encFcmp d a b p)
  | .fclass d a p => some (32, encFclass d a p)
  | .fma d a b c r p => some (32, encFma d a b c r p)
  | .fcvt d a r f t => some (32, encFcvt d a r f t)
  | .ld d a z i => some (32, encLd d a z i)
  | .st d a z i => some (32, encSt d a z i)
  | .lda d a z i => some (32, encLda d a z i)
  | .stl d a z i => some (32, encStl d a z i)
  | .ldfe d a i => some (32, encLdfe d a i)
  | .ldfeE d a i => some (32, encLdfeE d a i)
  | .stfe d a i => some (32, encStfe d a i)
  | .stfeF d a i => some (32, encStfeF d a i)
  | .ldv d a z i => some (32, encLdv d a z i)
  | .stv d a z i => some (32, encStv d a z i)
  | .ldvs d a z i => some (32, encLdvs d a z i)
  | .stvs d a z i => some (32, encStvs d a z i)
  | .ldvg d a z i => some (32, encLdvg d a z i)
  | .stvx d a z i => some (32, encStvx d a z i)
  | .amoAdd d a b z => some (32, encAmoAdd d a b z)
  | .amoSub d a b z => some (32, encAmoSub d a b z)
  | .amoAnd d a b z => some (32, encAmoAnd d a b z)
  | .amoOr d a b z => some (32, encAmoOr d a b z)
  | .amoXor d a b z => some (32, encAmoXor d a b z)
  | .amoMin d a b z => some (32, encAmoMin d a b z)
  | .amoMax d a b z => some (32, encAmoMax d a b z)
  | .amoMinu d a b z => some (32, encAmoMinu d a b z)
  | .amoMaxu d a b z => some (32, encAmoMaxu d a b z)
  | .amoSwap d a b z => some (32, encAmoSwap d a b z)
  | .amoAddsat d a b z => some (32, encAmoAddsat d a b z)
  | .amoFadd d a b z => some (32, encAmoFadd d a b z)
  | .amoBfadd d a b z => some (32, encAmoBfadd d a b z)
  | .cas d a b c z => some (32, encCas d a b c z)
  | .amov a b g t => some (32, encAmov a b g t)
  | .amovR d a b g t => some (32, encAmovR d a b g t)
  | .fence s e f r q => some (32, encFence s e f r q)
  | .pbwait a f => some (32, encPbwait a f)
  | .rdpb d s => some (32, encRdpb d s)
  | .vadd d a b g t => some (32, encVadd d a b g t)
  | .vsub d a b g t => some (32, encVsub d a b g t)
  | .vmul d a b g t => some (32, encVmul d a b g t)
  | .vma d a b g t => some (32, encVma d a b g t)
  | .vms d a b g t => some (32, encVms d a b g t)
  | .vmin d a b g t => some (32, encVmin d a b g t)
  | .vmax d a b g t => some (32, encVmax d a b g t)
  | .vabs d a g t => some (32, encVabs d a g t)
  | .vneg d a g t => some (32, encVneg d a g t)
  | .vand d a b g => some (32, encVand d a b g)
  | .vor d a b g => some (32, encVor d a b g)
  | .vxor d a b g => some (32, encVxor d a b g)
  | .vshl d a b g t => some (32, encVshl d a b g t)
  | .vshr d a b g t => some (32, encVshr d a b g t)
  | .vcmp c p a b g t => some (32, encVcmp c p a b g t)
  | .vsel d a b s => some (32, encVsel d a b s)
  | .vmov d a g => some (32, encVmov d a g)
  | .vbcast d b g t => some (32, encVbcast d b g t)
  | .vperm d a b g t => some (32, encVperm d a b g t)
  | .vshuf d a b g t => some (32, encVshuf d a b g t)
  | .vslide d a b g t => some (32, encVslide d a b g t)
  | .vext d a b t => some (32, encVext d a b t)
  | .vins d a b g t => some (32, encVins d a b g t)
  | .vrcp d a g t => some (32, encVrcp d a g t)
  | .vrsq d a g t => some (32, encVrsq d a g t)
  | .vexp2 d a g t => some (32, encVexp2 d a g t)
  | .vlog2 d a g t => some (32, encVlog2 d a g t)
  | .vaddX d a b g t => some (32, encVaddX d a b g t)
  | .vsubX d a b g t => some (32, encVsubX d a b g t)
  | .vmulX d a b g t => some (32, encVmulX d a b g t)
  | .vdwadd d a b g t => some (32, encVdwadd d a b g t)
  | .vdwmul d a b g t => some (32, encVdwmul d a b g t)
  | .vdwnorm d a g t => some (32, encVdwnorm d a g t)
  | .vsumx d a g t => some (32, encVsumx d a g t)
  | .vred d a g t => some (32, encVred d a g t)
  | .vcvt d a f g t => some (32, encVcvt d a f g t)
  | .vpack d a m f g => some (32, encVpack d a m f g)
  | .vunpk d a h f g t => some (32, encVunpk d a h f g t)
  | .vscale d a b g t => some (32, encVscale d a b g t)
  | .vqnt d a f g => some (32, encVqnt d a f g)
  | .vqntDeq d a f g => some (32, encVqntDeq d a f g)
  | .vhad d a m g t s => some (32, encVhad d a m g t s)
  | .vrand d a g t w => some (32, encVrand d a g t w)
  | .pand d a b g => some (32, encPand d a b g)
  | .por d a b g => some (32, encPor d a b g)
  | .pxor d a b g => some (32, encPxor d a b g)
  | .pnot d a g => some (32, encPnot d a g)
  | .pset d a g => some (32, encPset d a g)
  | .psetN d a g => some (32, encPsetN d a g)
  | .pcnt d a g => some (32, encPcnt d a g)
  | .pfirst d a g => some (32, encPfirst d a g)
  | .atake d a => some (32, encAtake d a)
  | .agive a => some (32, encAgive a)
  | .mzero a => some (32, encMzero a)
  | .mdesc d a b => some (32, encMdesc d a b)
  | .mld d => some (32, encMld d)
  | .mma t a b acc ofmt kb => some (64, encMma t a b acc ofmt kb)
  | .mdrain t dd b z drop res rc dr q => some (64, encMdrain t dd b z drop res rc dr q)
  | .mxpq dd ds a rc => some (64, encMxpq dd ds a rc)
  | .bcopy d a b bc fe c sem sv vs => some (64, encBcopy d a b bc fe c sem sv vs)
  | .bfill d a b bc fe c sem sv vs => some (64, encBfill d a b bc fe c sem sv vs)
  | .bstride d a b fe c sem sv => some (64, encBstride d a b fe c sem sv)
  | .fmget a disp => some (64, encFmget a disp)
  | .fmput a disp => some (64, encFmput a disp)
  | .fmgath a disp => some (64, encFmgath a disp)
  | .fmscat a disp => some (64, encFmscat a disp)
  | .vflip a b sem sv => some (64, encVflip a b sem sv)
  | .satt d a b => some (32, encSatt d a b)
  | .sdet d a => some (32, encSdet d a)
  | .spush d a h => some (32, encSpush d a h)
  | .spull d a b h => some (32, encSpull d a b h)
  | .smark a b e => some (32, encSmark a b e)
  | .send d a b c e tag dk => some (64, encSend d a b c e tag dk)
  | .sendv d a tag dk => some (64, encSendv d a tag dk)
  | .recv d a b c e tag => some (64, encRecv d a b c e tag)
  | .recvv d a tag => some (64, encRecvv d a tag)
  | .peek d a tag => some (64, encPeek d a tag)
  | .tflush d tag => some (64, encTflush d tag)
  | .hset u s a t => some (32, encHset u s a t)
  | .hsetClr t => some (32, encHsetClr t)
  | .hret => some (32, encHret)
  | .hmask d a => some (32, encHmask d a)
  | .bmask d a => some (32, encBmask d a)
  | .barv d c r => some (32, encBarv d c r)
  | .barw c b => some (32, encBarw c b)
  | .bart d c b => some (32, encBart d c b)
  | .semi s b => some (32, encSemi s b)
  | .semw s b => some (32, encSemw s b)
  | .semt d s b => some (32, encSemt d s b)
  | .sems d s b => some (32, encSems d s b)
  | .feclr a b => some (32, encFeclr a b)
  | .feset a b => some (32, encFeset a b)
  | .fork d a b => some (32, encFork d a b)
  | .join a => some (32, encJoin a)
  | .tpop d => some (32, encTpop d)
  | .tpopS d b => some (32, encTpopS d b)
  | .steal d a => some (32, encSteal d a)
  | .tdone a => some (32, encTdone a)
  | .tdoneK a => some (32, encTdoneK a)
  | .spawn d a b g u => some (32, encSpawn d a b g u)
  | .halt => some (32, encHalt)
  | .haltR => some (32, encHaltR)
  | .yield => some (32, encYield)
  | .waitev d a b => some (32, encWaitev d a b)
  | .nop => some (32, encNop)
  | .trap a n => some (32, encTrap a n)
  | .eret => some (32, encEret)
  | .eretP => some (32, encEretP)
  | .brk n => some (32, encBrk n)
  | .preq d => some (32, encPreq d)
  | .chart d a => some (32, encChart d a)
  | .csrrd d c => some (32, encCsrrd d c)
  | .csrwr a c => some (32, encCsrwr a c)
  | .csrxch d a c => some (32, encCsrxch d a c)
  | .strandWake _ _ => none
  | .promotion _ _ => none
  | .waitevTimeout _ _ => none
  | .unitExecute _ => none
  | .mmaKstep _ => none
  | .quayAdmit _ => none
  | .feBusyReissue _ => none
  | .loadReturn _ _ _ => none
  | .storeQueueRelease _ _ => none
  | .writeAck _ => none
  | .retryReissue _ _ => none
  | .patrolScrub _ _ _ => none
  | .semIncrement _ _ => none
  | .sendQueueSend _ _ => none
  | .messageAccept _ => none
  | .acceptanceNotice _ => none
  | .messageResend _ _ => none
  | .refusalHoldExpire _ => none
  | .handlerEntry _ _ => none
  | .barrierPhase _ _ => none
  | .stealSend _ _ => none
  | .stealRequest _ => none
  | .stealReply _ => none
  | .launchIdleComplete _ _ => none
  | .streamEntryValidate _ _ _ => none
  | .streamEntryInvalidate _ _ _ => none
  | .streamPosition _ _ => none
  | .slotFreeNotice _ => none
  | .streamWatchdog _ _ => none
  | .sinkWrite _ _ => none
  | .sinkEnd _ _ => none
  | .rootReport _ => none
  | .bulkExecute _ _ => none
  | .addressedBeat _ _ => none
  | .bulkEndFlit _ _ => none
  | .bulkAck _ _ => none
  | .ringGo _ _ _ _ => none
  | .ringStep _ _ _ => none
  | .ringStall _ _ _ => none
  | .straitAdmit _ => none
  | .tableWalk _ _ => none
  | .farLineComplete _ _ => none
  | .faultPwaitExpire _ _ _ => none
  | .actResume _ _ _ => none
  | .actFail _ _ _ => none
  | .farCommandComplete _ => none
  | .leafCommit _ _ => none
  | .flush _ _ => none
  | .cntop _ _ => none
  | .farLinkDown _ _ => none
  | .farIde _ _ => none
  | .errorRecord _ => none
  | .preemptRequest _ _ _ _ => none
  | .preemptStop _ => none
  | .preemptSave _ => none
  | .res _ _ => none
  | .chartAmendment _ => none
  | .moveCopyDone _ _ => none
  | .holdRelease _ _ => none
  | .linkCrcExhausted _ _ _ _ => none
  | .linkRetryRate _ _ _ _ => none
  | .routerFailure _ _ _ => none
  | .quayFail _ _ _ => none
  | .form _ => none
  | .teardown _ => none
  | .preempt _ => none
  | .resume _ => none
  | .attest _ => none
  | .keyload _ => none
  | .keyrevoke _ => none
  | .domain _ => none
  | .logread _ => none
  | .sensors _ => none
  | .plimit _ => none
  | .doorbellLaunch _ _ => none
  | .doorbellSignal _ _ => none
  | .irq _ _ => none
  | .nwin _ _ _ _ => none
  | .exmap _ _ _ => none
  | .completionBlockWrite _ _ _ => none
  | .registerWrite _ _ _ _ => none
  | .powerOn _ => none
  | .powerWindow _ => none
  | .currentLimit _ => none
  | .sensorThrottle _ _ => none
  | .sensorPowerOff _ _ => none
  | .halifLinkFail _ _ => none
  | .halifLinkTrain _ _ => none
  | .modulePowerLoss _ => none
  | .straitLinkTraining _ _ => none
  | .dynamicCapacityExtent _ _ => none
  | .halifLaneLoss _ _ => none
  | .halifPeerConfirmation _ _ => none
  | .barrierWire _ _ _ => none
  | .stealLane _ _ _ => none
  | .bulkWatchdog _ => none

end Sys2Proof
end

