-- ==== Sys2Proof/Machine/Num.lean ====
section
/-!
DEFINITION. Number formats and arithmetic rules (04_numbers): decoding a format into an exact value, rounding an exact value into
a format, the NaN and poison rule, flags, stochastic rounding's random words, and the exact operations every unit rounds.
Exact values are sign, natural magnitude and power of two, so nothing is lost before the one rounding.
-/
namespace Sys2Proof.Num

/-- Exceptions an operation raised. Bits 0 to 6 are FLAGS [6:0] (R116: NV DZ OF UF NX PAIR_INEXACT SATURATED); bits 7, 8, 9 say why
NV was raised (R393 kinds 5, 6, 0); bit 10 is POISON_VALUE (R107), which always traps. -/
abbrev Exc := BitVec 11

def excNone : Exc := 0
/-- NV for a signalling NaN operand (R393 kind 5). -/
def excSNaN : Exc := 0x081
/-- NV for a conversion to an integer type (R393 kind 6). -/
def excInt : Exc := 0x101
/-- NV for any other invalid operation (R393 kind 0). -/
def excInv : Exc := 0x201
def excDZ : Exc := 0x002
def excOF : Exc := 0x004
def excUF : Exc := 0x008
def excNX : Exc := 0x010
def excPair : Exc := 0x020
def excSat : Exc := 0x040
/-- POISON_VALUE (R107). -/
def excPoison : Exc := 0x400

/-- Which special values a floating format has (R92, R95). -/
inductive Cls where
  /-- F64, F32, F16, BF16, AX80: infinities, NaNs, poison NaNs. -/
  | ieee
  /-- E5M2: as IEEE, but one poison code, 0x7F. -/
  | e5m2
  /-- E4M3: no infinity; NaN 0xFF; poison 0x7F. -/
  | e4m3
  /-- E2M3, E3M2, E2M1: finite values only. -/
  | finite
deriving DecidableEq, Repr

/-- A floating format: exponent and fraction widths, bias, largest finite magnitude code, special values, trap format group (R393). -/
structure Fmt where
  ew : Nat
  fw : Nat
  bias : Nat
  maxCode : Nat
  cls : Cls
  grp : Nat
deriving DecidableEq, Repr

def F64 : Fmt := ⟨11, 52, 1023, 0x7FEFFFFFFFFFFFFF, .ieee, 2⟩
def F32 : Fmt := ⟨8, 23, 127, 0x7F7FFFFF, .ieee, 1⟩
def F16 : Fmt := ⟨5, 10, 15, 0x7BFF, .ieee, 0⟩
def BF16 : Fmt := ⟨8, 7, 127, 0x7F7F, .ieee, 3⟩
def E4M3 : Fmt := ⟨4, 3, 7, 0x7E, .e4m3, 4⟩
def E5M2 : Fmt := ⟨5, 2, 15, 0x7B, .e5m2, 4⟩
def E2M3 : Fmt := ⟨2, 3, 1, 0x1F, .finite, 5⟩
def E3M2 : Fmt := ⟨3, 2, 3, 0x1F, .finite, 5⟩
def E2M1 : Fmt := ⟨2, 1, 1, 0x7, .finite, 5⟩
/-- R101: AX80. -/
def AX80 : Fmt := ⟨15, 64, 16383, 0x7FFEFFFFFFFFFFFFFFFF, .ieee, 2⟩

/-- Width of an element in bits. -/
def Fmt.width (f : Fmt) : Nat := 1 + f.ew + f.fw

/-- Weight exponent of the last bit of a subnormal. -/
def Fmt.qmin (f : Fmt) : Int := 1 - (f.bias : Int) - (f.fw : Int)

/-- The sign bit as a number. -/
def Fmt.sgn (f : Fmt) (neg : Bool) : Nat := if neg then 2^(f.ew + f.fw) else 0

/-- +infinity of a format that has it. -/
def Fmt.infCode (f : Fmt) : Nat := (2^f.ew - 1) * 2^f.fw

/-- R92, R95: the default NaN. -/
def Fmt.defNaN (f : Fmt) : Nat :=
  match f.cls with
  | .e4m3 => 0xFF
  | .finite => 0
  | _ => f.infCode + 2^(f.fw - 1)

/-- A decoded operand: ± m × 2^e, an infinity, a NaN with its payload below the quiet bit (and that field's width), or poison with
the raw code and its origin (0 where the format keeps none, R105). -/
inductive Val where
  | num (neg : Bool) (m : Nat) (e : Int)
  | inf (neg : Bool)
  | nan (neg sig : Bool) (pay payW : Nat)
  | poison (raw origin : Nat)
deriving DecidableEq, Repr

/-- R92 to R95, R101, R105: decode a code of a format. An AX80 NaN is poison by FRAC[62] alone, and gets its FRAC[63] set where it is written
again; one with neither bit counts as signalling, as in the IEEE formats (log 124). -/
def unpack (f : Fmt) (raw0 : Nat) : Val :=
  let raw := raw0 % 2^f.width
  let neg := raw / 2^(f.ew + f.fw) == 1
  let ex := raw / 2^f.fw % 2^f.ew
  let fr := raw % 2^f.fw
  let number : Val := if ex == 0 then .num neg fr f.qmin else .num neg (2^f.fw + fr) (f.qmin + (ex : Int) - 1)
  match f.cls with
  | .finite => number
  | .e4m3 => if raw == 0x7F then .poison raw 0 else if raw == 0xFF then .nan true false 0 0 else number
  | .e5m2 =>
    if ex != 31 then number else if fr == 0 then .inf neg
    else if raw == 0x7F then .poison raw 0 else .nan neg (fr == 1) 0 0
  | .ieee =>
    if ex != 2^f.ew - 1 then number else if fr == 0 then .inf neg
    else if (if f.fw == 64 then fr.testBit 62 else fr / 2^(f.fw - 2) == 3) then
      .poison (if f.fw == 64 then raw ||| 2^63 else raw) (if 23 <= f.fw then fr % 2^21 else 0)
    else .nan neg (fr / 2^(f.fw - 1) == 0) (fr % 2^(f.fw - 1)) (f.fw - 1)

/-- R105: the poison code of a format that has one. -/
def poisonCode (f : Fmt) (origin : Nat) : Nat :=
  match f.cls with
  | .finite => 0
  | .e4m3 => 0x7F
  | .e5m2 => 0x7F
  | .ieee => f.infCode + 3 * 2^(f.fw - 2) + (if 23 <= f.fw then origin % 2^21 else 0)

/-- R94: a NaN delivered in a format, quiet, its payload fitted to the target field and never poison. -/
def nanCode (f : Fmt) (neg : Bool) (pay payW : Nat) : Nat :=
  match f.cls with
  | .e4m3 => 0xFF
  | .finite => 0
  | .e5m2 => f.sgn neg + 0x7E
  | .ieee =>
    let tw := f.fw - 1
    let p := if payW <= tw then pay * 2^(tw - payW) else pay / 2^(payW - tw)
    f.sgn neg + f.infCode + 2^(f.fw - 1) + p % 2^(f.fw - 2)

/-- Rounding codes (R108) after DYN has been resolved. -/
def rcRNE : Nat := 0
def rcRZ : Nat := 1
def rcRD : Nat := 2
def rcRU : Nat := 3
def rcRNA : Nat := 4
def rcSR : Nat := 5

/-- R108, R111: the magnitude m / 2^sh rounded to a natural number under rc; under SR the random word enters below the last bit. -/
def roundDiv (rc : Nat) (neg : Bool) (m sh rnd : Nat) : Nat :=
  let q := m / 2^sh
  let r := m % 2^sh
  match rc with
  | 1 => q
  | 2 => if neg && r != 0 then q + 1 else q
  | 3 => if !neg && r != 0 then q + 1 else q
  | 4 => if r != 0 && 2^sh <= 2 * r then q + 1 else q
  | 5 => (m * 2^32 / 2^sh + rnd) / 2^32
  | _ => if 2^sh < 2 * r || (2 * r == 2^sh && q % 2 == 1 && r != 0) then q + 1 else q

/-- A delivered code with the exceptions it raised. -/
abbrev Res := Nat × Exc

/-- R109: the result when the rounded magnitude lies beyond the largest finite one. -/
def overflow (f : Fmt) (rc : Nat) (sat neg : Bool) : Res :=
  let clamp := f.sgn neg + f.maxCode
  if f.cls == .finite || sat then (clamp, excSat ||| excNX)
  else
    let toInf := match rc with
      | 1 => false
      | 2 => neg
      | 3 => !neg
      | _ => true
    if toInf then ((if f.cls == .e4m3 then 0xFF else f.sgn neg + f.infCode), excOF ||| excNX) else (clamp, excOF ||| excNX)

/-- RoundTo of R108 to R111 for a nonzero magnitude m × 2^e: the code in format f, with OF, UF, NX and SATURATED. -/
def roundNum (f : Fmt) (rc : Nat) (sat : Bool) (rnd : Nat) (neg : Bool) (m : Nat) (e : Int) : Res :=
  if m == 0 then (f.sgn neg, excNone) else
  let qu : Int := (m.log2 : Int) + e - (f.fw : Int)
  let q : Int := if qu < f.qmin then f.qmin else qu
  let up := (e - q).toNat
  let dn := (q - e).toNat
  let m' := m * 2^up
  let r := roundDiv rc neg m' dn rnd
  let inexact := r * 2^dn != m'
  let code := (q - f.qmin).toNat * 2^f.fw + r
  if f.maxCode < code then overflow f rc sat neg
  else
    let ru := roundDiv rc neg (m * 2^(e - qu).toNat) (qu - e).toNat rnd
    let tiny := qu < f.qmin && !(ru == 2^(f.fw + 1) && qu + 1 == f.qmin)
    (f.sgn neg + code, (if inexact then excNX else excNone) ||| (if inexact && tiny then excUF else excNone))

/-- R109: an infinity delivered in a format. -/
def infTo (f : Fmt) (sat neg : Bool) : Res :=
  match f.cls with
  | .ieee => (f.sgn neg + f.infCode, excNone)
  | .e5m2 => (f.sgn neg + f.infCode, excNone)
  | .e4m3 => if sat then (f.sgn neg + f.maxCode, excSat ||| excNX) else (0xFF, excOF ||| excNX)
  | .finite => (f.sgn neg + f.maxCode, excSat ||| excNX)

/-- The exact outcome of an operation on operands that are no NaN: invalid (R94 step 3), an infinity with its exceptions, or a
number. -/
inductive XR where
  | inv
  | inf (neg : Bool) (x : Exc)
  | num (neg : Bool) (m : Nat) (e : Int)
deriving DecidableEq, Repr

/-- Round an exact outcome into a format. -/
def finish (f : Fmt) (rc : Nat) (sat : Bool) (rnd : Nat) : XR → Res
  | .inv => (f.defNaN, excInv)
  | .inf neg x => (f.sgn neg + f.infCode, x)
  | .num neg m e => roundNum f rc sat rnd neg m e

def Val.isPoison : Val → Bool
  | .poison _ _ => true
  | _ => false

def Val.isNaN : Val → Bool
  | .nan _ _ _ _ => true
  | _ => false

def Val.isSig : Val → Bool
  | .nan _ sig _ _ => sig
  | _ => false

def Val.isInf : Val → Bool
  | .inf _ => true
  | _ => false

def Val.isZero : Val → Bool
  | .num _ m _ => m == 0
  | _ => false

/-- The sign of a number or infinity. -/
def Val.neg : Val → Bool
  | .num n _ _ => n
  | .inf n => n
  | .nan n _ _ _ => n
  | .poison _ _ => false

/-- The operand with its sign inverted. -/
def Val.negate : Val → Val
  | .num n m e => .num (!n) m e
  | .inf n => .inf (!n)
  | v => v

/-- R94 steps 1 and 2 over the operands in order: the poison or NaN result, or none. -/
def nanRes (f : Fmt) (vs : List Val) : Option Res :=
  match vs.find? Val.isPoison with
  | some (.poison raw _) => some (raw, excNone)
  | _ =>
    match vs.find? Val.isNaN with
    | some (.nan n _ p w) => some (nanCode f n p w, if vs.any Val.isSig then excSNaN else excNone)
    | _ => none

/-- Signed exact numbers as an integer multiple of 2^e. -/
def toInt (neg : Bool) (m : Nat) : Int := if neg then -(m : Int) else (m : Int)

/-- Exact a + b; an exact zero takes its sign as R93 lays down. -/
def addNum (rc : Nat) (n1 : Bool) (m1 : Nat) (e1 : Int) (n2 : Bool) (m2 : Nat) (e2 : Int) : XR :=
  if m1 == 0 && m2 == 0 then .num (if n1 == n2 then n1 else rc == 2) 0 e1
  else if m1 == 0 then .num n2 m2 e2
  else if m2 == 0 then .num n1 m1 e1
  else
    let e := if e1 < e2 then e1 else e2
    let s := toInt n1 (m1 * 2^(e1 - e).toNat) + toInt n2 (m2 * 2^(e2 - e).toNat)
    if s == 0 then .num (rc == 2) 0 e else .num (s < 0) s.natAbs e

/-- a + b over numbers and infinities. -/
def xAdd (rc : Nat) (a b : Val) : XR :=
  match a, b with
  | .inf n, .inf n' => if n == n' then .inf n excNone else .inv
  | .inf n, _ => .inf n excNone
  | _, .inf n => .inf n excNone
  | .num n1 m1 e1, .num n2 m2 e2 => addNum rc n1 m1 e1 n2 m2 e2
  | _, _ => .inv

/-- a × b over numbers and infinities. -/
def xMul (a b : Val) : XR :=
  match a, b with
  | .num n1 m1 e1, .num n2 m2 e2 => .num (n1 != n2) (m1 * m2) (e1 + e2)
  | a, b => if a.isZero || b.isZero then .inv else .inf (a.neg != b.neg) excNone

/-- An exact outcome as an operand. -/
def XR.toVal : XR → Val
  | .inv => .nan false false 0 0
  | .inf n _ => .inf n
  | .num n m e => .num n m e

/-- a × b + c, with no rounding between (R121). -/
def xFma (rc : Nat) (a b c : Val) : XR :=
  match xMul a b with
  | .inv => .inv
  | p => xAdd rc p.toVal c

/-- Extra quotient bits kept below the last bit of any format, so that one sticky bit decides every rounding. -/
def divBits : Nat := 200

/-- a / b, with DZ for a finite nonzero dividend and a zero divisor (R170). -/
def xDiv (a b : Val) : XR :=
  let n := a.neg != b.neg
  match a, b with
  | .inf _, .inf _ => .inv
  | .inf _, _ => .inf n excNone
  | _, .inf _ => .num n 0 0
  | .num _ m1 e1, .num _ m2 e2 =>
    if m2 == 0 then (if m1 == 0 then .inv else .inf n excDZ)
    else
      let q := m1 * 2^divBits / m2
      let r := m1 * 2^divBits % m2
      .num n (2 * q + (if r == 0 then 0 else 1)) (e1 - e2 - (divBits : Int) - 1)
  | _, _ => .inv

/-- Floor of the square root of x, found bit by bit from bit k - 1 down. -/
def isqrtAux (x : Nat) : Nat → Nat → Nat
  | 0, r => r
  | k + 1, r =>
    let t := r + 2^k
    isqrtAux x k (if t * t <= x then t else r)

/-- Floor of the square root. -/
def isqrt (x : Nat) : Nat := isqrtAux x (x.log2 / 2 + 1) 0

/-- √a; √(−0) is −0 and a below zero is invalid (R170). -/
def xSqrt (a : Val) : XR :=
  match a with
  | .num n m e =>
    if m == 0 then .num n 0 e
    else if n then .inv
    else
      let odd := e % 2 != 0
      let m' := (if odd then 2 * m else m) * 2^(2 * divBits)
      let e' := if odd then e - 1 else e
      let r := isqrt m'
      .num false (2 * r + (if r * r == m' then 0 else 1)) (e' / 2 - (divBits : Int) - 1)
  | .inf n => if n then .inv else .inf false excNone
  | _ => .inv

/-- A one-operand operation under R94. -/
def op1 (f : Fmt) (rc : Nat) (sat : Bool) (rnd : Nat) (op : Val → XR) (a : Nat) : Res :=
  let va := unpack f a
  match nanRes f [va] with
  | some r => r
  | none => finish f rc sat rnd (op va)

/-- A two-operand operation under R94. -/
def op2 (f : Fmt) (rc : Nat) (sat : Bool) (rnd : Nat) (op : Val → Val → XR) (a b : Nat) : Res :=
  let va := unpack f a
  let vb := unpack f b
  match nanRes f [va, vb] with
  | some r => r
  | none => finish f rc sat rnd (op va vb)

def fAdd (f : Fmt) (rc rnd a b : Nat) : Res := op2 f rc false rnd (xAdd rc) a b
def fSub (f : Fmt) (rc rnd a b : Nat) : Res := op2 f rc false rnd (fun x y => xAdd rc x y.negate) a b
def fMul (f : Fmt) (rc rnd a b : Nat) : Res := op2 f rc false rnd xMul a b
def fDiv (f : Fmt) (rc rnd a b : Nat) : Res := op2 f rc false rnd xDiv a b
def fSqrt (f : Fmt) (rc rnd a : Nat) : Res := op1 f rc false rnd xSqrt a

/-- FMA under R172: a × b + c, or c − a × b when neg is set (VMS, R180). 0 × ∞ beside a NaN c sets NV and delivers c. -/
def fFma (f : Fmt) (rc rnd : Nat) (neg : Bool) (a b c : Nat) : Res :=
  let va := unpack f a
  let vb := unpack f b
  let vc := unpack f c
  let op := if neg then xFma rc va.negate vb vc else xFma rc va vb vc
  match nanRes f [va, vb, vc] with
  | some (r, x) =>
    let numeric := !(va.isPoison || vb.isPoison || vc.isPoison || va.isNaN || vb.isNaN)
    if numeric && vc.isNaN && xMul va vb == .inv then (r, x ||| excInv) else (r, x)
  | none => finish f rc false rnd op

/-- Numbers and infinities as an order key over a common exponent: a < b. -/
def lessVal (a b : Val) : Bool :=
  match a, b with
  | .inf n, .inf n' => n && !n'
  | .inf n, _ => n
  | _, .inf n => !n
  | .num n1 m1 e1, .num n2 m2 e2 =>
    let e := if e1 < e2 then e1 else e2
    toInt n1 (m1 * 2^(e1 - e).toNat) < toInt n2 (m2 * 2^(e2 - e).toNat)
  | _, _ => false

/-- FMIN and FMAX (R170): IEEE minimumNumber and maximumNumber with −0 below +0 and the poison rule. -/
def fMinMax (f : Fmt) (mx : Bool) (a0 b0 : Nat) : Res :=
  let a := a0 % 2^f.width
  let b := b0 % 2^f.width
  let va := unpack f a
  let vb := unpack f b
  match [va, vb].find? Val.isPoison with
  | some (.poison raw _) => (raw, excNone)
  | _ =>
    let x := if va.isSig || vb.isSig then excSNaN else excNone
    match va, vb with
    | .nan n _ p w, .nan _ _ _ _ => (nanCode f n p w, x)
    | .nan _ _ _ _, _ => (b, x)
    | _, .nan _ _ _ _ => (a, x)
    | _, _ =>
      let aLess := lessVal va vb || (!lessVal vb va && va.neg && !vb.neg)
      let bLess := lessVal vb va || (!lessVal va vb && vb.neg && !va.neg)
      if mx then (if aLess then b else a, excNone) else (if bLess then b else a, excNone)

/-- FCMP (R171): 0 equal, 1 less, 2 greater, 3 unordered; NV only for a signalling NaN. -/
def fCmp (f : Fmt) (a b : Nat) : Nat × Exc :=
  let va := unpack f a
  let vb := unpack f b
  let x := if va.isSig || vb.isSig then excSNaN else excNone
  if va.isNaN || vb.isNaN || va.isPoison || vb.isPoison then (3, x)
  else if lessVal va vb then (1, x) else if lessVal vb va then (2, x) else (0, x)

/-- FCLASS (R171): the class bit. -/
def fClass (f : Fmt) (a : Nat) : Nat :=
  match unpack f a with
  | .poison _ _ => 10
  | .nan _ sig _ _ => if sig then 8 else 9
  | .inf n => if n then 0 else 7
  | .num n m _ =>
    if m == 0 then (if n then 3 else 4)
    else if m < 2^f.fw then (if n then 2 else 5) else (if n then 1 else 6)

/-- R188: the error term of a pair operation with exact result X and delivered half h. -/
def errTerm (f : Fmt) (neg : Bool) (m : Nat) (e : Int) (h : Nat) : Res :=
  match unpack f h with
  | .num hn hm he =>
    match addNum 0 neg m e (!hn) hm he with
    | .num n dm de =>
      if dm == 0 then (0, excNone)
      else
        let r := (roundNum f rcRNE false 0 n dm de).1
        match unpack f r with
        | .num rn rm re =>
          match addNum 0 n dm de (!rn) rm re with
          | .num _ xm _ => (r, if xm == 0 then excNone else excPair)
          | _ => (r, excPair)
        | _ => (r, excPair)
    | _ => (0, excNone)
  | _ => (f.infCode + 2^(f.fw - 1) + 0xF0, excPair)

/-- The pair (h, l) of R191 and R194 with the exceptions of R190. PAIR_INEXACT accompanies every clamped overflow (R189). -/
def pairOp (f : Fmt) (rc : Nat) (sat : Bool) (rnd : Nat) (op : Val → Val → XR) (a b : Nat) : Nat × Nat × Exc :=
  let va := unpack f a
  let vb := unpack f b
  match nanRes f [va, vb] with
  | some (r, x) => (r, r, x)
  | none =>
    match op va vb with
    | .inv => (f.defNaN, f.defNaN, excInv)
    | .inf n _ => (f.sgn n + f.infCode, 0, excNone)
    | .num n m e =>
      let (h, x) := roundNum f rc sat rnd n m e
      let (l, y) := errTerm f n m e h
      (h, l, x ||| y ||| (if x &&& excSat != 0 then excPair else excNone))

/-- The round-to-integer of R111: two's-complement targets under SR take the floor of the signed value plus the random word. -/
def roundInt (rc rnd : Nat) (neg : Bool) (m : Nat) (e : Int) : Int :=
  if 0 <= e then toInt neg (m * 2^e.toNat)
  else
    let sh := (-e).toNat
    if rc == 5 then (toInt neg (m * 2^32) + ((rnd * 2^sh : Nat) : Int)) / ((2^(sh + 32) : Nat) : Int)
    else toInt neg (roundDiv rc neg m sh rnd)

/-- Whether an integer equals the exact value ± m × 2^e. -/
def sameInt (r : Int) (neg : Bool) (m : Nat) (e : Int) : Bool :=
  if 0 <= e then r == toInt neg (m * 2^e.toNat) else r * ((2^(-e).toNat : Nat) : Int) == toInt neg m

/-- An integer type: width and signedness. -/
structure ITy where
  w : Nat
  signed : Bool
deriving DecidableEq, Repr

def ITy.lo (t : ITy) : Int := if t.signed then -((2^(t.w - 1) : Nat) : Int) else 0
def ITy.hi (t : ITy) : Int := if t.signed then ((2^(t.w - 1) : Nat) : Int) - 1 else ((2^t.w : Nat) : Int) - 1

/-- The value of the low w bits in an integer type. -/
def ITy.value (t : ITy) (raw : Nat) : Int :=
  let r := raw % 2^t.w
  if t.signed && 2^(t.w - 1) <= r then (r : Int) - ((2^t.w : Nat) : Int) else (r : Int)

/-- An integer's low w bits. -/
def bitsOf (w : Nat) (v : Int) : Nat := (v % ((2^w : Nat) : Int)).toNat

/-- float → integer (R173, R208): clamped with NV out of range, NX inexact, 0 with NV for a NaN, POISON_VALUE for poison. -/
def toITy (f : Fmt) (t : ITy) (rc rnd a : Nat) : Res :=
  match unpack f a with
  | .poison _ _ => (0, excPoison)
  | .nan _ sig _ _ => (0, if sig then excSNaN ||| excInt else excInt)
  | .inf n => (bitsOf t.w (if n then t.lo else t.hi), excInt)
  | .num n m e =>
    let r := roundInt rc rnd n m e
    if r < t.lo then (bitsOf t.w t.lo, excInt)
    else if t.hi < r then (bitsOf t.w t.hi, excInt)
    else (bitsOf t.w r, if sameInt r n m e then excNone else excNX)

/-- integer → float (R173, R208). -/
def ofITy (f : Fmt) (t : ITy) (rc : Nat) (sat : Bool) (rnd a : Nat) : Res :=
  let v := t.value a
  roundNum f rc sat rnd (v < 0) v.natAbs 0

/-- float → another float (R173, R208, R210): R109 under SAT, NaN payload by R94, poison re-encoded by R105. -/
def convert (tf src : Fmt) (rc : Nat) (sat : Bool) (rnd a : Nat) : Res :=
  match unpack src a with
  | .poison _ o => if tf.cls == .finite then (0, excPoison) else (poisonCode tf o, excNone)
  | .nan n sig p w =>
    (nanCode tf n p w, (if sig then excSNaN else excNone) ||| (if tf.cls == .finite then excInv else excNone))
  | .inf n => infTo tf sat n
  | .num n m e => roundNum tf rc sat rnd n m e

/-- float → same float (R173, R208): an integral value of the format; NX when it changes; no OF or UF. -/
def integral (f : Fmt) (rc rnd a : Nat) : Res :=
  let va := unpack f a
  match nanRes f [va] with
  | some r => r
  | none =>
    match va with
    | .num n m e =>
      if 0 <= e then (a % 2^f.width, excNone)
      else
        let sh := (-e).toNat
        let r := roundDiv rc n m sh rnd
        ((roundNum f rcRNE false 0 n r 0).1, if r * 2^sh == m then excNone else excNX)
    | _ => (a % 2^f.width, excNone)

/-- R113: one Philox round. -/
def philoxRound (k0 k1 : Nat) (c : Nat × Nat × Nat × Nat) : Nat × Nat × Nat × Nat :=
  let p0 := 0xD2511F53 * c.1
  let p1 := 0xCD9E8D57 * c.2.2.1
  ((p1 / 2^32) ^^^ c.2.1 ^^^ k0, p1 % 2^32, (p0 / 2^32) ^^^ c.2.2.2 ^^^ k1, p0 % 2^32)

/-- R113: n further rounds, each after the first bumping the key. -/
def philoxLoop : Nat → Nat → Nat → Nat × Nat × Nat × Nat → Nat × Nat × Nat × Nat
  | 0, _, _, c => c
  | n + 1, k0, k1, c => philoxLoop n ((k0 + 0x9E3779B9) % 2^32) ((k1 + 0xBB67AE85) % 2^32) (philoxRound k0 k1 c)

/-- R113: Philox 4×32 with 10 rounds. -/
def philox (key c0 c1 c2 c3 : Nat) : Nat × Nat × Nat × Nat :=
  philoxLoop 10 (key % 2^32) (key / 2^32 % 2^32) (c0 % 2^32, c1 % 2^32, c2 % 2^32, c3 % 2^32)

/-- Fixed-point precision of the functions of R185, in bits. -/
def fxBits : Nat := 320

/-- ln 2 × 2^320, truncated. -/
def ln2fx : Nat := 0xb17217f7d1cf79abc9e3b39803f2f6af40f343267298b62d8a0d175b8baafa2be7b876206debac98

/-- Taylor sum of e^y − 1 for y in fixed point: terms t, t·y/2, t·y/(2·3), … from the k-th on. -/
def expSum (y : Nat) : Nat → Nat → Nat → Nat → Nat
  | 0, _, _, acc => acc
  | n + 1, k, t, acc => expSum y n (k + 1) (t * y / 2^fxBits / (k + 1)) (acc + t)

/-- 2^f for f in [0, 1) in fixed point. -/
def exp2fx (f : Nat) : Nat :=
  let y := f * ln2fx / 2^fxBits
  2^fxBits + expSum y 90 1 y 0

/-- Sum of z^(2k+1)/(2k+1) in fixed point. -/
def atanhSum (z2 : Nat) : Nat → Nat → Nat → Nat → Nat
  | 0, _, _, acc => acc
  | n + 1, k, t, acc => atanhSum z2 n (k + 2) (t * z2 / 2^fxBits) (acc + t / k)

/-- log2 of x / 2^l for 2^l ≤ x < 2^(l+1), in fixed point. -/
def log2fx (x l : Nat) : Nat :=
  let z := (x - 2^l) * 2^fxBits / (x + 2^l)
  let s := atanhSum (z * z / 2^fxBits) 120 1 z 0
  2 * s * 2^fxBits / ln2fx

/-- 1/√a (R185). -/
def xRsqrt (a : Val) : XR :=
  match a with
  | .num n m e =>
    if m == 0 then .inf n excDZ
    else if n then .inv
    else
      let odd := e % 2 != 0
      let m' := if odd then 2 * m else m
      let e' := if odd then e - 1 else e
      let q := isqrt (2^(2 * fxBits) / m')
      .num false (2 * q + (if q * q * m' == 2^(2 * fxBits) then 0 else 1)) (-(e' / 2) - (fxBits : Int) - 1)
  | .inf n => if n then .inv else .num false 0 0
  | _ => .inv

/-- 1/a (R185). -/
def xRcp (a : Val) : XR :=
  match a with
  | .num n m _ => if m == 0 then .inf n excDZ else xDiv (.num false 1 0) a
  | .inf n => .num n 0 0
  | _ => .inv

/-- 2^a (R185); a beyond any format's exponent range stands for a value just as far out. -/
def xExp2 (a : Val) : XR :=
  match a with
  | .num n m e =>
    if m == 0 then .num false 1 0
    else if 20 < (m.log2 : Int) + e then (if n then .num false 1 (-100000) else .num false 1 100000)
    else if 0 <= e then .num false 1 (toInt n (m * 2^e.toNat))
    else
      let sh := (-e).toNat
      let v := toInt n m
      let fl := v / ((2^sh : Nat) : Int)
      let fr := (v % ((2^sh : Nat) : Int)).toNat
      if fr == 0 then .num false 1 fl
      else .num false (2 * exp2fx (fr * 2^fxBits / 2^sh) + 1) (fl - (fxBits : Int) - 1)
  | .inf n => if n then .num false 0 0 else .inf false excNone
  | _ => .inv

/-- log2 a (R185). -/
def xLog2 (a : Val) : XR :=
  match a with
  | .num n m e =>
    if m == 0 then .inf true excDZ
    else if n then .inv
    else
      let l := m.log2
      let k : Int := (l : Int) + e
      if m == 2^l then .num (k < 0) k.natAbs 0
      else
        let v : Int := k * ((2^fxBits : Nat) : Int) + (log2fx m l : Int)
        if v < 0 then .num true (2 * v.natAbs - 1) (-(fxBits : Int) - 1)
        else .num false (2 * v.natAbs + 1) (-(fxBits : Int) - 1)
  | .inf n => if n then .inv else .inf false excNone
  | _ => .inv

/-- An SBF block (R98): header exponent, micro bits, sixteen integer mantissas, and the origin when E is 255 (R99). -/
structure Sbf where
  e : Nat
  micro : Nat
  q : List Int
  origin : Nat
deriving DecidableEq, Repr

def Sbf.zero : Sbf := ⟨0, 0, List.replicate 16 0, 0⟩
def Sbf.poisoned (origin : Nat) : Sbf := ⟨255, 0, List.replicate 16 0, origin⟩

/-- R100: 1 + floor(log2 |v|), an infinity counting as 128, and nothing for zero. -/
def sbfExp : Val → Option Int
  | .num _ m e => if m == 0 then none else some ((m.log2 : Int) + e + 1)
  | .inf _ => some 128
  | _ => none

/-- R100: v × 2^s rounded to an integer, infinities standing beyond every range, and whether it is exact. -/
def sbfRound (rc rnd : Nat) (v : Val) (s : Int) : Int × Bool :=
  match v with
  | .num n m e =>
    let r := roundInt rc rnd n m (e + s)
    (r, sameInt r n m (e + s))
  | .inf n => (if n then -((2^64 : Nat) : Int) else ((2^64 : Nat) : Int), false)
  | _ => (0, true)

/-- The larger of two exponents, nothing being below every one. -/
def maxExp : Option Int → Option Int → Option Int
  | none, b => b
  | a, none => a
  | some a, some b => some (if a < b then b else a)

/-- R100: sixteen values to an SBF block of width w. `rnd k` is element k's random word and `self` this core's origin. The list
holds each element's exceptions. -/
def toSbf (w rc : Nat) (rnd : Nat → Nat) (self : Nat) (v : List Val) : Sbf × List Exc :=
  match v.find? Val.isPoison with
  | some (.poison _ o) => (Sbf.poisoned o, List.replicate 16 excNone)
  | _ =>
    if v.any Val.isNaN then
      (Sbf.poisoned self, v.map fun x => if x.isSig then excSNaN else if x.isNaN then excInv else excNone)
    else
      match v.foldl (fun a x => maxExp a (sbfExp x)) none with
      | none => (Sbf.zero, List.replicate 16 excNone)
      | some u0 =>
        let u : Int := if 127 < u0 then 127 else if u0 < -126 then -126 else u0
        let hi : Int := ((2^(w - 1) : Nat) : Int) - 1
        let lo : Int := -((2^(w - 1) : Nat) : Int)
        let fits (k : Nat) : Bool :=
          let t := (sbfRound rc (rnd k) (v.getD k (.num false 0 0)) ((w : Int) - u)).1
          lo <= t && t <= hi
        let m (p : Nat) : Nat := if fits (2 * p) && fits (2 * p + 1) then 1 else 0
        let one (k : Nat) : Int × Exc :=
          let (t, ex) := sbfRound rc (rnd k) (v.getD k (.num false 0 0)) ((w : Int) - 1 - u + (m (k / 2) : Int))
          if hi < t then (hi, excSat ||| excNX) else if t < lo then (lo, excSat ||| excNX)
          else (t, if ex then excNone else excNX)
        let r := (List.range 16).map one
        let qs := r.map Prod.fst
        let xs := r.map Prod.snd
        if qs.all (· == 0) then (Sbf.zero, xs)
        else (⟨(u + 127).toNat, (List.range 8).foldl (fun a p => a + m p * 2^p) 0, qs, 0⟩, xs)

/-- R98: the exact value of element k, or poison with the block's origin (R99). -/
def Sbf.val (w : Nat) (b : Sbf) (k : Nat) : Val :=
  if b.e == 0 then .num false 0 0
  else if b.e == 255 then .poison 0 b.origin
  else
    let q := b.q.getD k 0
    .num (q < 0) q.natAbs ((b.e : Int) - 127 - ((b.micro / 2^(k / 2) % 2 : Nat) : Int) - ((w : Int) - 1))

/-- R204: the packed image of a block: mantissa string in the low 16w bits, header in [511:496]. -/
def Sbf.image (w : Nat) (b : Sbf) : Nat :=
  (if b.e == 255 then b.origin else (List.range 16).foldl (fun a k => a + bitsOf w (b.q.getD k 0) * 2^(w * k)) 0)
    + (b.e + b.micro * 2^8) * 2^496

/-- R98, R204: the block with the given header and mantissa string. -/
def Sbf.ofBits (w hdr str : Nat) : Sbf :=
  ⟨hdr % 2^8, hdr / 2^8 % 2^8, (List.range 16).map fun k => (ITy.mk w true).value (str / 2^(w * k)), str % 2^21⟩

/-- R204: the block held by a packed image. -/
def Sbf.ofImage (w img : Nat) : Sbf := Sbf.ofBits w (img / 2^496) img

/-- R102: a WB32 block. -/
structure Wb where
  x : Nat
  q : List Int
  origin : Nat
deriving DecidableEq, Repr

/-- R103: an SBF block entering WB32. -/
def Wb.ofSbf (w : Nat) (b : Sbf) : Wb :=
  if b.e == 0 then ⟨0, List.replicate 16 0, 0⟩
  else if b.e == 255 then ⟨0x3FF, List.replicate 16 0, b.origin⟩
  else ⟨b.e + 384, (List.range 16).map fun k => b.q.getD k 0 * ((2^(32 - w - b.micro / 2^(k / 2) % 2) : Nat) : Int), 0⟩

/-- R102: the exact values of a WB32 block, or poison. -/
def Wb.vals (b : Wb) : List Val :=
  if b.x == 0 then List.replicate 16 (.num false 0 0)
  else if b.x == 0x3FF then List.replicate 16 (.poison 0 b.origin)
  else b.q.map fun q => .num (q < 0) q.natAbs ((b.x : Int) - 542)

/-- R104: q / 2^n rounded to nearest, ties to even. -/
def shrRne (q : Int) (n : Nat) : Int := toInt (q < 0) (roundDiv rcRNE (q < 0) q.natAbs n 0)

/-- R104: the sum of two WB32 blocks; `self` is the origin of a block poisoned by exponent range, and the Bool says that happened. The
second Bool says the growth step ran (R339). -/
def wbAdd (self : Nat) (a b : Wb) : Wb × Bool × Bool :=
  if a.x == 0x3FF then (a, false, false)
  else if b.x == 0x3FF then (b, false, false)
  else if a.x == 0 then (b, false, false)
  else if b.x == 0 then (a, false, false)
  else
    let x := if a.x < b.x then b.x else a.x
    let s := (List.range 16).map fun k => shrRne (a.q.getD k 0) (x - a.x) + shrRne (b.q.getD k 0) (x - b.x)
    let big : Int := ((2^31 : Nat) : Int)
    let grow := s.any fun v => big - 1 < v || v < -big
    let x' := if grow then x + 1 else x
    let s' := if grow then s.map (shrRne · 1) else s
    if 1022 < x' then (⟨0x3FF, List.replicate 16 0, self⟩, true, grow)
    else if s'.all (· == 0) then (⟨0, List.replicate 16 0, 0⟩, false, grow)
    else (⟨x', s', 0⟩, false, grow)

end Sys2Proof.Num
end

