-- ==== Sys2Proof/Machine/State.lean ====
section
/-!
DEFINITION. The state of the machine as plain data: the strands and their registers (05), the core's shared resources (01, 10, 13,
14), near stores and vaults with their full/empty and poison bits (11), accesses and messages in flight, streams and engines (15,
16), the partitions, chart and Grefiest controller of each part (02, 17, 18). No field is a function.
-/
namespace Sys2Proof.Machine

/-- A byte memory: the bytes that differ from 0, at strictly rising addresses (R424: zeroising writes zero to every byte). -/
abbrev Memory := List Host.Cell

/-- The canonical form: strictly rising addresses, no byte 0. -/
def Memory.wf : Memory → Bool
  | [] => true
  | [c] => c.2 != 0
  | c :: d :: m => c.2 != 0 && c.1 < d.1 && Memory.wf (d :: m)

/-- A core's internal name: part number × 2^18 + logical y × 2^9 + logical x (the layout of R153). -/
abbrev CoreId := Nat

/-- R162: one hardware loop counter. -/
structure Loop where
  count : Word
  start : BitVec 16
  stop : BitVec 17
  rank : BitVec 2
  active : Bool
deriving DecidableEq, Repr

def Loop.off : Loop := ⟨0, 0, 0, 0, false⟩

/-- R125, R126: the registers and control registers of one strand that an instruction of the strand reads or writes in program order.
A faulting older instruction restores them as they stood at its own issue (R252). -/
structure Ctx where
  pc : Word
  x : Vector Word 32
  v : Vector VReg 32
  p : Vector PReg 8
  lc : Vector Loop 3
  d : Vector (BitVec 128) 4
  /-- STATUS.PRIV (R127): true is S mode. -/
  priv : Bool
  /-- STATUS.PPRIV. -/
  ppriv : Bool
  /-- STATUS.BG. -/
  bg : Bool
  /-- STATUS.HND. -/
  hnd : Bool
  /-- MODE [8:0] (R115). -/
  mode : BitVec 9
  /-- FLAGS [6:0] (R116). -/
  flags : BitVec 7
  seed : Word
  /-- STEP (R117). -/
  stepc : Word
  instret : Word
  stealdom : Word
  spillbase : Word
  spilllim : Word
  tvec : Word
  epc : Word
  cause : BitVec 9
  tval : Word
  tscratch : Word
  savebase : Word
  /-- PREEMPT.NOTE (R390). -/
  note : Bool
  /-- INSTRET at the last trap entry: equal to INSTRET until the handler's first instruction completes (R389). -/
  trapAt : Option Word
  /-- R396: registers that fail parity: system cause n (8 x, 9 v, 10 p, 11 control, 12 descriptor or, from 4 up, loop counter) and number. -/
  bad : List (Nat × Nat)
deriving DecidableEq, Repr

/-- R125, R126: a strand with every register zero; its control registers are filled by whoever starts it. -/
def Ctx.zero : Ctx :=
  { pc := 0, x := Vector.replicate 32 0, v := Vector.replicate 32 0, p := Vector.replicate 8 0,
    lc := Vector.replicate 3 Loop.off, d := Vector.replicate 4 0, priv := false, ppriv := false, bg := false, hnd := false,
    mode := 0, flags := 0, seed := 0, stepc := 0, instret := 0, stealdom := 0, spillbase := 0, spilllim := 0, tvec := 0,
    epc := 0, cause := 0, tval := 0, tscratch := 0, savebase := 0, note := false,
    trapAt := none, bad := [] }

/-- R122: the states of a strand; a handler that blocks stays in HANDLER and is marked waiting. -/
inductive SState where
  | free
  | ready
  | waiting
  | retained
  | handler
  | handlerWaiting
deriving DecidableEq, Repr

/-- What has come back for one event of an access: nothing yet, its bytes, or a fault with its memory cause n (R396) and address. -/
inductive Resp where
  | pending
  | done (data : List Byte)
  | fault (n : Nat) (addr : Word)
deriving DecidableEq, Repr

/-- An issued instruction that has not completed: an outstanding load, a store-queue entry or a wait of the scalar pipe. `snap` is the
strand's registers as they stood at its issue: its operands are read from there, and a fault goes back to them. -/
structure Entry where
  seq : Nat
  instr : Instr
  snap : Ctx
  parts : List Resp
  /-- How far a store-queue entry that takes several steps has come. -/
  phase : Nat
  /-- Value carried between those steps (a deadline, a count). -/
  aux : Word
  /-- R252: results still to come, by program order number and register, that `snap` has overwritten. -/
  lost : List (Nat × Nat)
deriving DecidableEq, Repr

/-- R253, R379, R409: a pending fault of a strand. -/
structure PFault where
  /-- Program order of the originating instruction. -/
  seq : Nat
  /-- Class base + 4n of the cause (R395), without its delivery. -/
  base : Nat
  addr : Word
  /-- A latched command fault; else a deferred store fault. -/
  cmd : Bool
  /-- The command writes far memory. -/
  farw : Bool
  /-- The command is a strait command. -/
  strt : Bool
  sem : BitVec 4
  sv : Bool
  /-- The semaphore is on the issuing core. -/
  here : Bool
deriving DecidableEq, Repr

/-- R474: a stager slot of a strand. -/
structure Stager where
  fmt : BitVec 4
  mx : Bool
  /-- Line i: its k-step 0 segment, or a poisoned line's origin and first poisoned element. -/
  lines : List (BitVec 256)
  hdrs : List (BitVec 16)
  scales : List (BitVec 8)
  poisoned : BitVec 16
deriving DecidableEq, Repr

/-- One strand (R122, R125, R274, R275). -/
structure Strand where
  st : SState
  ctx : Ctx
  /-- A handler was entered from RETAINED (R302). -/
  fromRetained : Bool
  /-- EVPEND bits 0 to 4 (R138). -/
  evpend : BitVec 5
  pbc : Nat
  fpbc : Nat
  spb : Nat
  xpb : Nat
  /-- Outstanding loads, oldest first (R252). -/
  loads : List Entry
  /-- The store queue, oldest first (R252). -/
  sq : List Entry
  /-- An instruction of the scalar pipe that waits: WAITEV, HALT, HRET, LOOPQ. -/
  wait : Option Entry
  /-- The entry (by its seq) that keeps the strand from issuing. -/
  hold : Option Nat
  /-- Pending faults in program order (R471). -/
  faults : List PFault
  /-- Stager slots g0 to g3 (R474); none before the first MLD. -/
  slots : Vector (Option Stager) 4
  /-- R133: the cycle from which the strand has been eligible without issuing. -/
  since : Option Nat
  /-- R135, R137: the cycle before which the strand is neither eligible nor found by a SPAWN. -/
  wake : Option Nat
  /-- R315: the tag of the message whose handler the strand runs. -/
  htag : Option (BitVec 6)
  /-- R252: results of outstanding instructions, by program order number and register, that a younger instruction has overwritten. -/
  lost : List (Nat × Nat)
  /-- The instruction at PC was cancelled and re-issues at resume (R402, R409). -/
  reexec : Bool
  /-- R323: the TDONE at PC, cancelled while it waited as HALT does, has sent its decrement. -/
  joined : Bool
  /-- Commands numbered below this were issued before the strand was last freed (R136). -/
  born : Nat
  /-- R409: the program order numbers of the pending faults that the saved frame holds. -/
  kept : List Nat
  /-- What the strand issued before this number stands before an effect that cannot be taken back (R252), and so is not taken back either. -/
  firm : Nat
deriving DecidableEq, Repr

def Strand.idle : Strand :=
  { st := .free, ctx := Ctx.zero, fromRetained := false, evpend := 0, pbc := 0, fpbc := 0, spb := 0, xpb := 0, loads := [],
    sq := [], wait := none, hold := none, faults := [], slots := Vector.replicate 4 none, since := none, wake := none, htag := none, lost := [], reexec := false, joined := false, born := 0,
    kept := [], firm := 0 }

/-- R299: a tag's binding. -/
structure Binding where
  entry : Word
  strand : Fin 4
  priv : Bool
  mode : BitVec 9
  seed : Word
  stealdom : Word
  spillbase : Word
  spilllim : Word
  tvec : Word
  savebase : Word
  note : Bool
deriving DecidableEq, Repr

/-- R289, R291: a message in the receive buffer, with its arrival number; `sender` is the sender's coordinate word (R153), and `top`
tells that it stands in the 128th entry. -/
structure Msg where
  tag : BitVec 6
  payload : VReg
  sender : BitVec 21
  arr : BitVec 32
  top : Bool
deriving DecidableEq, Repr

/-- R295: where a send-queue entry stands. -/
inductive SendState where
  | queued
  | sent
  | refused (at_ : Nat)
deriving DecidableEq, Repr

/-- R295: an entry of the send queue. -/
structure SendEntry where
  id : Nat
  /-- The strand whose SEND it is. -/
  strand : Fin 4
  dest : CoreId
  tag : BitVec 6
  payload : VReg
  st : SendState
deriving DecidableEq, Repr

/-- R312: the latched spill window and the ring it holds. -/
structure Ring where
  base : Word
  lim : Word
  head : Nat
  count : Nat
deriving DecidableEq, Repr

/-- R235: a 32-byte beat that the matrix unit has read: its vault and block, its bytes, and the memory cause of what it met (R234). -/
structure Beat where
  home : CoreId
  block : Nat
  data : List Byte
  bad : Option Nat
deriving DecidableEq, Repr

/-- R222, R407: an entry of the matrix unit's queue, with what it captured at issue. -/
structure UnitEntry where
  strand : Fin 4
  seq : Nat
  instr : Instr
  snap : Ctx
  executing : Bool
  /-- k-steps completed (R241). -/
  ksteps : Nat
  /-- Flags the completed k-steps raised (R407). -/
  flags : BitVec 7
  /-- R252: as in `Entry`. -/
  lost : List (Nat × Nat)
  /-- R235: beats read for the k-step, or the instruction, under way. -/
  beats : List Beat
  /-- R233: elements whose product of that k-step mismatches its residue twice. -/
  struck : List Nat
deriving DecidableEq, Repr

/-- R309: a task record, its 32 bytes as one little-endian number. -/
abbrev Task := BitVec 256

/-- R333: a flit of the stream class. A block stands for its two beats and its renormalise flit together: `early` is beat 0 as it
was first sent (exponent and eight mantissas), `wb` the block once beat 1 and any renormalise flit have come, `rn` whether one follows
(R339). -/
inductive Flit where
  | laneF (data : BitVec 256) (flags : BitVec 7)
  | laneI (data : BitVec 256) (flags : BitVec 7)
  | block (earlyX : Nat) (earlyQ : List Int) (wb : Num.Wb) (rn : Bool)
  | addressed (data : BitVec 256) (off : Nat) (near fe poison : Bool) (src : CoreId) (cmd : Nat)
  | marker (isEnd : Bool) (user : BitVec 16)
  /-- Kind 0 lane-F, 1 lane-I, 2 block. -/
  | fail (kind : Nat)
  | bulkEnd (sem : BitVec 4) (sv : Bool) (src : CoreId) (cmd : Nat)
deriving DecidableEq, Repr

/-- R329: an entry of a router's stream table, with the flits in its input slots. -/
structure StreamEntry where
  valid : Bool
  /-- NLEG: number of legs − 1. -/
  nleg : Nat
  leg : Nat
  islots : Nat
  wdog : Nat
  legs : Vector (BitVec 32) 4
  renorm : Nat
  poison : Nat
  fails : Nat
  flags : BitVec 7
  /-- Failed ports (R345). -/
  marked : BitVec 9
  /-- Input slots by port: N E S W L XN XE XS XW. -/
  bufs : Vector (List Flit) 9
  /-- Cycle at which the current position became partly delivered. -/
  since : Option Nat
  /-- R345: for each leg, the kind of the last position it forwarded; lane-F before any. -/
  lastKinds : Vector Nat 4
  /-- R345: for leg n, at 4^n: how much of a marked leg's FAIL and END has been sent (0 to 2). -/
  dead : Nat
  /-- R345: the kind of a position that has failed and whose FAIL is still to be sent, and the inputs whose flit of it is still to come. -/
  failing : Option Nat
  skip : BitVec 9
deriving DecidableEq, Repr

/-- R341 to R343: an endpoint of a core. -/
structure Endpoint where
  vs : BitVec 6
  role : BitVec 2
  fmt : BitVec 4
  rc : BitVec 3
  root : Bool
  slots : Nat
  strand : Fin 4
  mode : BitVec 9
  seed : Word
  step : Word
  /-- Vault offset of the sink record and its first two words. -/
  record : Nat
  w0 : Word
  w1 : Word
  queue : List Flit
  /-- Positions written since SATT (c1 of R342). -/
  written : Nat
  /-- Offsets from DBASE and HBASE of the next position. -/
  dptr : Nat
  hptr : Nat
  inc : Bool
  pcnt : Nat
  rncnt : Nat
  xflags : BitVec 7
  /-- The END of the round has been taken from the queue (R346). -/
  ended : Bool
  /-- R281: of the write events of the oldest position, those performed. -/
  beats : List Nat
deriving DecidableEq, Repr

/-- R281, R349: a beat that the bulk engine has read and not yet written: what it read, whether it is poisoned, and the cause n and address
of what went wrong. -/
structure BulkBeat where
  n : Nat
  data : BitVec 256
  bad : Bool
  fault : Option (Nat × Word)
deriving DecidableEq, Repr

/-- R348 to R351: a command of the bulk engine. -/
structure BulkCmd where
  strand : Fin 4
  seq : Nat
  /-- 0 BCOPY, 1 BFILL, 2 BSTRIDE. -/
  kind : Nat
  dst : Word
  src : Word
  /-- Bytes, or the shape of BSTRIDE. -/
  len : Word
  pitches : Word
  bc : Bool
  fe : Bool
  sem : BitVec 4
  sv : Bool
  vs : BitVec 6
  /-- Receivers of `.B`. -/
  count : Nat
  /-- Beats performed (or injected), and beats read and not yet written. -/
  done : List Nat
  inside : List BulkBeat
  /-- The bulk end flit has been injected. -/
  ended : Bool
  acks : Nat
  started : Nat
  /-- Fault of the command: class base + 4n of its cause, address. -/
  fault : Option (Nat × Word)
deriving DecidableEq, Repr

/-- One logical core (R33): its four strands and the resources they share, its near store, its vault and quay, and its router's
stream table. -/
structure Core where
  strands : Vector Strand 4
  /-- Number of the next issued instruction that outlives its issue. -/
  seq : Nat
  /-- R132: the strand that last filled slot 1. -/
  last : Fin 4
  /-- R132: the one that had filled it last before the cycle of the last issue. -/
  prior : Fin 4
  /-- R132, R134: the cycle of the last issue, and what issued in it: the strand, its instruction, and its INSTRET before. -/
  cycle : Nat
  issued : List (Fin 4 × Instr × Word)
  /-- R133: promoted strands, oldest promotion first. -/
  promoted : List (Fin 4)
  near : Memory
  /-- R77: execute bit of near line n at bit n. -/
  exec : BitVec 1024
  /-- R79, R351: near stores to execute lines that a fetch may not see yet, in order: who stored (strand 0 to 3 until its fence, or 4 + the
  number of a bulk command until it completes), and the bytes as they were before it. -/
  stale : List (Nat × List Host.Cell)
  /-- Near 8-byte words that hold an uncorrectable error (R257). -/
  nearUe : List Nat
  vault : Memory
  /-- R255: vault words that are EMPTY, ascending. -/
  empty : List Nat
  /-- R256: poisoned 32-byte vault blocks, ascending. -/
  poison : List Nat
  /-- R56: distinct vault blocks in which an uncorrectable error has been found, and how many have been found in the near store, since
  reset. -/
  vaultUe : List Nat
  nearUeSeen : Nat
  sems : Vector (BitVec 32) 16
  /-- R266: waiters, oldest first: semaphore, strand. -/
  semWait : List (Nat × Fin 4)
  /-- R220: a0 to a7, element (i, j) at 16 i + j. -/
  acc : Vector (Vector (BitVec 80) 256) 8
  holder : Vector (Option (Fin 4)) 8
  /-- R222. -/
  unitq : List UnitEntry
  bindings : Vector (Option Binding) 64
  /-- R303. -/
  dmask : Word
  /-- R291: the receive buffer in arrival order. -/
  recv : List Msg
  nextArr : BitVec 32
  /-- R295. -/
  sendq : List SendEntry
  sendId : Nat
  /-- R296: the refusal list, and general buffer entries and the 128th one held for a sender until a cycle. -/
  refused : List CoreId
  held : List (CoreId × Nat)
  heldTop : Option (CoreId × Nat)
  /-- R305. -/
  barmask : BitVec 16
  arrived : BitVec 16
  /-- R311: in-core records, oldest first. -/
  deque : List Task
  ring : Option Ring
  lfsr : BitVec 16
  /-- Cycle of the core's last steal request (R316). -/
  stealAt : Option Nat
  /-- R316: strands that wait to send a steal request, in the order in which they began to wait: strand and number of the instruction. -/
  thieves : List (Fin 4 × Nat)
  /-- R326: the core's control block. -/
  launchid : BitVec 32
  sseed : Word
  ssteal : Word
  sspill : Word
  smode : BitVec 9
  sarg : Word
  sentry : BitVec 16
  stvec : BitVec 16
  saveoff : BitVec 7
  /-- R405: SAVEOFF as it stood when the request of the last hold arrived. -/
  frameOff : BitVec 7
  snote : Bool
  /-- R341: at most eight endpoints. -/
  eps : List Endpoint
  /-- R349: the bulk engine's queue, at most eight commands. -/
  bulk : List BulkCmd
  /-- R329: stream-table entries by VS; one not listed is reset. -/
  streams : List (Nat × StreamEntry)
  /-- R351: addressed beats and bulk end flits delivered at the router's L output, in order. -/
  addrq : List Flit
  /-- R402, R403: the core's strands have stopped; its frame is saved. -/
  stopped : Bool
  saved : Bool
  /-- R403: increments counted during the hold, per semaphore. -/
  incs : List (Nat × Nat)
  /-- R405: the frame did not fit, so the core resumes empty. -/
  saveFailed : Bool
deriving DecidableEq, Repr

/-- R250: what a request does at its quay. -/
inductive ReqOp where
  | load
  | store (data : List Byte)
  /-- R238: bytes of one block of a line that the matrix unit writes, by vault offset. -/
  | scatter (cells : List Host.Cell)
  /-- `opc` as in R263, on 2^sz bytes. -/
  | amo (opc : Nat) (sz : Nat) (operand : Word)
  | cas (sz : Nat) (new old : Word)
  /-- R265: active elements' mask in bits, type code and addends. -/
  | amov (lanes : PReg) (type : BitVec 3) (addend : VReg)
  | ldfe (take : Bool)
  | stfe (wait : Bool) (data : Word)
  | join
  | fecl
  | fese
deriving DecidableEq, Repr

/-- Where a request stands: on its way, answered FE_BUSY (R261) or RETRY (R59) and to be sent again at a cycle. -/
inductive ReqState where
  | flying
  | busy (at_ : Nat)
  | retry (at_ : Nat)
deriving DecidableEq, Repr

/-- R254, R269: one event of an access to a vault, from when it leaves its strand until its quay performs it. -/
structure Req where
  id : Nat
  core : CoreId
  strand : Fin 4
  seq : Nat
  /-- Which event of the access. -/
  idx : Nat
  home : CoreId
  off : Nat
  len : Nat
  op : ReqOp
  /-- The effective address, for TVAL. -/
  addr : Word
  /-- The response goes to an outstanding load (else to the pending counts). -/
  toLoad : Bool
  /-- Bytes counted in PBC, and whether also in SPB and XPB (R274, R275). -/
  pbc : Nat
  spb : Bool
  xpb : Bool
  /-- A write of the matrix unit (R238). -/
  unit : Bool
  st : ReqState
deriving DecidableEq, Repr

/-- R29, R251: a response of a quay on its way: an acknowledgement or fault for a strand's pending counts (R253, R274), or what an event of
an outstanding load, or of an instruction that waits for it, has read. -/
structure Ack where
  id : Nat
  core : CoreId
  strand : Fin 4
  seq : Nat
  bytes : Nat
  spb : Bool
  xpb : Bool
  fault : Option (Nat × Word)
  /-- The quay's core. -/
  home : CoreId
  /-- For a load: which event of the access, and its response. -/
  load : Option (Nat × Resp)
deriving DecidableEq, Repr

/-- A message on the message class (R295). -/
structure Flight where
  id : Nat
  src : CoreId
  entry : Nat
  dest : CoreId
  tag : BitVec 6
  payload : VReg
deriving DecidableEq, Repr

/-- R295: an acceptance notice or a refusal on its way back. -/
structure Notice where
  id : Nat
  /-- The core that sends it, and the sender of the message, to which it goes. -/
  origin : CoreId
  src : CoreId
  entry : Nat
  ok : Bool
deriving DecidableEq, Repr

/-- R316: a steal request, and its reply once the victim has answered. -/
structure Steal where
  id : Nat
  thief : CoreId
  strand : Fin 4
  seq : Nat
  victim : CoreId
  reply : Option (Option Task)
deriving DecidableEq, Repr

/-- R334: a slot-free notice: the credit of one slot of the receiving router goes back to the sender. -/
structure SlotNote where
  id : Nat
  /-- Router whose slot emptied, with the port and VS; `extra` names the extra slot. -/
  core : CoreId
  vs : Nat
  port : Nat
  extra : Bool
deriving DecidableEq, Repr

/-- R347: a root's report to the completion block. -/
structure Report where
  id : Nat
  core : CoreId
  inc : Bool
  pcnt : Nat
deriving DecidableEq, Repr

/-- R351: an acknowledgement of a bulk end flit on its way from a receiver to the command's engine. -/
structure BulkAck where
  id : Nat
  core : CoreId
  cmd : Nat
  origin : CoreId
deriving DecidableEq, Repr

/-- Where a far command stands (R359, R375). -/
inductive FarStage where
  /-- Waits for a slot credit. -/
  | credit
  | admitted
  /-- In a fault slot (R375). -/
  | parked
  /-- Failed: performs none of its remaining accesses. -/
  | failed
deriving DecidableEq, Repr

/-- R377: a write that waits on a PARK page: the line access, its place in the order in which waits began, and its virtual address. -/
structure Waiting where
  line : Nat
  order : Nat
  va : Nat
deriving DecidableEq, Repr

/-- R381: a 64-byte far line as last written: under which 64-byte key, its plaintext, and its data poison. A line not listed is as the
device has it. -/
structure FarLine where
  line : Nat
  key : BitVec 512
  data : BitVec 512
  poison : Bool
deriving DecidableEq, Repr

/-- R362, R363: a far line that an access has read, for its vault beats or to write it back changed: its address, key and bytes, and whether
they are poisoned. -/
structure FarGot where
  pa : Nat
  key : BitVec 512
  data : BitVec 512
  bad : Bool
deriving DecidableEq, Repr

/-- R363, R364: what a line access, or element, has done so far. -/
structure FarPart where
  line : Nat
  /-- Of an element: the far addresses of its chase so far, what it has read last, and what is wrong with it, as a fault n (11 poison, 10 or
  42 nothing read). -/
  chain : List Nat
  index : Option Nat
  wrong : Option Nat
  /-- The bytes of its vault side read so far, whether they are poisoned, and the vault events performed. -/
  data : BitVec 512
  bad : Bool
  beats : List Nat
  got : Option FarGot
  /-- R372: a write that has waited is being replayed. -/
  going : Bool
deriving DecidableEq, Repr

/-- R373: the translation tables as they stood at a moment: their root, the key of the walker, and far memory as written. -/
structure FarTables where
  root : Nat
  key : BitVec 512
  lines : List FarLine
deriving DecidableEq, Repr

/-- R358: a command of a strait. -/
structure FarCmd where
  id : Nat
  core : CoreId
  strand : Fin 4
  seq : Nat
  /-- 0 FMGET, 1 FMPUT, 2 FMGATH, 3 FMSCAT, 4 VFLIP. -/
  kind : Nat
  /-- The parameter block (R360); for VFLIP its range start and length in W0 and W1, and SEM and SV in W7. -/
  spb : BitVec 512
  /-- Physical strait. -/
  strait : Nat
  stage : FarStage
  /-- R373: the tables at its admission, which fix its selectors; and, by page, those fixed since, of pages that were not versioned then. -/
  tables : Option FarTables
  sels : List (Nat × Bool)
  /-- Line accesses performed. -/
  done : List Nat
  /-- Line accesses that wait on a PARK page (R377). -/
  waiting : List Waiting
  parts : List FarPart
  /-- R371: the number of its arrival among the partition's VFLIPs and block operations. -/
  arrived : Nat
  fault : Option (Nat × Word)
  /-- Bytes still counted in FPBC (R365). -/
  fpbc : Nat
deriving DecidableEq, Repr

/-- R376: a fault slot. -/
structure FaultSlot where
  idx : Nat
  cmd : Nat
  line : Nat
  wpark : Bool
  cause : Nat
  addr : Word
  deadline : Nat
deriving DecidableEq, Repr

/-- R370: a cached leaf, with the far physical address of its table entry. -/
structure TlbEntry where
  slot : Nat
  va : Nat
  big : Bool
  w0 : Word
  w1 : Word
  count : Nat
deriving DecidableEq, Repr

/-- R356, R357: a strait. `dev` and `extents` are what is attached to it: whether a supported device is there, its rate, width and
IDE, and the far physical ranges it offers. -/
structure Strait where
  up : Bool
  rate : Bool
  width : Nat
  ide : Bool
  devOk : Bool
  devRate : Bool
  devWidth : Nat
  devIde : Bool
  /-- Offered extents and the accepted decoder ranges: base, size in bytes. -/
  extents : List (Nat × Nat)
  decoders : List (Nat × Nat)
  tlb : List TlbEntry
  slots : List FaultSlot
  /-- R369: far lines whose accesses the device fails. -/
  faulty : List Nat
deriving DecidableEq, Repr

/-- R376: state of a matter key. -/
inductive KeyState where
  | empty
  | loaded
  | revoked
deriving DecidableEq, Repr

/-- R381: a matter key of a partition, the same in every strait. -/
structure Key where
  st : KeyState
  value : BitVec 512
deriving DecidableEq, Repr

/-- R304, R305: a barrier channel of a partition; `gens` holds the generation of each group that has completed a phase, by its rectangle
(first and last column and row). -/
structure Chan where
  or : Bool
  xcut : BitVec 512
  ycut : BitVec 512
  gens : List ((Nat × Nat × Nat × Nat) × BitVec 32)
  /-- The model's own: the changes of the cuts, newest first, each with the free value drawn for it and the cuts before (log 9). -/
  recuts : List (Nat × BitVec 512 × BitVec 512)
deriving DecidableEq, Repr

/-- R371: an operation of the far control block that runs. -/
inductive FarOp where
  | leaf (w0 : Word)
  /-- R372 step 3: a committed leaf waits for accesses made under the old translation: command and access. -/
  | leafWait (old : List (Nat × Nat))
  /-- R372 step 4: the waiting writes that are replayed: the one under way, and those after it. -/
  | leafReplay (cur : Option (Nat × Nat)) (rest : List (Nat × Nat))
  | flush
  | flushWait (old : List (Nat × Nat))
  | count (shift : Nat)
deriving DecidableEq, Repr

/-- R371: the far control block. -/
structure FarBlock where
  en : Bool
  /-- ROOT, bits [51:13] in place. -/
  root : Nat
  pwait : Nat
  size : Bool
  /-- LEAFVA, bits [47:16] in place. -/
  leafva : Nat
  leafw1 : Word
  leafw0 : Word
  op : Option FarOp
  /-- The number of its arrival. -/
  opAt : Nat
  err : Bool
  cntva : Nat
  cntval : Nat
  groups : Vector Word 64
deriving DecidableEq, Repr

/-- R347: the completion block. -/
structure Completion where
  roots : Nat
  dsem : Nat
  inc : Bool
  pcnt : Nat
  done : Word
deriving DecidableEq, Repr

/-- R400: the error ring's block. -/
structure RingBlock where
  rbase : Nat
  rlog : Nat
  rsem : Nat
  rsv : Bool
  en : Bool
  head : BitVec 32
  tail : BitVec 32
  lost : BitVec 32
deriving DecidableEq, Repr

/-- R401: the pre-emption block. `since` is the cycle of the request. -/
structure Preempt where
  saving : Bool
  held : Bool
  exempt : Option (CoreId × Fin 4)
  count : BitVec 32
  since : Nat
deriving DecidableEq, Repr

/-- R352: a ring record, and the progress of a running operation. -/
structure RingRec where
  w0 : Word
  buf : Word
  chunk : Nat
  sem : Nat
  sv : Bool
  run : Bool
  inc : Bool
  /-- Steps taken, chunks on their way from the predecessor (number and beats), and the cycle of the last progress. -/
  step : Nat
  inbox : List (Nat × List Flit)
  /-- Chunks already final at this rank. -/
  final : List Nat
  since : Nat
  /-- R281: the chunk being written, its beats (bytes, and whether they are written poisoned), and those performed. -/
  out : Option (Nat × List (List Byte × Bool))
  wrote : List Nat
  /-- R281: beats of the local chunk that the current step has read: number, bytes, and whether they count as poisoned. -/
  took : List (Nat × BitVec 256 × Bool)
  /-- The operation has failed, and writes its unfinished chunks poisoned. -/
  fail : Bool
deriving DecidableEq, Repr

/-- R420 to R424: a partition on one part, by its slot. -/
structure Ptn where
  slot : Nat
  first : Nat
  count : Nat
  dom : Bool
  port : Bool
  /-- Cycle at which it was formed (CYCLE of R126 counts from it). -/
  formed : Nat
  chans : Vector Chan 16
  far : FarBlock
  comp : Completion
  ring : RingBlock
  pre : Preempt
  rings : List (Nat × RingRec)
  keys : Vector Key 4
  loads : BitVec 32
  /-- R61: an amendment holds the partition, since this cycle. -/
  amendHold : Option Nat
  /-- R426: the kept vaults' successor id, until the first launch. -/
  kept : Option (BitVec 32)
  /-- R327: the idle completion of the launch has been reported. -/
  reported : Bool
deriving DecidableEq, Repr

/-- R426: a retained set. -/
structure Retained where
  slot : Nat
  first : Nat
  count : Nat
  succ : BitVec 32
deriving DecidableEq, Repr

/-- R428: a mailbox page. -/
structure Mailbox where
  launch : BitVec 1024
  sigword : Word
  st : BitVec 3
  ovr : Bool
  rcause : BitVec 9
  lastid : BitVec 32
  doneword : Word
  reply : BitVec 1024
  lcopy : BitVec 1024
  /-- R420: the host port named when the slot's partition was last formed. -/
  owner : Option Bool
deriving DecidableEq, Repr

def Mailbox.zero : Mailbox := ⟨0, 0, 0, false, 0, 0, 0, 0, 0, none⟩

/-- R37: tile classes. -/
inductive Class where
  | dead
  | relay
  | memory
  | compute
  | complete
deriving DecidableEq, Repr

/-- R41: a tile entry of the chart; SPARE is computed (R44). -/
structure Tile where
  cls : Class
  named : Bool
  moving : Bool
  retired : Bool
  home : Bool
  lx : Nat
  ly : Nat
  peerx : Nat
  peery : Nat
  /-- Causeway hops, from the orphan outwards (R42 direction codes). -/
  cw : List (BitVec 2)
  links : BitVec 16
  genset : BitVec 32
deriving DecidableEq, Repr

/-- R40: the chart of a part. `tiles` lists the entries (by py × 512 + px) that differ from a row of thirty named and two unnamed
COMPLETE tiles with full links (R43). -/
structure Chart where
  fgrade : Nat
  failisle : BitVec 16
  lostisle : BitVec 16
  passisle : BitVec 16
  gen : BitVec 32
  amends : Nat
  /-- Isles lost since the last reset keep their numbers (R62). -/
  numbering : BitVec 16
  tiles : List (Nat × Tile)
  /-- R41: GENSET of the named tiles of a physical isle that are not listed. -/
  isleGen : List (Nat × BitVec 32)
deriving DecidableEq, Repr

/-- R56: what an amendment is made for. -/
inductive Damage where
  | coreHalf
  | vaultHalf
  | router
  | linkNarrow (port : Nat)
  | linkSlow (port : Nat)
  | linkGone (port : Nat)
  /-- R396: a barrier wire or steal lane: the chart records the amendment, and no class changes. -/
  | wire
deriving DecidableEq, Repr

/-- R420: a piece of work of the Grefiest controller: the command in a host port's command page, or an amendment. -/
inductive Work where
  | cmd (port : Bool) (code : Nat)
  | amend (damage : Damage) (px py : Nat)
deriving DecidableEq, Repr

/-- R58: a move under way: the logical core, whether its logic moves and whether it is lost, its old and new tiles, the home and
causeway it will have, whether its vault is copied, and whether the copy may meet blocks that cannot be read. -/
structure Move where
  core : CoreId
  logic : Bool
  lost : Bool
  oldTile : Nat
  newTile : Nat
  home : Option (Nat × List (BitVec 2))
  copy : Bool
  unread : Bool
  near : Bool
deriving DecidableEq, Repr

/-- R398: an error record before it is logged. -/
structure ErrRec where
  cause : Nat
  strand : Option (Fin 4)
  synd : Nat
  slot : Option Nat
  core : Option CoreId
  px : Nat
  py : Nat
  pc : Word
  addr : Word
  time : Nat
deriving DecidableEq, Repr

/-- R440: the module's states; `recovery` is a failed boot (R430). -/
inductive Power where
  | off
  | boot
  | run
  | recovery
deriving DecidableEq, Repr

/-- R437, R438: a Halif link: whether it is up, its lane generation and whether it runs on four lanes, whether it carries its
partition's traffic (R436), and the highest generation that this end and its cable support. -/
structure Halif where
  up : Bool
  gen : Nat
  half : Bool
  carries : Bool
  failed : Bool
  cableGen : Nat
deriving DecidableEq, Repr

/-- R430, R431: what flash and fuses hold, and what the boot ROM derives. -/
structure Boot where
  image : List Byte
  sig : BitVec 768
  svn : Nat
  /-- The vendor's public key, 97 bytes, and the fused hash of it. -/
  vendorKey : BitVec 776
  vendorHash : BitVec 384
  minSvn : Nat
  /-- The device-unique secret, and whether the ROM has locked it until the next power-on. -/
  secret : BitVec 256
  locked : Bool
  fwmeas : BitVec 384
  /-- The identity key's public point, and its certificate in flash. -/
  idPub : BitVec 776
  idCert : List Byte
  /-- The attestation key's private scalar, and the certificate signed at this boot. -/
  attKey : BitVec 384
  attCert : List Byte
  /-- The supervisor firmware image (16 KiB), the execute bits of its 256 lines and its entry (R424). -/
  supImage : List Byte
  supExec : BitVec 256
  supEntry : BitVec 16
deriving DecidableEq, Repr

/-- R421: the command page of the management function. -/
structure CmdPage where
  status : BitVec 4
  lhead : BitVec 32
  lcount : Nat
  /-- ARGS and RESP, by offset in the page. -/
  args : Memory
  resp : Memory
deriving DecidableEq, Repr

/-- R441, R442: the power limit, the clock in steps of 93.75 MHz, whether the power limit throttles, what the sensors read, as SENSORS
lays it out, and the average module power of the window in W. -/
structure Plant where
  plimit : Nat
  clock : Nat
  throttled : Bool
  readings : Memory
  power : Nat
deriving DecidableEq, Repr

/-- One part of a domain (R23 to R25). -/
structure Wafer where
  power : Power
  /-- R430: the firmware has expanded the chart and trained the straits: function 0 no longer answers with completion-retry. -/
  ready : Bool
  chart : Chart
  boot : Boot
  ptns : List Ptn
  retained : List Retained
  mail : Vector Mailbox 16
  /-- R421: the command pages of the two host ports. -/
  pages : Vector CmdPage 2
  /-- R420: work of the Grefiest controller in arrival order. -/
  work : List Work
  moves : List Move
  /-- R421: records since power-on (modulo 2^32) and the last 65,536 of them, oldest first. -/
  logged : BitVec 32
  log : List (BitVec 256)
  errq : List ErrRec
  /-- R434: the ephemeral key pair (private scalar and public point) and its nonce. -/
  eph : Option (BitVec 384 × BitVec 776 × BitVec 384)
  /-- R436: domain id, number of parts (0: in no domain), part index. -/
  domid : Word
  nparts : Nat
  pidx : Nat
  straits : List (Nat × Strait)
  halifs : List (Nat × Halif)
  far : List FarLine
  /-- R380: far lines that the device returns poisoned, as those a dead host held modified. -/
  farBad : List Nat
  plant : Plant
  /-- MSI-X vectors sent, by host port. -/
  msix : List (Bool × Nat)
  /-- R397: tiles on which a register parity error has been seen since reset. -/
  parity : List Nat
deriving DecidableEq, Repr

/-- R396, R397, R257: what an error of the device's own cells strikes: a register of a strand (its parity cause n and number), a row of
an accumulator, a line of a stager slot, an entry of the receive buffer or of the deque, a near-store word, a cached leaf of a strait. -/
inductive Upset where
  | reg (k : Fin 4) (n r : Nat)
  | acc (a row : Nat)
  | stager (k : Fin 4) (g line : Nat)
  | recv (i : Nat)
  | deque (i : Nat)
  | near (word : Nat)
  | tlb (strait i : Nat)
  /-- R233: a product of the executing MMA mismatches its residue twice. -/
  | residue (i j : Nat)
deriving DecidableEq, Repr

/-- What the schedule lets move next: a strand issues its next instruction, an event of the part happens, the host writes its BAR
(R420): part, host port, function, offset and 64-bit data; or an error strikes a core's cells. -/
inductive Choice where
  | strand (core : CoreId) (k : Fin 4)
  | event (e : Instr)
  | host (part : Nat) (port : Bool) (fn : Nat) (off : Nat) (data : Word)
  | upset (core : CoreId) (u : Upset)
  /-- What surrounds a part changes: the reading at an offset of the SENSORS response (offset 0: the average power), the device at a
  strait, the cable of a Halif port. -/
  | sense (part off value : Nat)
  | device (part strait : Nat) (ok rate : Bool) (width : Nat) (ide : Bool) (extents : List (Nat × Nat))
  | cable (part port gen : Nat)
  /-- How the device at a strait answers for a far line: 0 in order, 1 it fails the accesses, 2 it returns poison. -/
  | line (part strait n kind : Nat)
deriving DecidableEq, Repr

/-- The whole machine. -/
structure State where
  /-- Cores by name, ascending; one not listed is as formation leaves it (R424). -/
  cores : List (Nat × Core)
  parts : Vector Wafer 8
  /-- Requests on their way to quays, each strand's in the order in which they left it (R272). -/
  net : List Req
  /-- R260, R320: accesses parked at quays, in arrival order. -/
  parks : List Req
  acks : List Ack
  msgs : List Flight
  notices : List Notice
  steals : List Steal
  slotNotes : List SlotNote
  reports : List Report
  bulkAcks : List BulkAck
  /-- R266: increments by engines and streams on their way to a core's semaphore unit: core, semaphore, in order. -/
  semq : List (CoreId × Nat)
  /-- Far commands in the order in which they asked for a credit (R359). -/
  fars : List FarCmd
  /-- Number of the next request, message, report or command. -/
  ids : Nat
  /-- Cycles since power-on; a step adds `Config.elapsed`. -/
  now : Nat
  /-- The model's own: number of steps so far, and of free values drawn. -/
  ticks : Nat
  draws : Nat
  /-- The strand whose instruction `exec` runs. -/
  cur : CoreId × Fin 4
  /-- The schedule: what moves next (the model's own; every interleaving is some schedule). -/
  agenda : List Choice
deriving DecidableEq, Repr

/-- R424: a core as formation leaves it, before the controller writes its firmware, stub and tag-63 binding. -/
def Core.formed : Core :=
  { strands := Vector.replicate 4 Strand.idle, seq := 0, last := 3, prior := 3, cycle := 0, issued := [], promoted := [], near := [], exec := 0, stale := [], nearUe := [], vault := [],
    empty := [], poison := [], vaultUe := [], nearUeSeen := 0, sems := Vector.replicate 16 0, semWait := [],
    acc := Vector.replicate 8 (Vector.replicate 256 0), holder := Vector.replicate 8 none, unitq := [],
    bindings := Vector.replicate 64 none, dmask := 0, recv := [], nextArr := 0, sendq := [], sendId := 0, refused := [], held := [], heldTop := none,
    barmask := 0, arrived := 0, deque := [], ring := none, lfsr := 0, stealAt := none, thieves := [], launchid := 0, sseed := 0, ssteal := 0, sspill := 0,
    smode := 0, sarg := 0, sentry := 0, stvec := 0, saveoff := 0, frameOff := 0, snote := false, eps := [], bulk := [], streams := [], addrq := [],
    stopped := false, saved := false, incs := [], saveFailed := false }

/-- R331: a reset stream-table entry. -/
def StreamEntry.reset : StreamEntry :=
  { valid := false, nleg := 0, leg := 0, islots := 0, wdog := 0, legs := Vector.replicate 4 0, renorm := 0, poison := 0, fails := 0,
    flags := 0, marked := 0, bufs := Vector.replicate 9 [], since := none, lastKinds := Vector.replicate 4 0, dead := 0, failing := none, skip := 0 }

def Chan.reset : Chan := ⟨false, 0, 0, [], []⟩

def FarBlock.reset : FarBlock :=
  { en := false, root := 0, pwait := 0, size := false, leafva := 0, leafw1 := 0, leafw0 := 0, op := none, opAt := 0, err := false, cntva := 0,
    cntval := 0, groups := Vector.replicate 64 0 }

def RingRec.reset : RingRec := ⟨0, 0, 0, 0, false, false, false, 0, [], [], 0, none, [], [], false⟩

/-- R424: a partition as FORM leaves it. -/
def Ptn.new (slot first count : Nat) (dom port : Bool) (now : Nat) : Ptn :=
  { slot := slot, first := first, count := count, dom := dom, port := port, formed := now, chans := Vector.replicate 16 Chan.reset,
    far := FarBlock.reset, comp := ⟨0, 0, false, 0, 0⟩, ring := ⟨0, 0, 0, false, false, 0, 0, 0⟩, pre := ⟨false, false, none, 0, 0⟩,
    rings := [], keys := Vector.replicate 4 ⟨.empty, 0⟩, loads := 0, amendHold := none, kept := none, reported := false }

/-- R440: a module at power-on, before its boot ROM has run. What the spec does not give (the chart of this part, its flash and fuses,
what is attached to its ports) stands at the values the assumption log names. -/
def Wafer.reset : Wafer :=
  { power := .boot, ready := false, chart := ⟨16, 0, 0, 0, 0, 0, 0, [], []⟩, boot := ⟨[], 0, 0, 0, 0, 0, 0, false, 0, 0, [], 0, [], [], 0, 0xC000⟩, ptns := [], retained := [],
    mail := Vector.replicate 16 Mailbox.zero, pages := Vector.replicate 2 ⟨0, 0, 0, [], []⟩, work := [], moves := [], logged := 0, log := [], errq := [],
    eph := none, domid := 0, nparts := 0, pidx := 0, straits := [], halifs := [], far := [], farBad := [], plant := ⟨30000, 16, false, [], 0⟩,
    msix := [], parity := [] }

/-- The machine right after reset: every part's module has just been powered and no partition exists (R440). -/
def State.reset : State :=
  { cores := [], parts := Vector.replicate 8 Wafer.reset, net := [], parks := [], acks := [], msgs := [], notices := [], steals := [],
    slotNotes := [], reports := [], bulkAcks := [], semq := [], fars := [], ids := 0, now := 0, ticks := 0, draws := 0, cur := (0, 0), agenda := [] }

/-- Why the machine stops. -/
inductive Fault where
  /-- Raised by `step` alone, when the schedule is empty and the modules of all parts are OFF (R440: unpowered): safe, since nothing
  moves there. No instruction and no event raises it. -/
  | unpowered
deriving DecidableEq, Repr

/-- Why a meaning is missing. -/
inductive Refusal where
  /-- Raised by the arm of an instruction that has no meaning yet: safe, since the run stops there. -/
  | notModelled (mnemonic : String)
deriving DecidableEq, Repr

end Sys2Proof.Machine
end

