-- ==== Sys2Proof/Machine/Bytes.lean ====
section
/-!
DEFINITION. Byte memories, tables by number, ascending sets of numbers, and little-endian values (R8).
-/
namespace Sys2Proof.Machine

/-- The value a table with ascending keys holds for a key, or `d`. -/
def tget {α : Type} (d : α) : List (Nat × α) → Nat → α
  | [], _ => d
  | (k, v) :: t, a => if k = a then v else if a < k then d else tget d t a

/-- A table with one value set, its keys kept ascending. -/
def tset {α : Type} (v : α) (a : Nat) : List (Nat × α) → List (Nat × α)
  | [] => [(a, v)]
  | (k, w) :: t => if k = a then (a, v) :: t else if a < k then (a, v) :: (k, w) :: t else (k, w) :: tset v a t

/-- A table without a key. -/
def tdel {α : Type} (a : Nat) : List (Nat × α) → List (Nat × α)
  | [] => []
  | (k, w) :: t => if k = a then t else if a < k then (k, w) :: t else (k, w) :: tdel a t

/-- R250: the byte at an address. -/
def Memory.read (m : Memory) (a : Nat) : Byte := tget 0 m a

/-- R250: a memory with one byte written; the canonical form lists no byte 0. -/
def Memory.write (m : Memory) (a : Nat) (b : Byte) : Memory := if b = 0 then tdel a m else tset b a m

/-- The n bytes from an address. -/
def Memory.readN (m : Memory) (a : Nat) : Nat → List Byte
  | 0 => []
  | n + 1 => m.read a :: m.readN (a + 1) n

/-- A memory with bytes written from an address upwards. -/
def Memory.writeN (m : Memory) (a : Nat) : List Byte → Memory
  | [] => m
  | b :: bs => (m.write a b).writeN (a + 1) bs

/-- R8: the little-endian value of bytes. -/
def leNat : List Byte → Nat
  | [] => 0
  | b :: bs => b.toNat + 256 * leNat bs

/-- R8: the n bytes of a value. -/
def leBytes (v : Nat) : Nat → List Byte
  | 0 => []
  | n + 1 => BitVec.ofNat 8 v :: leBytes (v / 256) n

/-- The value of the n bytes at an address. -/
def Memory.le (m : Memory) (a n : Nat) : Nat := leNat (m.readN a n)

/-- A memory with the n low bytes of a value written at an address. -/
def Memory.putLe (m : Memory) (a n v : Nat) : Memory := m.writeN a (leBytes v n)

/-- An ascending set with one more member. -/
def nadd (a : Nat) : List Nat → List Nat
  | [] => [a]
  | k :: t => if k = a then k :: t else if a < k then a :: k :: t else k :: nadd a t

/-- A set without a member. -/
def ndel (a : Nat) (l : List Nat) : List Nat := l.filter (· != a)

/-- Members added. -/
def naddAll (as l : List Nat) : List Nat := as.foldl (fun t a => nadd a t) l

/-- Bits [hi:lo] of a number, given the lowest bit and the width. -/
def bits (v lo w : Nat) : Nat := v / 2^lo % 2^w

/-- Element e of width w in a number. -/
def elem (v w e : Nat) : Nat := v / 2^(w * e) % 2^w

/-- A number built of elements of width w, the first lowest. -/
def packElems (w : Nat) : List Nat → Nat
  | [] => 0
  | x :: xs => x % 2^w + 2^w * packElems w xs

/-- R16: a w-bit number read as two's complement. -/
def sx (w v : Nat) : Int := (Num.ITy.mk w true).value v

/-- A w-bit number sign-extended to 64 bits. -/
def sx64 (w v : Nat) : Word := BitVec.ofInt 64 (sx w v)

/-- The elements of a list that differ in one position. -/
def lset {α : Type} (l : List α) (i : Nat) (v : α) : List α := l.set i v

/-- Element i of a vector whose length is not zero, the index taken modulo the length. -/
def vget {α : Type} {n : Nat} [NeZero n] (v : Vector α n) (i : Nat) : α := v.get (Fin.ofNat n i)

/-- A vector with element i (modulo the length) set. -/
def vset {α : Type} {n : Nat} [NeZero n] (v : Vector α n) (i : Nat) (x : α) : Vector α n :=
  v.set (Fin.ofNat n i).1 x (Fin.ofNat n i).2

end Sys2Proof.Machine
end

