-- ==== Sys2Proof/Machine/Operands.lean ====
section
/-!
DEFINITION. Operand forms on a strand's registers: x, v, p, descriptor and accumulator numbers (R74, R75), pairs (R76), immediates and
displacements (R66), vector elements and lanes (R175 to R178), and the program counter with the hardware loops (R162 to R165).
-/
namespace Sys2Proof.Machine

/-- R396: a register that is written holds good parity again. -/
def Ctx.whole (c : Ctx) (n r : Nat) : List (Nat × Nat) := c.bad.filter fun p => p != (n, r)

/-- R75: x[r]; x0 reads as zero. -/
def Ctx.getX (c : Ctx) (r : BitVec 5) : Word := if r = 0 then 0 else c.x.get r.toFin

/-- R75: x[r] := v; a write to x0 is discarded. -/
def Ctx.setX (c : Ctx) (r : BitVec 5) (v : Word) : Ctx := if r = 0 then c else { c with x := c.x.set r.toNat v r.isLt, bad := c.whole 8 r.toNat }

/-- The registers of a pair (R76): r and r + 1, both even-odd by ILL_PAIR_ODD. -/
def Ctx.setXPair (c : Ctx) (r : BitVec 5) (lo hi : Word) : Ctx := (c.setX r lo).setX (r + 1) hi

def Ctx.getV (c : Ctx) (r : BitVec 5) : VReg := c.v.get r.toFin

def Ctx.setV (c : Ctx) (r : BitVec 5) (v : VReg) : Ctx := { c with v := c.v.set r.toNat v r.isLt, bad := c.whole 9 r.toNat }

def Ctx.setVPair (c : Ctx) (r : BitVec 5) (lo hi : VReg) : Ctx := (c.setV r lo).setV (r + 1) hi

/-- R75: p[r]; p0 reads as all ones. -/
def Ctx.getP (c : Ctx) (r : BitVec 3) : PReg := if r = 0 then 0xFFFF else c.p.get r.toFin

/-- R75: p[r] := v; a write to p0 is discarded. -/
def Ctx.setP (c : Ctx) (r : BitVec 3) (v : PReg) : Ctx := if r = 0 then c else { c with p := c.p.set r.toNat v r.isLt, bad := c.whole 10 r.toNat }

def Ctx.getD (c : Ctx) (r : BitVec 5) : BitVec 128 := vget c.d r.toNat

def Ctx.setD (c : Ctx) (r : BitVec 5) (v : BitVec 128) : Ctx := { c with d := vset c.d r.toNat v, bad := c.whole 12 (r.toNat % 4) }

def Ctx.getLc (c : Ctx) (n : Nat) : Loop := vget c.lc n

def Ctx.setLc (c : Ctx) (n : Nat) (l : Loop) : Ctx := { c with lc := vset c.lc n l, bad := c.whole 12 (4 + n % 3) }

/-- R66: a field read as two's complement. -/
def imm {w : Nat} (i : BitVec w) : Word := i.signExtend 64

/-- R66: a branch or jump displacement in words. -/
def disp {w : Nat} (d : BitVec w) : Word := imm d <<< 2

/-- R143, R145: the operand a .W form reads and the result it writes. -/
def lowW (w : Bool) (v : Word) : Nat := if w then v.toNat % 2^32 else v.toNat

/-- R145: the result of a .W form is sign-extended from its low 32 bits. -/
def narrowW (w : Bool) (v : Nat) : Word := if w then sx64 32 v else BitVec.ofNat 64 v

/-- Width of the operands of an integer form. -/
def widthW (w : Bool) : Nat := if w then 32 else 64

/-- R162: the index of the active loop of a rank. -/
def Ctx.loopOfRank (c : Ctx) (r : BitVec 2) : Option Nat :=
  if (c.getLc 0).active && (c.getLc 0).rank == r then some 0
  else if (c.getLc 1).active && (c.getLc 1).rank == r then some 1
  else if (c.getLc 2).active && (c.getLc 2).rank == r then some 2
  else none

/-- R162: when a loop of rank r becomes inactive, every active loop of higher rank is lowered by one. -/
def Loop.lower (r : BitVec 2) (l : Loop) : Loop := if l.active && r.toNat < l.rank.toNat then { l with rank := l.rank - 1 } else l

/-- R162: deactivate a loop; its other fields go back to their reset values (log 109). -/
def Ctx.endLoop (c : Ctx) (n : Nat) : Ctx :=
  if (c.getLc n).active then
    let r := (c.getLc n).rank
    let c := c.setLc n Loop.off
    { c with lc := #v[(c.getLc 0).lower r, (c.getLc 1).lower r, (c.getLc 2).lower r] }
  else c

/-- R164: what one active loop does with the sequential next PC n: a return to its start, or its end. -/
def Ctx.stepRank (c : Ctx) (r : BitVec 2) (n : Word) : Ctx × Bool :=
  match c.loopOfRank r with
  | none => (c, false)
  | some i =>
    let l := c.getLc i
    if l.stop.setWidth 64 ≠ n then (c, false)
    else if 1 < l.count.toNat then ({ c.setLc i { l with count := l.count - 1 } with pc := l.start.setWidth 64 }, true)
    else (c.endLoop i, false)

/-- R164: the loop step, innermost first, at sequential next PC n. -/
def Ctx.seqTo (c : Ctx) (n : Word) : Ctx :=
  match c.stepRank 2 n with
  | (c, true) => c
  | (c, false) =>
    match c.stepRank 1 n with
    | (c, true) => c
    | (c, false) =>
      match c.stepRank 0 n with
      | (c, true) => c
      | (c, false) => { c with pc := n }

/-- R126: INSTRET counts a completed instruction. -/
def Ctx.count (c : Ctx) : Ctx := { c with instret := c.instret + 1 }

/-- An instruction of `len` bytes completes without a taken transfer. -/
def Ctx.retire (c : Ctx) (len : Nat) : Ctx := c.count.seqTo (c.pc + BitVec.ofNat 64 len)

/-- R165: whether an address lies in the body of an active loop. -/
def Loop.holds (l : Loop) (a : Word) : Bool := l.active && l.start.toNat ≤ a.toNat && a.toNat < l.stop.toNat

/-- R165: whether loop n is left by a transfer from a to t, or lies inside a loop that is. -/
def Ctx.leaves (c : Ctx) (a t : Word) (n : Nat) : Bool :=
  let l := c.getLc n
  let out (m : Loop) : Bool := m.holds a && !m.holds t && m.rank.toNat ≤ l.rank.toNat
  l.active && (out (c.getLc 0) || out (c.getLc 1) || out (c.getLc 2))

/-- R165: a taken branch or J leaves every loop whose body holds it and not its target, and every loop of higher rank. -/
def Ctx.leaveLoops (c : Ctx) (a t : Word) : Ctx :=
  let f (n : Nat) : Loop := if c.leaves a t n then Loop.off else c.getLc n
  { c with lc := #v[f 0, f 1, f 2] }

/-- R158, R159: a taken branch or J. -/
def Ctx.jump (c : Ctx) (t : Word) : Ctx := { (c.count.leaveLoops c.pc t) with pc := t }

/-- R160: JAL and JALR leave no loop. -/
def Ctx.call (c : Ctx) (t : Word) : Ctx := { c.count with pc := t }

/-- R163: number of active loops other than n. -/
def Ctx.otherLoops (c : Ctx) (n : Nat) : Nat :=
  (if (c.getLc 0).active && n ≠ 0 then 1 else 0) + (if (c.getLc 1).active && n ≠ 1 then 1 else 0)
    + (if (c.getLc 2).active && n ≠ 2 then 1 else 0)

/-- R163: LOOP's effect, with its trip count, completing by the step rule of R164. -/
def Ctx.startLoop (c : Ctx) (n : Nat) (trips : Word) (len : Nat) : Ctx :=
  let stop := c.pc + BitVec.ofNat 64 (8 + 4 * len)
  let d := c.endLoop n
  if trips = 0 then d.count.seqTo stop
  else
    ({ (d.setLc n ⟨trips, (c.pc + 8).setWidth 16, stop.setWidth 17, BitVec.ofNat 2 (d.otherLoops n), true⟩) with
       instret := d.instret + 1 }).seqTo (c.pc + 8)

/-- R136: every active loop is discarded. -/
def Ctx.dropLoops (c : Ctx) : Ctx := { c with lc := Vector.replicate 3 Loop.off }

/-- R386: trap entry with cause, return address and value; EPC, CAUSE and TVAL, written whole, hold good parity again (R396). -/
def Ctx.trap (c : Ctx) (cause : Nat) (epc tval : Word) : Ctx :=
  { c with epc := epc, cause := BitVec.ofNat 9 cause, tval := tval, ppriv := c.priv, priv := true, pc := c.tvec,
           trapAt := some c.instret, bad := c.bad.filter fun p => !(p.1 == 11 && (p.2 == 0x011 || p.2 == 0x012 || p.2 == 0x013)) }

/-- R417: the return from a trap. -/
def Ctx.eret (c : Ctx) : Ctx := { c.count with pc := c.epc, priv := c.ppriv, ppriv := false }

/-- R175: width in bits of an element type. -/
def typeW (t : BitVec 3) : Nat :=
  match t.toNat with
  | 0 => 32 | 1 => 32 | 2 => 16 | 3 => 16 | 4 => 32 | 5 => 16 | 6 => 16 | _ => 8

/-- R175: elements of a register. -/
def typeN (t : BitVec 3) : Nat := 512 / typeW t

/-- Whether a type code names a float type, and its format. -/
def typeF (t : BitVec 3) : Option Num.Fmt :=
  match t.toNat with
  | 4 => some Num.F32 | 5 => some Num.F16 | 6 => some Num.BF16 | _ => none

/-- The integer type of a type code. -/
def typeI (t : BitVec 3) : Num.ITy :=
  match t.toNat with
  | 0 => ⟨32, true⟩ | 1 => ⟨32, false⟩ | 2 => ⟨16, true⟩ | 3 => ⟨16, false⟩ | _ => ⟨8, true⟩

/-- R394: the trap format group of a type code. -/
def typeGrp (t : BitVec 3) : Nat :=
  match typeF t with
  | some f => f.grp
  | none => 7

/-- R178: the lane (0 to 15) an element of width w belongs to. -/
def laneOf (w e : Nat) : Nat := e * w / 32

/-- R176: whether a lane is active. -/
def active (g : PReg) (lane : Nat) : Bool := g.getLsbD lane

end Sys2Proof.Machine
end

