-- ==== Sys2Proof/Machine/Regs.lean ====
section
/-!
DEFINITION. What an instruction is to the others of its strand: the registers it reads and writes (R131, R252), whether it counts as an
outstanding load (R252), and whether it can take a pending fault (R472).
-/
namespace Sys2Proof.Machine

/-! ## Registers read and written -/

/-- Registers are numbered in one row: x0 to x31, then v0 to v31, p0 to p7, d0 to d3, lc0 to lc2, and the control registers from 96. x0
and p0 hold nothing. -/
def xr (r : BitVec 5) : List Nat := if r = 0 then [] else [r.toNat]
def vr (r : BitVec 5) : List Nat := [32 + r.toNat]
def vpr (r : BitVec 5) : List Nat := [32 + r.toNat, 32 + (r + 1).toNat]
def pr (r : BitVec 3) : List Nat := if r = 0 then [] else [64 + r.toNat]
def pr5 (r : BitVec 5) : List Nat := pr (r.setWidth 3)
def dr (r : BitVec 5) : List Nat := [72 + r.toNat % 4]

/-- The vector registers of an octet, or the descriptor, that an MMA source names. -/
def srcRegs (a : BitVec 5) : List Nat :=
  if selKind a == 0 then (List.range 8).map fun n => 32 + 8 * (a.toNat % 4) + n else if selKind a == 1 then [72 + a.toNat % 4] else []

/-- R177: what a write under guard g keeps of the registers `rs`: under p0 nothing, since every lane is active. -/
def keptBy (g : BitVec 3) (rs : List Nat) : List Nat := if g = 0 then [] else rs

/-- The registers an instruction reads. The destination of a write under a guard other than p0 is one, since the elements or bits that the
guard leaves out are kept (log 111). -/
def readsOf : Instr → List Nat
  | .add _ a b _ | .sub _ a b _ | .and _ a b _ | .or _ a b _ | .xor _ a b _ | .andn _ a b _ | .orn _ a b _ | .sll _ a b _ | .srl _ a b _
  | .sra _ a b _ | .rol _ a b _ | .ror _ a b _ | .mul _ a b _ | .mulh _ a b _ | .mulhu _ a b _ | .div _ a b _ | .divu _ a b _
  | .rem _ a b _ | .remu _ a b _ | .min _ a b _ | .max _ a b _ | .minu _ a b _ | .maxu _ a b _ | .slt _ a b _ | .sltu _ a b _
  | .sext _ a b _ | .zext _ a b _ => xr a ++ xr b
  | .clz _ a _ | .ctz _ a _ | .popc _ a _ | .brev _ a _ => xr a
  | .addi _ a _ | .andi _ a _ | .ori _ a _ | .xori _ a _ | .slti _ a _ => xr a
  | .slli _ a _ | .srli _ a _ | .srai _ a _ => xr a
  | .gaddr _ a b => xr a ++ xr b
  | .gcoord _ a | .gnbr _ a _ => xr a
  | .bfx _ a _ _ _ => xr a
  | .bfi d a _ _ => xr d ++ xr a
  | .sel _ a b c _ => xr a ++ xr b ++ xr c
  | .beq a b _ | .bne a b _ | .blt a b _ | .bge a b _ | .bltu a b _ | .bgeu a b _ => xr a ++ xr b
  | .jalr _ a _ => xr a
  | .loop _ a _ => xr a
  | .fadd _ a b _ _ _ | .fsub _ a b _ _ _ | .fmul _ a b _ _ _ => xr a ++ xr b
  | .fdiv _ a b _ _ => xr a ++ xr b
  | .fsqrt _ a _ _ => xr a
  | .fmin _ a b _ | .fmax _ a b _ | .fcmp _ a b _ => xr a ++ xr b
  | .fclass _ a _ => xr a
  | .fma _ a b c _ _ => xr a ++ xr b ++ xr c
  | .fcvt _ a _ _ _ => xr a
  | .ld _ a _ _ | .lda _ a _ _ | .ldv _ a _ _ | .ldvs _ a _ _ => xr a
  | .ldfe _ a _ | .ldfeE _ a _ => xr a
  | .st d a z _ => xr d ++ xr a ++ (if z = 4 then xr (d + 1) else [])
  | .stl d a _ _ => xr d ++ xr a
  | .stfe d a _ | .stfeF d a _ => xr d ++ xr a
  | .stv d a _ _ | .stvs d a _ _ => vr d ++ xr a
  | .ldvg d a _ _ => vr d ++ xr a
  | .stvx d a _ _ => vpr d ++ xr a
  | .amoAdd _ a b _ | .amoSub _ a b _ | .amoAnd _ a b _ | .amoOr _ a b _ | .amoXor _ a b _ | .amoMin _ a b _ | .amoMax _ a b _
  | .amoMinu _ a b _ | .amoMaxu _ a b _ | .amoSwap _ a b _ | .amoAddsat _ a b _ | .amoFadd _ a b _ | .amoBfadd _ a b _ => xr a ++ xr b
  | .cas _ a b c _ => xr a ++ xr b ++ xr c
  | .amov a b g _ => xr a ++ vr b ++ pr g
  | .amovR _ a b g _ => xr a ++ vr b ++ pr g
  | .pbwait a _ => xr a
  | .vma d a b g _ | .vms d a b g _ | .vshuf d a b g _ => vr d ++ vr a ++ vr b ++ pr g
  | .vadd d a b g _ | .vsub d a b g _ | .vmul d a b g _ | .vmin d a b g _ | .vmax d a b g _
  | .vshl d a b g _ | .vshr d a b g _ | .vperm d a b g _ | .vscale d a b g _ => keptBy g (vr d) ++ vr a ++ vr b ++ pr g
  | .vabs d a g _ | .vneg d a g _ | .vrcp d a g _ | .vrsq d a g _ | .vexp2 d a g _ | .vlog2 d a g _ => keptBy g (vr d) ++ vr a ++ pr g
  | .vand d a b g | .vor d a b g | .vxor d a b g => keptBy g (vr d) ++ vr a ++ vr b ++ pr g
  | .vcmp _ p a b g _ => keptBy g (pr p) ++ vr a ++ vr b ++ pr g
  | .vsel _ a b s => vr a ++ vr b ++ pr s
  | .vmov d a g => keptBy g (vr d) ++ vr a ++ pr g
  | .vbcast d b g _ => keptBy g (vr d) ++ xr b ++ pr g
  | .vslide d a b g _ => keptBy g (vr d) ++ vr a ++ xr b ++ pr g
  | .vext _ a b _ => vr a ++ xr b
  | .vins d a b g _ => vr d ++ xr a ++ xr b ++ pr g
  | .vaddX d a b g _ | .vsubX d a b g _ | .vmulX d a b g _ => keptBy g (vpr d) ++ vr a ++ vr b ++ pr g
  | .vdwadd d a b g _ | .vdwmul d a b g _ => keptBy g (vpr d) ++ vpr a ++ vpr b ++ pr g
  | .vdwnorm d a g _ => keptBy g (vpr d) ++ vpr a ++ pr g
  | .vsumx _ a g _ | .vred _ a g _ => vr a ++ pr g
  | .vcvt d a _ g _ => keptBy g (vr d) ++ vr a ++ pr g
  | .vpack _ a _ _ g => vpr a ++ pr g
  | .vunpk d a _ _ g _ => keptBy g (vpr d) ++ vr a ++ pr g
  | .vqnt _ a _ g => vr a ++ pr g
  | .vqntDeq d a _ g => keptBy g (vr d) ++ vr a ++ pr g
  | .vhad d a _ g _ _ => keptBy g (vr d) ++ vr a ++ pr g
  | .vrand d a g _ _ => keptBy g (vr d) ++ xr a ++ pr g
  | .pand d a b g | .por d a b g | .pxor d a b g => keptBy g (pr5 d) ++ pr5 a ++ pr5 b ++ pr g
  | .pnot d a g => keptBy g (pr5 d) ++ pr5 a ++ pr g
  | .pset d a g | .psetN d a g => keptBy g (pr5 d) ++ xr a ++ pr g
  | .pcnt _ a g | .pfirst _ a g => pr5 a ++ pr g
  | .mdesc _ a b => xr a ++ xr b
  | .mld d => dr d
  | .mma _ a b _ _ _ => srcRegs a ++ srcRegs b
  | .mdrain _ dd b _ _ res _ q _ => dr dd ++ xr b ++ (if res then [72 + q.toNat] else [])
  | .mxpq dd ds a _ => dr dd ++ dr ds ++ xr a
  | .bcopy d a b _ _ c _ _ _ => xr d ++ xr a ++ xr b ++ xr c
  | .bfill d a b _ _ c _ _ _ => xr d ++ xr a ++ xr b ++ xr c
  | .bstride d a b _ c _ _ => xr d ++ xr a ++ xr b ++ xr c
  | .fmget a _ | .fmput a _ | .fmgath a _ | .fmscat a _ => xr a
  | .vflip a b _ _ => xr a ++ xr b
  | .satt _ a b => xr a ++ xr b
  | .sdet _ a => xr a
  | .spush d a _ => vr d ++ xr a
  | .spull d a _ _ => vr d ++ xr a
  | .smark a b _ => xr a ++ xr b
  | .send d a b c e _ _ => xr d ++ xr a ++ xr b ++ xr c ++ xr e
  | .sendv d a _ _ => xr d ++ vr a
  | .hset _ _ a _ => xr a
  | .hmask _ a | .bmask _ a => xr a
  | .barw _ b => xr b
  | .bart _ _ b => xr b
  | .semi _ b | .semw _ b => xr b
  | .semt _ _ b | .sems _ _ b => xr b
  | .feclr a b | .feset a b => xr a ++ xr b
  | .fork _ a b => xr a ++ xr b ++ [10, 11, 12, 13]
  | .join a | .tdone a | .tdoneK a => xr a
  | .tpopS _ b => xr b
  | .steal _ a => xr a
  | .spawn _ a b _ _ => xr a ++ xr b
  | .waitev _ a b => xr a ++ xr b
  | .trap a _ => xr a
  | .chart _ a => xr a
  | .csrrd _ c => [96 + c.toNat]
  | .csrwr a _ => xr a
  | .csrxch _ a c => xr a ++ [96 + c.toNat]
  | _ => []

/-- The registers an instruction writes. -/
def writesOf : Instr → List Nat
  | .add d _ _ _ | .sub d _ _ _ | .and d _ _ _ | .or d _ _ _ | .xor d _ _ _ | .andn d _ _ _ | .orn d _ _ _ | .sll d _ _ _ | .srl d _ _ _
  | .sra d _ _ _ | .rol d _ _ _ | .ror d _ _ _ | .mul d _ _ _ | .mulh d _ _ _ | .mulhu d _ _ _ | .div d _ _ _ | .divu d _ _ _
  | .rem d _ _ _ | .remu d _ _ _ | .min d _ _ _ | .max d _ _ _ | .minu d _ _ _ | .maxu d _ _ _ | .slt d _ _ _ | .sltu d _ _ _
  | .sext d _ _ _ | .zext d _ _ _ => xr d
  | .clz d _ _ | .ctz d _ _ | .popc d _ _ | .brev d _ _ => xr d
  | .addi d _ _ | .andi d _ _ | .ori d _ _ | .xori d _ _ | .slti d _ _ => xr d
  | .slli d _ _ | .srli d _ _ | .srai d _ _ => xr d
  | .lui d _ | .addpc d _ => xr d
  | .gaddr d _ _ => xr d
  | .gcoord d _ | .gnbr d _ _ => xr d
  | .gself d => xr d
  | .bfx d _ _ _ _ => xr d
  | .bfi d _ _ _ => xr d
  | .sel d _ _ _ _ => xr d
  | .jal _ => [1]
  | .jalr d _ _ => xr d
  | .loopq n a b _ _ => xr a ++ xr b ++ [76 + n.toNat % 3]
  | .loop n _ _ => [76 + n.toNat % 3]
  | .fadd d _ _ _ x _ | .fsub d _ _ _ x _ | .fmul d _ _ _ x _ => xr d ++ (if x then xr (d + 1) else [])
  | .fdiv d _ _ _ _ => xr d
  | .fsqrt d _ _ _ => xr d
  | .fmin d _ _ _ | .fmax d _ _ _ | .fcmp d _ _ _ => xr d
  | .fclass d _ _ => xr d
  | .fma d _ _ _ _ _ => xr d
  | .fcvt d _ _ _ _ => xr d
  | .ld d _ z _ => xr d ++ (if z = 4 then xr (d + 1) else [])
  | .lda d _ _ _ => xr d
  | .ldfe d _ _ | .ldfeE d _ _ => xr d
  | .ldv d _ _ _ | .ldvs d _ _ _ | .ldvg d _ _ _ => vr d
  | .amoAdd d _ _ _ | .amoSub d _ _ _ | .amoAnd d _ _ _ | .amoOr d _ _ _ | .amoXor d _ _ _ | .amoMin d _ _ _ | .amoMax d _ _ _
  | .amoMinu d _ _ _ | .amoMaxu d _ _ _ | .amoSwap d _ _ _ | .amoAddsat d _ _ _ | .amoFadd d _ _ _ | .amoBfadd d _ _ _ => xr d
  | .cas d _ _ _ _ => xr d
  | .amovR d _ _ _ _ => vr d
  | .rdpb d _ => xr d
  | .vadd d _ _ _ _ | .vsub d _ _ _ _ | .vmul d _ _ _ _ | .vma d _ _ _ _ | .vms d _ _ _ _ | .vmin d _ _ _ _ | .vmax d _ _ _ _
  | .vshl d _ _ _ _ | .vshr d _ _ _ _ | .vperm d _ _ _ _ | .vshuf d _ _ _ _ | .vscale d _ _ _ _ | .vslide d _ _ _ _
  | .vins d _ _ _ _ => vr d
  | .vabs d _ _ _ | .vneg d _ _ _ | .vrcp d _ _ _ | .vrsq d _ _ _ | .vexp2 d _ _ _ | .vlog2 d _ _ _ => vr d
  | .vand d _ _ _ | .vor d _ _ _ | .vxor d _ _ _ => vr d
  | .vcmp _ p _ _ _ _ => pr p
  | .vsel d _ _ _ => vr d
  | .vmov d _ _ => vr d
  | .vbcast d _ _ _ => vr d
  | .vext d _ _ _ => xr d
  | .vaddX d _ _ _ _ | .vsubX d _ _ _ _ | .vmulX d _ _ _ _ | .vdwadd d _ _ _ _ | .vdwmul d _ _ _ _ => vpr d
  | .vdwnorm d _ _ _ | .vsumx d _ _ _ => vpr d
  | .vred d _ _ _ => vr d
  | .vcvt d _ _ _ _ | .vpack d _ _ _ _ => vr d
  | .vunpk d _ _ _ _ _ => vpr d
  | .vqnt d _ _ _ | .vqntDeq d _ _ _ => vr d
  | .vhad d _ _ _ _ _ => vr d
  | .vrand d _ _ _ _ => vr d
  | .pand d _ _ _ | .por d _ _ _ | .pxor d _ _ _ => pr5 d
  | .pnot d _ _ | .pset d _ _ | .psetN d _ _ => pr5 d
  | .pcnt d _ _ | .pfirst d _ _ => xr d
  | .atake d _ => xr d
  | .mdesc d _ _ => dr d
  | .satt d _ _ => xr d
  | .sdet d _ => xr d
  | .spull d _ b _ => vr d ++ xr b
  | .recv d a b c e _ => xr d ++ xr a ++ xr b ++ xr c ++ xr e
  | .recvv d a _ => vr d ++ xr a
  | .peek d a _ => xr d ++ xr a
  | .tflush d _ => xr d
  | .hmask d _ | .bmask d _ => xr d
  | .barv d _ _ => xr d
  | .bart d _ _ => xr d
  | .semt d _ _ | .sems d _ _ => xr d
  | .fork d _ _ => xr d
  | .tpop d => xr d ++ [10, 11, 12, 13, 14]
  | .tpopS d _ => xr d ++ [10, 11, 12, 13, 14]
  | .steal d _ => xr d
  | .spawn d _ _ _ _ => xr d
  | .waitev d _ _ => xr d
  | .preq d => xr d
  | .chart d _ => xr d
  | .csrrd d _ => xr d
  | .csrwr _ c => [96 + c.toNat]
  | .csrxch d _ c => xr d ++ [96 + c.toNat]
  | _ => []

/-- R115, R117, R118: the control registers that rounding reads: MODE, SEED and STEP. -/
def roundCtl : List Nat := [0x001, 0x003, 0x00E]

/-- R115, R117: those that an operation on a vector type reads. -/
def typeCtl (t : BitVec 3) : List Nat := if (typeF t).isSome then roundCtl else []

/-- R135, R301: those that a SPAWN or an HSET captures for the strand it starts. -/
def captureCtl : List Nat := [0x000, 0x001, 0x003, 0x00B, 0x00C, 0x00D, 0x010, 0x015, 0x016]

/-- R285: the acquire and release parts of a fence. -/
def fenceAcq (e f r q : Bool) : Bool := q || !(e || f || r || q)
def fenceRel (e f r q : Bool) : Bool := r || !(e || f || r || q)

/-- R396: the control registers that an instruction other than a CSR form reads, by its strand's registers c: a unit instruction captures MODE,
SEED and STEP (R222), a release waits for PBC (R277), and WAITEV looks at the counters where its mask asks for them (R139). -/
def ctlReads (c : Ctx) : Instr → List Nat
  | .fadd _ _ _ _ _ _ | .fsub _ _ _ _ _ _ | .fmul _ _ _ _ _ _ | .fdiv _ _ _ _ _ | .fsqrt _ _ _ _ | .fma _ _ _ _ _ _ | .fcvt _ _ _ _ _ => roundCtl
  | .fmin _ _ _ _ | .fmax _ _ _ _ | .fcmp _ _ _ _ => [0x001]
  | .vadd _ _ _ _ t | .vsub _ _ _ _ t | .vmul _ _ _ _ t | .vma _ _ _ _ t | .vms _ _ _ _ t | .vmin _ _ _ _ t | .vmax _ _ _ _ t
  | .vcmp _ _ _ _ _ t => typeCtl t
  | .vrcp _ _ _ t | .vrsq _ _ _ t | .vexp2 _ _ _ t | .vlog2 _ _ _ t => typeCtl t
  | .vaddX _ _ _ _ t | .vsubX _ _ _ _ t | .vmulX _ _ _ _ t => typeCtl t
  | .vdwadd _ _ _ _ _ | .vdwmul _ _ _ _ _ | .vdwnorm _ _ _ _ | .vsumx _ _ _ _ | .vred _ _ _ _ => [0x001]
  | .vcvt _ _ _ _ _ | .vpack _ _ _ _ _ | .vunpk _ _ _ _ _ _ | .vscale _ _ _ _ _ | .vqnt _ _ _ _ | .vqntDeq _ _ _ _ | .vhad _ _ _ _ _ _ => roundCtl
  | .vrand _ _ _ _ _ => [0x003, 0x00E]
  | .mzero _ | .mld _ | .mma _ _ _ _ _ _ | .mdrain _ _ _ _ _ _ _ _ _ | .mxpq _ _ _ _ | .satt _ _ _ => roundCtl
  | .hset _ _ _ _ | .spawn _ _ _ _ _ => captureCtl
  | .fork _ _ _ | .steal _ _ => [0x00C, 0x00D]
  | .tpopS _ _ => [0x00B]
  | .stl _ _ _ _ | .stfe _ _ _ | .stfeF _ _ _ | .tdoneK _ => [0x004]
  | .fence sc e f r q => (if fenceRel e f r q && sc != 0 then [0x004] else []) ++ (if f then [0x005] else [])
  | .pbwait _ f => [if f then 0x005 else 0x004]
  | .rdpb _ n => if n = 0 then [0x004] else if n = 1 then [0x005] else []
  | .halt | .haltR | .hret | .tdone _ => [0x004, 0x005]
  | .waitev _ a _ => if (c.getX a).getLsbD 5 then [0x004, 0x005] else []
  | .barv _ _ r => [0x00A] ++ (if r then [0x004] else [])
  | .barw _ _ | .bart _ _ _ | .bmask _ _ => [0x00A]
  | .eret => [0x000, 0x011]
  | _ => []

/-! ## What counts as outstanding -/

/-- R252: an access that counts towards the eight outstanding loads. -/
def countsLoad : Instr → Bool
  | .ld _ _ _ _ | .lda _ _ _ _ | .ldfe _ _ _ | .ldfeE _ _ _ | .ldv _ _ _ _ | .ldvs _ _ _ _ | .ldvg _ _ _ _ | .amovR _ _ _ _ _ => true
  | .amoAdd d _ _ _ | .amoSub d _ _ _ | .amoAnd d _ _ _ | .amoOr d _ _ _ | .amoXor d _ _ _ | .amoMin d _ _ _ | .amoMax d _ _ _
  | .amoMinu d _ _ _ | .amoMaxu d _ _ _ | .amoSwap d _ _ _ | .amoAddsat d _ _ _ | .amoFadd d _ _ _ | .amoBfadd d _ _ _ => d != 0
  | .cas d _ _ _ _ => d != 0
  | _ => false

/-- R472: an instruction that can take a pending fault. -/
def canTakeFault : Instr → Bool
  | .stl _ _ _ _ | .stfe _ _ _ | .stfeF _ _ _ | .pbwait _ _ | .semw _ _ | .semt _ _ _ | .halt | .haltR | .hret | .tdone _ => true
  | .barv _ _ r => r
  | .fence _ e f r q => fenceRel e f r q || f || e
  | _ => false

/-- R252, R472: nothing that the strand issued before instruction `seq` and that can still fault is outstanding. -/
def Strand.sure (x : Strand) (seq : Nat) : Bool :=
  (x.loads.all fun e => seq ≤ e.seq) && x.sq.all fun e => seq ≤ e.seq || (!countsLoad e.instr && !canTakeFault e.instr)

end Sys2Proof.Machine
end

