-- ==== Sys2Proof/Machine/Ops.lean ====
section
/-!
DEFINITION. The named operations the meanings are written with: access to cores, strands and partitions; trap entry and return; where
an address leads and the checks of R245; issue, completion and faulting of instructions that outlive their issue (R252, R472); requests
to quays (R254, R269); pending faults and error records (R471, R398).
-/
namespace Sys2Proof.Machine

/-! ## Cores, strands, parts -/

/-- R153: part number, logical y and logical x of a core's name. -/
def cPart (c : CoreId) : Nat := c / 2^18
def cY (c : CoreId) : Nat := c / 2^9 % 2^9
def cX (c : CoreId) : Nat := c % 2^9
def mkCore (p y x : Nat) : CoreId := p * 2^18 + y * 2^9 + x

def State.wafer (s : State) (p : Nat) : Wafer := vget s.parts p

def State.putWafer (s : State) (p : Nat) (w : Wafer) : State := { s with parts := vset s.parts p w }

def State.modWafer (s : State) (p : Nat) (f : Wafer → Wafer) : State := s.putWafer p (f (s.wafer p))

/-- The partition that covers logical column x. -/
def Wafer.ptnAt (w : Wafer) (x : Nat) : Option Ptn := w.ptns.find? fun q => 30 * q.first ≤ x && x < 30 * (q.first + q.count)

def Wafer.ptnIn (w : Wafer) (slot : Nat) : Option Ptn := w.ptns.find? fun q => q.slot == slot

def Wafer.modPtn (w : Wafer) (slot : Nat) (f : Ptn → Ptn) : Wafer :=
  { w with ptns := w.ptns.map fun q => if q.slot == slot then f q else q }

def State.modPtn (s : State) (p slot : Nat) (f : Ptn → Ptn) : State := s.modWafer p fun w => w.modPtn slot f

def State.ptnOf (s : State) (c : CoreId) : Option Ptn := if cPart c < 8 then (s.wafer (cPart c)).ptnAt (cX c) else none

/-- R424: the binding of tag 63 that formation makes: S3 at an entry, in S mode, every captured value zero. -/
def startBinding (entry : Word) : Binding := ⟨entry, 3, true, 0, 0, 0, 0, 0, 0, 0, false⟩

/-- R424: a core other than the lead core as FORM leaves it: the START stub, the last 256 bytes of the supervisor firmware, in its start
lines, and tag 63 bound to it. -/
def Core.stubbed (image : List Byte) : Core :=
  { Core.formed with near := Memory.writeN [] 0xFF00 (image.drop (16384 - 256)), exec := BitVec.ofNat 1024 (15 * 2^1020),
                     bindings := vset Core.formed.bindings 63 (some (startBinding 0xFF00)) }

/-- A core that is not listed: zeroised, or in a partition as FORM leaves it. -/
def State.blank (s : State) (c : CoreId) : Core :=
  match s.ptnOf c with
  | some _ => Core.stubbed (s.wafer (cPart c)).boot.supImage
  | none => Core.formed

def State.core (s : State) (c : CoreId) : Core := tget (s.blank c) s.cores c

def State.putCore (s : State) (c : CoreId) (k : Core) : State := { s with cores := tset k c s.cores }

def State.modCore (s : State) (c : CoreId) (f : Core → Core) : State := s.putCore c (f (s.core c))

def Core.strand (k : Core) (t : Fin 4) : Strand := k.strands.get t

def Core.putStrand (k : Core) (t : Fin 4) (x : Strand) : Core := { k with strands := k.strands.set t.1 x t.2 }

def State.strand (s : State) (c : CoreId) (t : Fin 4) : Strand := (s.core c).strand t

def State.putStrand (s : State) (c : CoreId) (t : Fin 4) (x : Strand) : State := s.putCore c ((s.core c).putStrand t x)

def State.modStrand (s : State) (c : CoreId) (t : Fin 4) (f : Strand → Strand) : State := s.putStrand c t (f (s.strand c t))

/-- The registers of the strand whose instruction runs. -/
def State.ctx (s : State) : Ctx := (s.strand s.cur.1 s.cur.2).ctx

def State.putCtx (s : State) (c : Ctx) : State := s.modStrand s.cur.1 s.cur.2 fun x => { x with ctx := c }

/-- The core whose strand runs. -/
def State.me (s : State) : Core := s.core s.cur.1

/-- An instruction of `len` bytes completes at its issue, leaving the registers `c` (R126, R164). -/
def State.retire (s : State) (len : Nat) (c : Ctx) : State := s.putCtx (c.retire len)

/-- R386: a synchronous trap of the running strand: the instruction changes nothing, EPC is its address. -/
def State.trap (s : State) (cause : Nat) (tval : Word) : State := s.putCtx (s.ctx.trap cause s.ctx.pc tval)

/-- R73: word 0 of an instruction in [31:0] and its extension word in [63:32]. -/
def illTval (i : Instr) : Word :=
  match encode i with
  | some (_, w) => BitVec.ofNat 64 w
  | none => 0

/-- R73: a trap of R72 steps 5 to 12, or of the same causes at step 13 (R397). -/
def State.illegal (s : State) (i : Instr) (cause : Nat) : State := s.trap cause (illTval i)

/-! ### Cause codes (R392 to R396) -/

def cILL_FIELD : Nat := 0x004
def cILL_PRIV : Nat := 0x008
def cILL_CSR : Nat := 0x009
def cERET_FRAME : Nat := 0x00E
/-- Class base + 4n + d of the five classes of R395. -/
def memCause (n d : Nat) : Nat := 0x080 + 4 * n + d
def msgCause (n d : Nat) : Nat := 0x0C0 + 4 * n + d
def engCause (n d : Nat) : Nat := 0x100 + 4 * n + d
def farCause (n d : Nat) : Nat := 0x140 + 4 * n + d
def sysCause (n d : Nat) : Nat := 0x180 + 4 * n + d

/-- R36: a partition's lead core. -/
def leadCore (p : Nat) (q : Ptn) : CoreId := mkCore p 0 (30 * q.first)

/-- First column and width in columns of a core's partition. -/
def State.x0 (s : State) (c : CoreId) : Nat := match s.ptnOf c with | some q => 30 * q.first | none => 0
def State.width (s : State) (c : CoreId) : Nat := match s.ptnOf c with | some q => 30 * q.count | none => 0

/-- R401: the strand of a core that its partition's hold exempts. -/
def State.exempt (s : State) (c : CoreId) : Option (Fin 4) :=
  match s.ptnOf c with
  | some q => (match q.pre.exempt with | some (d, t) => if d == c then some t else none | none => none)
  | none => none


/-- R128, R153: the part index a core's partition shows; 0 outside a domain. -/
def State.partIdx (s : State) (c : CoreId) : Nat :=
  match s.ptnOf c with
  | some q => if q.dom then (s.wafer (cPart c)).pidx else 0
  | none => 0

/-- R153: a core's coordinate word. -/
def State.coord (s : State) (c : CoreId) : Nat := mkCore (s.partIdx c) (cY c) (cX c)

/-- R112: c3 of a core. -/
def State.c3 (s : State) (c : CoreId) : Nat := s.partIdx c * 2^18 + cY c * s.width c + (cX c - s.x0 c)

/-- R128: the partition-relative core index. -/
def State.cidx (s : State) (c : CoreId) : Nat := cY c * s.width c + (cX c - s.x0 c)

/-- The part of a domain with an index. -/
def State.partOf (s : State) (domid : Word) (idx : Nat) : Option Nat :=
  (List.range 8).find? fun p => (s.wafer p).domid == domid && (s.wafer p).nparts ≠ 0 && (s.wafer p).pidx == idx

/-- R245 row 7: the core a part index, y and x name for a strand of core c, or nothing where the index is not in the strand's domain or
x lies outside the partition's columns. A name of a part that has not joined the domain yet lies beyond every part. -/
def State.coreAt (s : State) (c : CoreId) (idx y x : Nat) : Option CoreId :=
  match s.ptnOf c with
  | none => none
  | some q =>
    if !(30 * q.first ≤ x && x < 30 * (q.first + q.count)) then none
    else if q.dom then
      let w := s.wafer (cPart c)
      if idx == w.pidx then some (mkCore (cPart c) y x)
      else if w.nparts ≤ idx then none
      else match s.partOf w.domid idx with
        | some p => some (mkCore p y x)
        | none => some (mkCore (8 + idx) y x)
    else if idx == 0 then some (mkCore (cPart c) y x) else none

/-- R153: the coordinate word by which a strand of core c names core h, in c's domain. -/
def State.nameFor (s : State) (c h : CoreId) : Nat :=
  let idx := match s.ptnOf c with
    | some q => if !q.dom then 0 else if 8 ≤ cPart h then cPart h - 8 else (s.wafer (cPart h)).pidx
    | none => 0
  mkCore idx (cY h) (cX h)

/-- R126: CYCLE, counted from the partition's formation. -/
def State.cycle (s : State) (c : CoreId) : Nat := match s.ptnOf c with | some q => s.now - q.formed | none => s.now

/-! ## The chart (R37 to R50) -/

def Chart.isleOut (ch : Chart) (j : Nat) : Bool := ch.failisle.getLsbD j || ch.numbering.getLsbD j

/-- R2: the logical isle a physical isle carries. -/
def Chart.logIsle (ch : Chart) (j : Nat) : Option Nat :=
  if ch.isleOut j then none else some ((List.range j).filter fun k => !ch.isleOut k).length

/-- R2: the physical isle that carries a logical isle. -/
def Chart.physIsle (ch : Chart) (i : Nat) : Option Nat := ((List.range 16).filter fun j => !ch.isleOut j)[i]?

/-- R42: the links that leave the array are missing. -/
def edgeLinks (px py : Nat) : BitVec 16 :=
  let f (b : Bool) (n : Nat) : Nat := if b then 3 * 4^n else 0
  BitVec.ofNat 16 (f (py == 0) 0 + f (px == 511) 1 + f (py == 511) 2 + f (px == 0) 3 + f (py < 16) 4 + f (496 ≤ px) 5 + f (496 ≤ py) 6
    + f (px < 16) 7)

/-- R43: the entry of a tile the chart does not list. -/
def Chart.plain (ch : Chart) (i : Nat) : Tile :=
  let px := i % 512
  let py := i / 512
  let nm : Bool := px % 32 < 30 && !ch.isleOut (px / 32)
  { cls := .complete, named := nm, moving := false, retired := false, home := false,
    lx := if nm then 30 * (ch.logIsle (px / 32)).getD 0 + px % 32 else 0, ly := if nm then py else 0, peerx := 0, peery := 0, cw := [],
    links := edgeLinks px py, genset := if px % 32 < 30 then tget 0 ch.isleGen (px / 32) else 0 }

def Chart.tile (ch : Chart) (i : Nat) : Tile := tget (ch.plain i) ch.tiles i

/-- R43, R57: the tile that carries a logical core: the LX field governs. -/
def Chart.find (ch : Chart) (x y : Nat) : Nat :=
  match ch.tiles.find? fun t => t.2.named && t.2.lx == x && t.2.ly == y with
  | some t => t.1
  | none => y * 512 + 32 * (ch.physIsle (x / 30)).getD 0 + x % 30

def State.chart (s : State) (c : CoreId) : Chart := (s.wafer (cPart c)).chart

def State.tileOf (s : State) (c : CoreId) : Tile := (s.chart c).tile ((s.chart c).find (cX c) (cY c))

/-- R38: the core is an orphan: its vault lies on a home tile. -/
def State.orphan (s : State) (c : CoreId) : Bool := (s.tileOf c).cls == .compute

/-- R58: the core is marked moving. -/
def State.moving (s : State) (c : CoreId) : Bool := (s.tileOf c).moving

/-- R401: the core's partition is held. -/
def State.onHold (s : State) (c : CoreId) : Bool := match s.ptnOf c with | some q => q.pre.held | none => false

/-- R58, R61: a move of the core, or an amendment's hold of its partition, stops its strands. -/
def State.amending (s : State) (c : CoreId) : Bool :=
  s.moving c || (match s.ptnOf c with | some q => q.amendHold.isSome | none => false)

/-- R58, R61, R402: a strand that a pre-emption request, a move or an amendment has stopped. -/
def State.halted (s : State) (c : CoreId) (t : Fin 4) : Bool := ((s.core c).stopped && s.exempt c != some t) || s.amending c

/-- R42: state of a link of a tile: mesh N E S W 0 to 3, express N E S W 4 to 7. -/
def Tile.link (t : Tile) (n : Nat) : Nat := bits t.links.toNat (2 * n) 2

/-- R22: the tiles of strait n and of Halif port n. -/
def straitTile (n : Nat) : Nat := (if n % 4 < 2 then 0 else 511 * 512) + 32 * (n / 4) + (if n % 2 == 0 then 7 else 24)
def halifTile (n : Nat) : Nat := (if n % 4 < 2 then 0 else 511 * 512) + 32 * (n / 4) + (if n % 2 == 0 then 15 else 16)

/-- R22: the part runs and a tile of it is not DEAD. -/
def Wafer.tileRuns (w : Wafer) (i : Nat) : Bool := w.power == .run && (w.chart.tile i).cls != .dead

/-- The neighbouring tile over a mesh link. -/
def meshStep (i n : Nat) : Nat :=
  match n with
  | 0 => i - 512
  | 1 => i + 1
  | 2 => i + 512
  | _ => i - 1

/-- R53, R56: damage that waits for its amendment takes away a mesh link of a tile. -/
def Work.cuts (i n : Nat) : Work → Bool
  | .amend (.linkGone k) px py =>
    let j := py * 512 + px
    (k < 4 && j == i && k == n) || (k < 4 && meshStep j k == i && (k + 2) % 4 == n)
  | .amend .router px py => let j := py * 512 + px; j == i || j == meshStep i n
  | _ => false

/-- R53: no link of a causeway is missing. -/
def Wafer.causewayOk (w : Wafer) : Nat → List (BitVec 2) → Bool
  | _, [] => true
  | i, d :: ds =>
    (w.chart.tile i).link d.toNat ≠ 3 && !(w.work.any fun x => x.cuts i d.toNat) && w.causewayOk (meshStep i d.toNat) ds

/-- R437: the hops from a part to one d further in a domain of n parts. -/
def hopsFor (n d : Nat) : List Nat :=
  if d == 0 then [] else if d == 1 then [0] else if d == 2 then [1] else if d == n - 1 then [2] else if d == n - 2 then [3]
  else if d == 3 then [1, 0] else if d == 4 then [1, 1] else [3, 2]

/-- R437: how far round the domain a hop leads. -/
def hopDist (k : Nat) (n : Nat) : Nat :=
  match k with
  | 0 => 1
  | 1 => 2
  | 2 => n - 1
  | _ => n - 2

def Halif.off : Halif := ⟨false, 0, false, false, false, 0⟩
def Wafer.halif (w : Wafer) (n : Nat) : Halif := tget Halif.off w.halifs n

/-- R439: the logical isles of a partition by their distance from one of them, that one first; of two at one distance the lower comes first
(log 94). -/
def Ptn.islesFrom (q : Ptn) (isle : Nat) : List Nat :=
  ((List.range 16).flatMap fun d => if d == 0 then [isle] else if d ≤ isle then [isle - d, isle + d] else [isle + d]).filter fun i =>
    q.first ≤ i && i < q.first + q.count

/-- R436, R439: what stops traffic of a partition on the Halif port 4j + k of a part, as a memory cause n (R396): a failed port's traffic
goes by the port of the nearest other isle that has not failed. -/
def Wafer.portStop (w : Wafer) (q : Ptn) (isle k : Nat) : Option Nat :=
  let port (i : Nat) : Halif := match w.chart.physIsle i with | some j => w.halif (4 * j + k) | none => Halif.off
  match (q.islesFrom isle).find? fun i => !(port i).failed with
  | some i => if (port i).up && (port i).carries then none else some 6
  | none => some 10

/-- R437: the first stop on the way through the hops. -/
def State.hopStop (s : State) (q : Ptn) (domid : Word) (isle : Nat) : Nat → List Nat → Option Nat
  | _, [] => none
  | idx, k :: ks =>
    match s.partOf domid idx with
    | none => some 6
    | some p =>
      match (s.wafer p).portStop q isle k with
      | some n => some n
      | none => s.hopStop q domid isle ((idx + hopDist k (s.wafer p).nparts) % (s.wafer p).nparts) ks

/-- R436, R439: why traffic of core c does not reach core h over the Halif links, as a memory cause n (R396): HOME_UNREACHABLE behind a lost
link, REMOTE_BOUNDS towards a part on which the partition is not formed or carries no traffic. -/
def State.crossStop (s : State) (c h : CoreId) : Option Nat :=
  if cPart c == cPart h then none
  else match s.ptnOf c with
    | none => some 6
    | some q =>
      let w := s.wafer (cPart c)
      match s.ptnOf h with
      | some r =>
        if r.dom && r.first == q.first && r.count == q.count then
          s.hopStop q w.domid (cX h / 30) w.pidx (hopsFor w.nparts (((s.wafer (cPart h)).pidx + w.nparts - w.pidx) % w.nparts))
        else some 6
      | none => some 6

/-- R53, R436, R439: why a request of core c does not reach the vault of core h, as a memory cause n (R396): as for all traffic, or
HOME_UNREACHABLE behind a broken causeway. -/
def State.stops (s : State) (c h : CoreId) : Option Nat :=
  match s.crossStop c h with
  | some n => some n
  | none =>
    let w := s.wafer (cPart h)
    if s.orphan h && !w.causewayOk (w.chart.find (cX h) (cY h)) (s.tileOf h).cw then some 10 else none

/-- R53, R58: the vault of core h is on the move, so that an agent of core c gets RETRY; one that cannot be reached answers so first. -/
def State.away (s : State) (c h : CoreId) : Bool := (s.stops c h).isNone && s.moving h

/-! ## Addresses (R243 to R246) -/

/-- R243: where an address leads. -/
inductive Place where
  | near (off : Nat)
  | vault (home : CoreId) (off : Nat)
  | ctrl
  | nowhere
deriving DecidableEq, Repr

/-- What an instruction's card asks of an address: the spaces it accepts and whether it stores. -/
structure Acc where
  near : Bool
  vault : Bool
  ctrl : Bool
  store : Bool

def accLd : Acc := ⟨true, true, false, false⟩
def accSt : Acc := ⟨true, true, false, true⟩
def accQuay : Acc := ⟨false, true, false, false⟩

def space (ea : Word) : Nat := bits ea.toNat 60 4
def nearOff (ea : Word) : Nat := bits ea.toNat 0 16
def vaultOff (ea : Word) : Nat := bits ea.toNat 0 19

/-- R243: the core a GLOBAL address names for a strand of core c. -/
def State.globalCore (s : State) (c : CoreId) (ea : Word) : Option CoreId :=
  s.coreAt c (bits ea.toNat 56 3) (bits ea.toNat 47 9) (bits ea.toNat 38 9)

def State.place (s : State) (c : CoreId) (ea : Word) : Place :=
  match space ea with
  | 0 => .near (nearOff ea)
  | 1 => .vault c (vaultOff ea)
  | 2 => match s.globalCore c ea with | some h => .vault h (vaultOff ea) | none => .nowhere
  | 0xF => .ctrl
  | _ => .nowhere

/-- R77: line n of the near store is execute. -/
def Core.execLine (k : Core) (n : Nat) : Bool := k.exec.getLsbD n

/-- R79: some byte of a near range lies in an execute line. -/
def Core.execIn (k : Core) (off len : Nat) : Bool := (List.range ((off % 64 + len + 63) / 64)).any fun n => k.execLine (off / 64 + n)

/-- R245: the first check that an access of `len` bytes at `ea` fails, as a memory cause n; `align` is 1 where the card asks none and
`ranges` is false for the count-0 form of R267. -/
def State.check (s : State) (c : CoreId) (priv : Bool) (a : Acc) (ea : Word) (len align : Nat) (ranges : Bool) : Option Nat :=
  let sp := space ea
  let e := ea.toNat
  if !((sp == 0 && a.near) || ((sp == 1 || sp == 2) && a.vault) || (sp == 0xF && a.ctrl)) then some 0
  else if sp == 0xF && !priv then some 1
  else if (sp == 0 && bits e 16 44 ≠ 0) || (sp == 1 && bits e 19 41 ≠ 0) || (sp == 2 && (bits e 59 1 ≠ 0 || bits e 19 19 ≠ 0)) then some 2
  else if ranges && sp == 0 && 0x10000 < nearOff ea + len then some 3
  else if ranges && (sp == 1 || sp == 2) && 0x80000 < vaultOff ea + len then some 4
  else if e % align ≠ 0 then some 5
  else if sp == 2 && (s.globalCore c ea).isNone then some 6
  else if sp == 0 && a.store && !priv && (s.core c).execIn (nearOff ea) len then some 7
  else none

/-- R245: the first failing element of an access, with its cause n. -/
def State.checkAll (s : State) (c : CoreId) (priv : Bool) (a : Acc) (align : Nat) : List (Word × Nat) → Option (Nat × Word)
  | [] => none
  | (ea, len) :: es =>
    match s.check c priv a ea len align true with
    | some n => some (n, ea)
    | none => s.checkAll c priv a align es

/-- R254: an access cut at 32-byte boundaries into events, each an offset and a length; `fuel` bounds their number. -/
def events (off len : Nat) : Nat → List (Nat × Nat)
  | 0 => []
  | n + 1 => if len = 0 then [] else
    let m := if len ≤ 32 - off % 32 then len else 32 - off % 32
    (off, m) :: events (off + m) (len - m) n

/-- R254: the vault events of a list of elements: the element's address, the home, the offset and the length. -/
def State.eventsOf (s : State) (c : CoreId) (els : List (Word × Nat)) : List (Word × CoreId × Nat × Nat) :=
  els.flatMap fun (ea, len) =>
    match s.place c ea with
    | .vault h off => (events off len 18).map fun (o, m) => (ea, h, o, m)
    | _ => []

/-! ## Instructions that outlive their issue (R252, R472) -/

def Strand.setSt (x : Strand) (wait : Bool) : Strand :=
  match x.st, wait with
  | .ready, true => { x with st := .waiting }
  | .waiting, false => { x with st := .ready }
  | .handler, true => { x with st := .handlerWaiting }
  | .handlerWaiting, false => { x with st := .handler }
  | _, _ => x

/-- R122: the strand is waiting, in a handler or not. -/
def Strand.waits (x : Strand) : Bool := x.st == .waiting || x.st == .handlerWaiting

/-- x or v register r of `new` as it is in `old`; registers are numbered as in `writesOf`. -/
def Ctx.keepReg (old new : Ctx) (r : Nat) : Ctx :=
  if r < 32 then new.setX (BitVec.ofNat 5 r) (old.getX (BitVec.ofNat 5 r))
  else if r < 64 then new.setV (BitVec.ofNat 5 r) (old.getV (BitVec.ofNat 5 r)) else new

/-- R252: the registers once the instruction numbered `seq` writes its result f, where younger instructions have overwritten some of it. -/
def Ctx.result (c : Ctx) (lost : List (Nat × Nat)) (seq : Nat) (f : Ctx → Ctx) : Ctx :=
  (lost.filter fun p => p.1 == seq).foldl (fun d p => c.keepReg d p.2) (f c)

/-- A result of the instruction numbered `seq` reaches the registers, and the snapshots of every younger instruction. -/
def Strand.merge (x : Strand) (seq : Nat) (f : Ctx → Ctx) : Strand :=
  let g (e : Entry) : Entry := if seq < e.seq then { e with snap := e.snap.result e.lost seq f } else e
  { x with ctx := x.ctx.result x.lost seq f, loads := x.loads.map g, sq := x.sq.map g, wait := x.wait.map g }

/-- R252: an instruction numbered `seq`, whose effect cannot be taken back, has had it. -/
def Strand.settle (x : Strand) (seq : Nat) : Strand := { x with firm := max x.firm seq }

/-- R252: instruction i, issued as number `seq`, overwrites results of outstanding older instructions before they come. -/
def Strand.supersede (x : Strand) (i : Instr) (seq : Nat) : Strand :=
  { x with lost := x.lost ++ ((x.loads ++ x.sq).filter fun e => e.seq < seq).flatMap fun e =>
      ((writesOf e.instr).filter fun r => (writesOf i).contains r).map fun r => (e.seq, r) }

/-- An instruction leaves the list of those that outlive their issue. -/
def Strand.drop (x : Strand) (seq : Nat) : Strand :=
  let keep (e : Entry) : Bool := e.seq ≠ seq
  let gone (l : List (Nat × Nat)) : List (Nat × Nat) := l.filter fun p => p.1 != seq
  let g (e : Entry) : Entry := { e with lost := gone e.lost }
  let x := { x with loads := (x.loads.filter keep).map g, sq := (x.sq.filter keep).map g, lost := gone x.lost,
                    wait := match x.wait with | some e => if e.seq == seq then none else some (g e) | none => none }
  if x.hold == some seq then { x with hold := none }.setSt false else x

/-- R239: the result also reaches what the strand's younger instructions in the matrix unit's queue go back to if they trap. -/
def Core.mergeUnit (k : Core) (t : Fin 4) (seq : Nat) (f : Ctx → Ctx) : Core :=
  let g (u : UnitEntry) : UnitEntry := if u.strand == t && seq < u.seq then { u with snap := u.snap.result u.lost seq f } else u
  { k with unitq := k.unitq.map g }

/-- An instruction of a strand completes with a result for its registers. -/
def State.finish (s : State) (c : CoreId) (t : Fin 4) (seq : Nat) (f : Ctx → Ctx) : State :=
  (s.modCore c fun k => k.mergeUnit t seq f).modStrand c t fun x => (x.merge seq f).drop seq

/-- R252, R386: an instruction that outlived its issue traps: the strand's registers go back to what they were at its issue, younger
results and queue entries are discarded unperformed, and the trap is entered with EPC at the instruction. -/
def Strand.faultAt (x : Strand) (e : Entry) (cause : Nat) (tval : Word) : Strand :=
  let keep (y : Entry) : Bool := y.seq < e.seq
  let y : Strand := { x with ctx := e.snap.trap cause e.snap.pc tval, loads := x.loads.filter keep, sq := x.sq.filter keep, wait := none, lost := e.lost }
  match x.hold with
  | some n => if n < e.seq then y else { y with hold := none }.setSt false
  | none => y

def State.faultAt (s : State) (c : CoreId) (t : Fin 4) (e : Entry) (cause : Nat) (tval : Word) : State :=
  s.modStrand c t fun x => x.faultAt e cause tval

/-- The entry of an instruction issued now by the running strand. -/
def State.entry (s : State) (i : Instr) (parts : List Resp) (phase : Nat) : Entry :=
  { seq := s.me.seq, instr := i, snap := s.ctx, parts := parts, phase := phase, aux := BitVec.ofNat 64 s.now,
    lost := (s.strand s.cur.1 s.cur.2).lost }

/-- The running strand's instruction of `len` bytes is issued and enters the store queue (R252); `hold` keeps the strand from issuing
until it has completed. -/
def State.queue (s : State) (i : Instr) (len : Nat) (hold : Bool) : State :=
  let e := s.entry i [] 0
  let s := s.modCore s.cur.1 fun k => { k with seq := k.seq + 1 }
  s.modStrand s.cur.1 s.cur.2 fun x =>
    { x with ctx := x.ctx.retire len, sq := x.sq ++ [e], hold := if hold then some e.seq else x.hold }

/-- The running strand's instruction waits in the scalar pipe (R252: WAITEV, HALT, HRET, TDONE acting as HALT, LOOPQ do not leave
anything behind them). -/
def State.await (s : State) (i : Instr) : State :=
  let e := s.entry i [] 0
  let s := s.modCore s.cur.1 fun k => { k with seq := k.seq + 1 }
  s.modStrand s.cur.1 s.cur.2 fun x => { x with wait := some e, hold := some e.seq }

/-- R252: the running strand's load of `len` bytes of code is issued and stays outstanding. -/
def State.await_load (s : State) (i : Instr) (parts : List Resp) (phase : Nat) (hold : Bool) : State :=
  let e := s.entry i parts phase
  let s := s.modCore s.cur.1 fun k => { k with seq := k.seq + 1 }
  s.modStrand s.cur.1 s.cur.2 fun x =>
    { x with ctx := x.ctx.retire 4, loads := x.loads ++ [e], hold := if hold then some e.seq else x.hold }

/-! ## Error records and events of a core -/

/-- R52, R398: an error record about a core for a fault that arose at a tile; `t` names the strand whose PC it holds. The controller takes it
under ERROR_RECORD. -/
def State.recordAt (s : State) (c : CoreId) (tile cause : Nat) (t : Option (Fin 4)) (pc addr : Word) (synd : Nat) : State :=
  let r : ErrRec :=
    { cause := cause, strand := t, synd := synd, slot := (s.ptnOf c).map (·.slot), core := some (s.coord c), px := tile % 512,
      py := tile / 512, pc := pc, addr := addr, time := s.cycle c }
  s.modWafer (cPart c) fun w => { w with errq := w.errq ++ [r] }

/-- R52: an error record about a core for a fault at its own tile. -/
def State.record (s : State) (c : CoreId) (cause : Nat) (t : Option (Fin 4)) (pc addr : Word) (synd : Nat) : State :=
  s.recordAt c ((s.chart c).find (cX c) (cY c)) cause t pc addr synd

/-- R53: an access at an address by an agent of core c that is no strand completes with memory cause n; a record reports it (log 99). -/
def State.unreached (s : State) (c : CoreId) (n : Nat) (ea : Word) : State := s.record c (memCause n 3) none 0 ea 0

/-- R138: an event bit is set in every strand of a core, or in every other strand than one. -/
def Core.signal (k : Core) (b : Nat) (but : Option (Fin 4)) : Core :=
  let f (t : Fin 4) : Strand :=
    let x := k.strand t
    if but == some t then x else { x with evpend := x.evpend ||| BitVec.ofNat 5 (2^b) }
  { k with strands := #v[f 0, f 1, f 2, f 3] }

def State.signal (s : State) (c : CoreId) (b : Nat) (but : Option (Fin 4)) : State := s.modCore c fun k => k.signal b but

/-- R281: an engine's or stream's increment sets out for a core's semaphore unit. -/
def State.semLater (s : State) (c : CoreId) (n : Nat) : State := { s with semq := s.semq ++ [(c, n)] }

/-- R471: the pending faults an instruction receives: it traps with the oldest in program order, and the others become records. -/
def State.takeFaults (s : State) (c : CoreId) (t : Fin 4) (e : Entry) (gets : PFault → Bool) : Option State :=
  let x := s.strand c t
  let mine := (x.faults.filter gets).filter fun f => f.seq ≤ e.seq
  match mine with
  | [] => none
  | f :: fs =>
    let old := fs.foldl (fun a b => if b.seq < a.seq then b else a) f
    let rest := mine.erase old
    let s := s.modStrand c t fun x => { x with faults := x.faults.filter fun g => !(mine.contains g) }
    let s := rest.foldl (fun s g => s.record c (g.base + 3) (some t) e.snap.pc g.addr 0) s
    some (s.faultAt c t e (old.base + (if old.cmd then 2 else 1)) old.addr)

/-! ## Requests to quays -/

/-- R271, R236: the instruction writes the bytes of its elements: a store or an atomic. -/
def storesBytes : Instr → Bool
  | .st _ _ _ _ | .stl _ _ _ _ | .stfe _ _ _ | .stfeF _ _ _ | .stv _ _ _ _ | .stvs _ _ _ _ | .stvx _ _ _ _ => true
  | .amoAdd _ _ _ _ | .amoSub _ _ _ _ | .amoAnd _ _ _ _ | .amoOr _ _ _ _ | .amoXor _ _ _ _ | .amoMin _ _ _ _ | .amoMax _ _ _ _ => true
  | .amoMinu _ _ _ _ | .amoMaxu _ _ _ _ | .amoSwap _ _ _ _ | .amoAddsat _ _ _ _ | .amoFadd _ _ _ _ | .amoBfadd _ _ _ _ => true
  | .cas _ _ _ _ _ | .amov _ _ _ _ | .amovR _ _ _ _ _ => true
  | .fork _ _ _ | .tdone _ | .tdoneK _ => true
  | _ => false

/-- Requests leave a strand: they are numbered and go to the end of the network's list. -/
def State.send (s : State) (rs : List Req) : State :=
  { s with net := s.net ++ rs.mapIdx (fun n r => { r with id := s.ids + n }), ids := s.ids + rs.length }

/-- R274: a home is local when it is the core's own tile. -/
def State.isLocal (s : State) (c h : CoreId) : Bool := c == h && !s.orphan c

/-- R274, R275: `n` bytes of a write of strand (c, t) to home h leave the strand. -/
def State.countOut (s : State) (c : CoreId) (t : Fin 4) (h : CoreId) (n : Nat) : State :=
  if s.isLocal c h then s
  else s.modStrand c t fun x => { x with pbc := x.pbc + n, spb := if c == h then x.spb + n else x.spb,
                                         xpb := if cPart c ≠ cPart h then x.xpb + n else x.xpb }

/-- A request of strand (c, t); a write counts `n` bytes (R274). -/
def State.mkReq (s : State) (c : CoreId) (t : Fin 4) (seq idx : Nat) (ea : Word) (h : CoreId) (off len : Nat) (op : ReqOp) (toLoad : Bool)
    (n : Nat) : Req :=
  let loc := s.isLocal c h
  { id := 0, core := c, strand := t, seq := seq, idx := idx, home := h, off := off, len := len, op := op, addr := ea, toLoad := toLoad,
    pbc := if loc then 0 else n, spb := !loc && c == h, xpb := cPart c != cPart h, unit := false, st := .flying }

/-- R274: an event of a write leaves strand (c, t) and is counted. -/
def State.sendWrite (s : State) (c : CoreId) (t : Fin 4) (r : Req) : State := (s.countOut c t r.home (if r.pbc = 0 then 0 else r.pbc)).send [r]

/-- R277: every earlier local write of strand (c, t) that has left it has been performed. -/
def State.localDone (s : State) (c : CoreId) (t : Fin 4) : Bool :=
  !((s.net ++ s.parks).any fun r => r.core == c && r.strand == t && !r.toLoad && r.pbc == 0)
    && !(s.acks.any fun a => a.core == c && a.strand == t && a.bytes == 0 && a.load.isNone)

/-- R252: no load the strand issued before instruction `seq` is outstanding. -/
def Strand.loadsBack (x : Strand) (seq : Nat) : Bool := !(x.loads.any fun e => e.seq < seq)

end Sys2Proof.Machine
end

