-- ==== Sys2Proof/Machine/Flags.lean ====
section
/-!
DEFINITION. Flag computations: the effective rounding code and MODE's fields (R108, R115), random words (R112), which exception traps and
its cause (R119, R393, R394), and the completion of an instruction that raises exceptions.
-/
namespace Sys2Proof.Machine
open Sys2Proof.Num

/-- R108: a rounding code with DYN taken from MODE.RM. -/
def rcOf (mode : BitVec 9) (rc : BitVec 3) : Nat := if rc = 6 then bits mode.toNat 0 3 else rc.toNat

/-- R115: MODE.SAT. -/
def satOf (mode : BitVec 9) : Bool := mode.getLsbD 3

/-- R112: word 0 of Philox for an element. -/
def rndWord (seed step : Word) (c0 c1 c3 : Nat) : Nat := (philox seed.toNat c0 c1 (step.toNat % 2^32) c3).1

/-- R119, R394: the kind k of the exception that traps under a MODE: POISON_VALUE always, then the first enabled of NV (5, 6 or 0 by its
reasons), DZ, OF, UF, NX. -/
def trapKind (mode : BitVec 9) (e : Exc) : Option Nat :=
  if e.getLsbD 10 then some 7
  else if e.getLsbD 0 && mode.getLsbD 4 then some (if e.getLsbD 7 then 5 else if e.getLsbD 8 then 6 else 0)
  else if e.getLsbD 1 && mode.getLsbD 5 then some 1
  else if e.getLsbD 2 && mode.getLsbD 6 then some 2
  else if e.getLsbD 3 && mode.getLsbD 7 then some 3
  else if e.getLsbD 4 && mode.getLsbD 8 then some 4
  else none

/-- Whether an element raised the exception of kind k. -/
def raised (k : Nat) (e : Exc) : Bool :=
  match k with
  | 7 => e.getLsbD 10
  | 1 => e.getLsbD 1
  | 2 => e.getLsbD 2
  | 3 => e.getLsbD 3
  | 4 => e.getLsbD 4
  | _ => e.getLsbD 0

/-- R393: the arithmetic cause of kind k and format group t. -/
def arithCause (k t : Nat) : Nat := 0x040 + 8 * k + t

/-- R116: the flags among exceptions. -/
def excFlags (e : Exc) : BitVec 7 := e.setWidth 7

def Ctx.orFlags (c : Ctx) (e : Exc) : Ctx := { c with flags := c.flags ||| excFlags e }

/-- R114: STEP after an instruction whose effective rounding is SR. -/
def Ctx.bumpStep (c : Ctx) (sr : Bool) : Ctx := if sr then { c with stepc := c.stepc + 1 } else c

/-- All exceptions of a list of elements. -/
def excAll (es : List (Nat × Exc)) : Exc := es.foldl (fun a x => a ||| x.2) excNone

/-- R119: TVAL[15:0], the lanes that raised the exception of kind k. -/
def excLanes (k : Nat) (es : List (Nat × Exc)) : Word :=
  BitVec.ofNat 64 ((List.range 16).foldl (fun a l => if es.any fun x => x.1 == l && raised k x.2 then a + 2^l else a) 0)

/-- R119: an instruction of four bytes with exceptions completes with the registers `c`, or traps and writes nothing. `grp` is the format
group of R393, `sr` whether it advances STEP, `lanes` its elements' lanes and exceptions (a scalar has none of them as lanes: TVAL 0). -/
def State.complete (s : State) (grp : Nat) (sr : Bool) (e : Exc) (lanes : List (Nat × Exc)) (c : Ctx) : State :=
  match trapKind s.ctx.mode e with
  | some k => s.trap (arithCause k grp) (excLanes k lanes)
  | none => s.retire 4 ((c.orFlags e).bumpStep sr)

/-- The random word of a scalar instruction (R169). -/
def State.rnd0 (s : State) : Nat := rndWord s.ctx.seed s.ctx.stepc 0 0 (s.c3 s.cur.1)

end Sys2Proof.Machine
end

