-- ==== Sys2Proof/Machine/Scalar.lean ====
section
/-!
DEFINITION. Scalar instructions (06_scalar): integer register and immediate forms, bit fields, selection, logical coordinates, branches
and jumps, hardware loops.
-/
namespace Sys2Proof.Machine
open Sys2Proof.Num

abbrev Out := Host.Outcome State Fault Refusal

/-- R143, R145: a register operation of width w on the operands read as unsigned numbers. -/
def State.intOp (s : State) (w : Bool) (d a b : BitVec 5) (f : Nat → Nat → Nat → Nat) : State :=
  s.retire 4 (s.ctx.setX d (narrowW w (f (widthW w) (lowW w (s.ctx.getX a)) (lowW w (s.ctx.getX b)))))

/-- R143: the shift amount n, and the width operand of SEXT and ZEXT where 0 means the whole register. -/
def shAmt (w b : Nat) : Nat := b % w
def extW (w b : Nat) : Nat := if b % w = 0 then w else b % w

/-- R143: number of leading zero bits below position w. -/
def clzN : Nat → Nat → Nat
  | 0, _ => 0
  | w + 1, a => if a.testBit w then 0 else 1 + clzN w a

/-- R143: number of trailing zero bits, at most w. -/
def ctzN : Nat → Nat → Nat
  | 0, _ => 0
  | w + 1, a => if a % 2 = 1 then 0 else 1 + ctzN w (a / 2)

/-- R143: number of one bits below position w. -/
def popcN : Nat → Nat → Nat
  | 0, _ => 0
  | w + 1, a => a % 2 + popcN w (a / 2)

/-- R143: the low w bits in reverse order. -/
def brevN : Nat → Nat → Nat
  | 0, _ => 0
  | w + 1, a => a % 2 * 2^w + brevN w (a / 2)

/-- R144. -/
def divN (w a b : Nat) : Nat := if b = 0 then 2^w - 1 else bitsOf w ((sx w a).tdiv (sx w b))
def divuN (w a b : Nat) : Nat := if b = 0 then 2^w - 1 else a / b
def remN (w a b : Nat) : Nat := if b = 0 then a else bitsOf w ((sx w a).tmod (sx w b))
def remuN (a b : Nat) : Nat := if b = 0 then a else a % b

def execAdd (d a b : BitVec 5) (w : Bool) (s : State) : Out := .next (s.intOp w d a b fun _ x y => x + y)
def execSub (d a b : BitVec 5) (w : Bool) (s : State) : Out := .next (s.intOp w d a b fun n x y => x + 2^n - y)
def execAnd (d a b : BitVec 5) (w : Bool) (s : State) : Out := .next (s.intOp w d a b fun _ x y => x &&& y)
def execOr (d a b : BitVec 5) (w : Bool) (s : State) : Out := .next (s.intOp w d a b fun _ x y => x ||| y)
def execXor (d a b : BitVec 5) (w : Bool) (s : State) : Out := .next (s.intOp w d a b fun _ x y => x ^^^ y)
def execAndn (d a b : BitVec 5) (w : Bool) (s : State) : Out := .next (s.intOp w d a b fun n x y => x &&& (2^n - 1 - y))
def execOrn (d a b : BitVec 5) (w : Bool) (s : State) : Out := .next (s.intOp w d a b fun n x y => x ||| (2^n - 1 - y))
def execSll (d a b : BitVec 5) (w : Bool) (s : State) : Out := .next (s.intOp w d a b fun n x y => x * 2^(shAmt n y))
def execSrl (d a b : BitVec 5) (w : Bool) (s : State) : Out := .next (s.intOp w d a b fun n x y => x / 2^(shAmt n y))
def execSra (d a b : BitVec 5) (w : Bool) (s : State) : Out :=
  .next (s.intOp w d a b fun n x y => bitsOf n (sx n x / ((2^(shAmt n y) : Nat) : Int)))
def execRol (d a b : BitVec 5) (w : Bool) (s : State) : Out :=
  .next (s.intOp w d a b fun n x y => x * 2^(shAmt n y) + x / 2^(n - shAmt n y))
def execRor (d a b : BitVec 5) (w : Bool) (s : State) : Out :=
  .next (s.intOp w d a b fun n x y => x / 2^(shAmt n y) + x * 2^(n - shAmt n y))
def execMul (d a b : BitVec 5) (w : Bool) (s : State) : Out := .next (s.intOp w d a b fun _ x y => x * y)
def execMulh (d a b : BitVec 5) (w : Bool) (s : State) : Out :=
  .next (s.intOp w d a b fun n x y => bitsOf n (sx n x * sx n y / ((2^n : Nat) : Int)))
def execMulhu (d a b : BitVec 5) (w : Bool) (s : State) : Out := .next (s.intOp w d a b fun n x y => x * y / 2^n)
def execDiv (d a b : BitVec 5) (w : Bool) (s : State) : Out := .next (s.intOp w d a b divN)
def execDivu (d a b : BitVec 5) (w : Bool) (s : State) : Out := .next (s.intOp w d a b divuN)
def execRem (d a b : BitVec 5) (w : Bool) (s : State) : Out := .next (s.intOp w d a b remN)
def execRemu (d a b : BitVec 5) (w : Bool) (s : State) : Out := .next (s.intOp w d a b fun _ x y => remuN x y)
def execMin (d a b : BitVec 5) (w : Bool) (s : State) : Out := .next (s.intOp w d a b fun n x y => if sx n y < sx n x then y else x)
def execMax (d a b : BitVec 5) (w : Bool) (s : State) : Out := .next (s.intOp w d a b fun n x y => if sx n x < sx n y then y else x)
def execMinu (d a b : BitVec 5) (w : Bool) (s : State) : Out := .next (s.intOp w d a b fun _ x y => if y < x then y else x)
def execMaxu (d a b : BitVec 5) (w : Bool) (s : State) : Out := .next (s.intOp w d a b fun _ x y => if x < y then y else x)
def execSlt (d a b : BitVec 5) (w : Bool) (s : State) : Out := .next (s.intOp w d a b fun n x y => if sx n x < sx n y then 1 else 0)
def execSltu (d a b : BitVec 5) (w : Bool) (s : State) : Out := .next (s.intOp w d a b fun _ x y => if x < y then 1 else 0)
def execClz (d a : BitVec 5) (w : Bool) (s : State) : Out := .next (s.intOp w d a 0 fun n x _ => clzN n x)
def execCtz (d a : BitVec 5) (w : Bool) (s : State) : Out := .next (s.intOp w d a 0 fun n x _ => ctzN n x)
def execPopc (d a : BitVec 5) (w : Bool) (s : State) : Out := .next (s.intOp w d a 0 fun n x _ => popcN n x)
def execSext (d a b : BitVec 5) (w : Bool) (s : State) : Out := .next (s.intOp w d a b fun n x y => bitsOf n (sx (extW n y) x))
def execZext (d a b : BitVec 5) (w : Bool) (s : State) : Out := .next (s.intOp w d a b fun n x y => x % 2^(extW n y))
def execBrev (d a : BitVec 5) (w : Bool) (s : State) : Out := .next (s.intOp w d a 0 fun n x _ => brevN n x)

/-! ## Immediate forms (R146 to R150) -/

/-- An instruction that writes one x register and completes. -/
def State.setX (s : State) (d : BitVec 5) (v : Word) : State := s.retire 4 (s.ctx.setX d v)

def execAddi (d a : BitVec 5) (i : BitVec 15) (s : State) : Out := .next (s.setX d (s.ctx.getX a + imm i))
def execAndi (d a : BitVec 5) (i : BitVec 15) (s : State) : Out := .next (s.setX d (s.ctx.getX a &&& imm i))
def execOri (d a : BitVec 5) (i : BitVec 15) (s : State) : Out := .next (s.setX d (s.ctx.getX a ||| imm i))
def execXori (d a : BitVec 5) (i : BitVec 15) (s : State) : Out := .next (s.setX d (s.ctx.getX a ^^^ imm i))
def execSlli (d a : BitVec 5) (n : BitVec 6) (s : State) : Out := .next (s.setX d (s.ctx.getX a <<< n.toNat))
def execSrli (d a : BitVec 5) (n : BitVec 6) (s : State) : Out := .next (s.setX d (s.ctx.getX a >>> n.toNat))
def execSrai (d a : BitVec 5) (n : BitVec 6) (s : State) : Out := .next (s.setX d ((s.ctx.getX a).sshiftRight n.toNat))
def execSlti (d a : BitVec 5) (i : BitVec 15) (s : State) : Out :=
  .next (s.setX d (if (s.ctx.getX a).slt (imm i) then 1 else 0))
def execLui (d : BitVec 5) (i : BitVec 20) (s : State) : Out := .next (s.setX d (imm i <<< 15))
def execAddpc (d : BitVec 5) (i : BitVec 20) (s : State) : Out := .next (s.setX d (s.ctx.pc + disp i))

/-! ## Bit fields and selection (R151, R152) -/

def execBfx (d a : BitVec 5) (sgn : Bool) (w l : BitVec 6) (s : State) : Out :=
  if 64 < l.toNat + (w.toNat + 1) then .next (s.illegal (.bfx d a sgn w l) cILL_FIELD)
  else
    let f := bits (s.ctx.getX a).toNat l.toNat (w.toNat + 1)
    .next (s.setX d (if sgn then sx64 (w.toNat + 1) f else BitVec.ofNat 64 f))

def execBfi (d a : BitVec 5) (w l : BitVec 6) (s : State) : Out :=
  if 64 < l.toNat + (w.toNat + 1) then .next (s.illegal (.bfi d a w l) cILL_FIELD)
  else
    let m : Word := BitVec.ofNat 64 ((2^(w.toNat + 1) - 1) * 2^l.toNat)
    .next (s.setX d ((s.ctx.getX d &&& ~~~m) ||| ((s.ctx.getX a <<< l.toNat) &&& m)))

/-- R152: the condition k on x[rc]. -/
def selCond (k : BitVec 5) (v : Word) : Bool :=
  match k.toNat with
  | 0 => v != 0
  | 1 => v == 0
  | 2 => v.msb
  | _ => !v.msb

def execSel (d a b c k : BitVec 5) (s : State) : Out :=
  .next (s.setX d (if selCond k (s.ctx.getX c) then s.ctx.getX a else s.ctx.getX b))

/-! ## Logical coordinates (R153 to R157) -/

/-- R154: the GLOBAL address of a coordinate word and a vault offset. -/
def globalAddr (coord off : Nat) : Word :=
  BitVec.ofNat 64 (2 * 2^60 + bits coord 18 3 * 2^56 + bits coord 9 9 * 2^47 + bits coord 0 9 * 2^38 + off % 2^19)

def execGaddr (d a b : BitVec 5) (s : State) : Out := .next (s.setX d (globalAddr (s.ctx.getX a).toNat (s.ctx.getX b).toNat))

/-- R155: an address decoded for a core with coordinate word `self`. -/
def gcoord (self : Nat) (ea : Word) : Word :=
  if space ea = 2 then
    BitVec.ofNat 64 (bits ea.toNat 56 3 * 2^18 + bits ea.toNat 47 9 * 2^9 + bits ea.toNat 38 9 + vaultOff ea * 2^21)
  else if space ea = 1 then BitVec.ofNat 64 (self + vaultOff ea * 2^21)
  else allOnes

def execGcoord (d a : BitVec 5) (s : State) : Out := .next (s.setX d (gcoord (s.coord s.cur.1) (s.ctx.getX a)))

/-- R156: the coordinate word of a neighbour within columns x0 to x0 + w − 1, or nothing. -/
def neighbour (x0 w coord dir : Nat) : Option Nat :=
  let x := bits coord 0 9
  let y := bits coord 9 9
  let p := bits coord 18 3
  let ok (x y : Nat) : Option Nat := if x0 ≤ x && x < x0 + w && y < 512 then some (mkCore p y x) else none
  match dir with
  | 0 => if y = 0 then none else ok x (y - 1)
  | 1 => ok (x + 1) y
  | 2 => ok x (y + 1)
  | _ => if x = 0 then none else ok (x - 1) y

def execGnbr (d a n : BitVec 5) (s : State) : Out :=
  .next (s.setX d (match neighbour (s.x0 s.cur.1) (s.width s.cur.1) (s.ctx.getX a).toNat n.toNat with
    | some c => BitVec.ofNat 64 c
    | none => allOnes))

def execGself (d : BitVec 5) (s : State) : Out :=
  .next (s.setX d (BitVec.ofNat 64 (s.coord s.cur.1 + s.x0 s.cur.1 * 2^21 + s.width s.cur.1 * 2^30)))

/-! ## Branches and jumps (R158 to R161) -/

/-- R158: a branch: taken to PC + 4 × disp, else on to PC + 4. -/
def State.branch (s : State) (taken : Bool) (d : BitVec 15) : State :=
  if taken then s.putCtx (s.ctx.jump (s.ctx.pc + disp d)) else s.retire 4 s.ctx

def execBeq (a b : BitVec 5) (d : BitVec 15) (s : State) : Out := .next (s.branch (s.ctx.getX a == s.ctx.getX b) d)
def execBne (a b : BitVec 5) (d : BitVec 15) (s : State) : Out := .next (s.branch (s.ctx.getX a != s.ctx.getX b) d)
def execBlt (a b : BitVec 5) (d : BitVec 15) (s : State) : Out := .next (s.branch ((s.ctx.getX a).slt (s.ctx.getX b)) d)
def execBge (a b : BitVec 5) (d : BitVec 15) (s : State) : Out := .next (s.branch (!(s.ctx.getX a).slt (s.ctx.getX b)) d)
def execBltu (a b : BitVec 5) (d : BitVec 15) (s : State) : Out := .next (s.branch ((s.ctx.getX a).ult (s.ctx.getX b)) d)
def execBgeu (a b : BitVec 5) (d : BitVec 15) (s : State) : Out := .next (s.branch (!(s.ctx.getX a).ult (s.ctx.getX b)) d)

def execJ (d : BitVec 25) (s : State) : Out := .next (s.putCtx (s.ctx.jump (s.ctx.pc + disp d)))

def execJal (d : BitVec 25) (s : State) : Out := .next (s.putCtx ((s.ctx.setX 1 (s.ctx.pc + 4)).call (s.ctx.pc + disp d)))

def execJalr (d a : BitVec 5) (i : BitVec 15) (s : State) : Out :=
  .next (s.putCtx ((s.ctx.setX d (s.ctx.pc + 4)).call (s.ctx.getX a + imm i)))

/-! ## Hardware loops (R162 to R167) -/

/-- R163: LEN of 0 or above 16,382 traps at step 13. -/
def badLen (len : BitVec 16) : Bool := len == 0 || 16382 < len.toNat

def execLoop (n a : BitVec 5) (len : BitVec 16) (s : State) : Out :=
  if badLen len then .next (s.illegal (.loop n a len) cILL_FIELD)
  else .next (s.putCtx (s.ctx.startLoop n.toNat (s.ctx.getX a) len.toNat))

/-- R301: HSET takes effect in program order with the strand's receives: what the strand's queued HSETs leave a tag's binding at. -/
def Strand.willBind (x : Strand) (tag : BitVec 6) (now : Bool) : Bool :=
  x.sq.foldl (fun b e => match e.instr with
    | .hset _ _ _ t => if t == tag then true else b
    | .hsetClr t => if t == tag then false else b
    | _ => b) now

/-- A tag's message is reserved to S mode, or its tag is bound: the trap of a receive at issue (R166, R290, R298), as a cause of the
message class. -/
def State.tagTrap (s : State) (tag : BitVec 6) (bound : Bool) : Option Nat :=
  if tag == 63 && !s.ctx.priv then some 0
  else if bound && (s.strand s.cur.1 s.cur.2).willBind tag (vget s.me.bindings tag.toNat).isSome then some 1
  else none

/-- R166: LOOPQ. Its LEN is checked before its tag (log 110). -/
def execLoopq (n a b : BitVec 5) (len : BitVec 16) (tag : BitVec 6) (s : State) : Out :=
  if badLen len then .next (s.illegal (.loopq n a b len tag) cILL_FIELD)
  else match s.tagTrap tag true with
    | some c => .next (s.trap (msgCause c 0) 0)
    | none => .next (s.await (.loopq n a b len tag))

end Sys2Proof.Machine
end

