-- ==== Sys2Proof/Machine/ScalarFp.lean ====
section
/-!
DEFINITION. Scalar floating point (R168 to R173) with the exact-pair forms (R188 to R191).
-/
namespace Sys2Proof.Machine
open Sys2Proof.Num

/-- R168: the format of a precision code. -/
def precF (p : BitVec 2) : Fmt :=
  match p.toNat with
  | 0 => F16
  | 1 => F32
  | 2 => F64
  | _ => BF16

/-- R168: an operand's bits. -/
def opBits (f : Fmt) (v : Word) : Nat := v.toNat % 2^f.width

/-- R169, R170: a rounding operation on two scalars. -/
def State.fpOp (s : State) (d a b : BitVec 5) (r : BitVec 3) (p : BitVec 2) (f : Fmt → Nat → Nat → Nat → Nat → Res) : State :=
  let rc := rcOf s.ctx.mode r
  let (v, e) := f (precF p) rc s.rnd0 (opBits (precF p) (s.ctx.getX a)) (opBits (precF p) (s.ctx.getX b))
  s.complete (precF p).grp (rc == rcSR) e [] (s.ctx.setX d (BitVec.ofNat 64 v))

/-- R171, R191: the .X form of an operation: the pair (rounded result, error term). -/
def State.fpPair (s : State) (d a b : BitVec 5) (r : BitVec 3) (p : BitVec 2) (op : Nat → Val → Val → XR) : State :=
  let rc := rcOf s.ctx.mode r
  let (h, l, e) := pairOp (precF p) rc (satOf s.ctx.mode) s.rnd0 (op rc) (opBits (precF p) (s.ctx.getX a)) (opBits (precF p) (s.ctx.getX b))
  s.complete (precF p).grp (rc == rcSR) e [] (s.ctx.setXPair d (BitVec.ofNat 64 h) (BitVec.ofNat 64 l))

def xSub (rc : Nat) (a b : Val) : XR := xAdd rc a b.negate

def execFadd (d a b : BitVec 5) (r : BitVec 3) (x : Bool) (p : BitVec 2) (s : State) : Out :=
  .next (if x then s.fpPair d a b r p xAdd else s.fpOp d a b r p fAdd)
def execFsub (d a b : BitVec 5) (r : BitVec 3) (x : Bool) (p : BitVec 2) (s : State) : Out :=
  .next (if x then s.fpPair d a b r p xSub else s.fpOp d a b r p fSub)
def execFmul (d a b : BitVec 5) (r : BitVec 3) (x : Bool) (p : BitVec 2) (s : State) : Out :=
  .next (if x then s.fpPair d a b r p (fun _ => xMul) else s.fpOp d a b r p fMul)
def execFdiv (d a b : BitVec 5) (r : BitVec 3) (p : BitVec 2) (s : State) : Out := .next (s.fpOp d a b r p fDiv)
def execFsqrt (d a : BitVec 5) (r : BitVec 3) (p : BitVec 2) (s : State) : Out :=
  .next (s.fpOp d a 0 r p fun f rc rnd x _ => fSqrt f rc rnd x)

/-- FMIN, FMAX, FCMP and FCLASS do not round (R71). -/
def State.fpPlain (s : State) (d a b : BitVec 5) (p : BitVec 2) (f : Fmt → Nat → Nat → Res) : State :=
  let (v, e) := f (precF p) (opBits (precF p) (s.ctx.getX a)) (opBits (precF p) (s.ctx.getX b))
  s.complete (precF p).grp false e [] (s.ctx.setX d (BitVec.ofNat 64 v))

def execFmin (d a b : BitVec 5) (p : BitVec 2) (s : State) : Out := .next (s.fpPlain d a b p fun f x y => fMinMax f false x y)
def execFmax (d a b : BitVec 5) (p : BitVec 2) (s : State) : Out := .next (s.fpPlain d a b p fun f x y => fMinMax f true x y)
def execFcmp (d a b : BitVec 5) (p : BitVec 2) (s : State) : Out :=
  .next (s.fpPlain d a b p fun f x y => (2^(fCmp f x y).1, (fCmp f x y).2))
def execFclass (d a : BitVec 5) (p : BitVec 2) (s : State) : Out :=
  .next (s.fpPlain d a 0 p fun f x _ => (2^(fClass f x), excNone))

def execFma (d a b c : BitVec 5) (r : BitVec 3) (p : BitVec 2) (s : State) : Out :=
  .next (s.fpOp d a b r p fun f rc rnd x y => fFma f rc rnd false x y (opBits f (s.ctx.getX c)))

/-- R173: the type codes of FCVT: a float format or an integer type. -/
def cvtF (t : BitVec 3) : Option Fmt :=
  match t.toNat with
  | 0 => some F16
  | 1 => some F32
  | 2 => some F64
  | 3 => some BF16
  | _ => none

def cvtI (t : BitVec 3) : ITy :=
  match t.toNat with
  | 4 => ⟨32, true⟩
  | 5 => ⟨32, false⟩
  | 6 => ⟨64, true⟩
  | _ => ⟨64, false⟩

/-- R173: a conversion's result and exceptions. -/
def cvt (frm tt : BitVec 3) (rc : Nat) (sat : Bool) (rnd : Nat) (v : Word) : Word × Exc :=
  match cvtF frm, cvtF tt with
  | some f, some g =>
    let (r, e) := if frm = tt then integral f rc rnd (opBits f v) else convert g f rc sat rnd (opBits f v)
    (BitVec.ofNat 64 r, e)
  | none, some g =>
    let (r, e) := ofITy g (cvtI frm) rc sat rnd v.toNat
    (BitVec.ofNat 64 r, e)
  | some f, none =>
    let (r, e) := toITy f (cvtI tt) rc rnd (opBits f v)
    (if tt = 4 then sx64 32 r else BitVec.ofNat 64 r, e)
  | none, none => (v, excNone)

def execFcvt (d a : BitVec 5) (r f t : BitVec 3) (s : State) : Out :=
  let rc := rcOf s.ctx.mode r
  let (v, e) := cvt f t rc (satOf s.ctx.mode) s.rnd0 (s.ctx.getX a)
  .next (s.complete (match cvtF t with | some g => g.grp | none => 7) (rc == rcSR) e [] (s.ctx.setX d v))

end Sys2Proof.Machine
end

