-- ==== Sys2Proof/Machine/Vector.lean ====
section
/-!
DEFINITION. The vector unit and predicates (R175 to R186).
-/
namespace Sys2Proof.Machine
open Sys2Proof.Num

/-- R177: a register built of element results, each inactive element keeping the old bits. -/
def vMerge (w : Nat) (g : PReg) (old : VReg) (r : Nat → Nat) : VReg :=
  BitVec.ofNat 512 (packElems w ((List.range (512 / w)).map fun e => if active g (laneOf w e) then r e else elem old.toNat w e))

/-- R177: lanes and exceptions of the active elements. -/
def vExcs (w : Nat) (g : PReg) (x : Nat → Exc) : List (Nat × Exc) :=
  ((List.range (512 / w)).filter fun e => active g (laneOf w e)).map fun e => (laneOf w e, x e)

/-- R177, R178: a guarded vector operation that writes element results `r e` of type t into vd, raising what its active elements raise. -/
def State.vecOp (s : State) (d : BitVec 5) (g t : BitVec 3) (sr : Bool) (f : Nat → Res) : State :=
  let w := typeW t
  let p := s.ctx.getP g
  let rs := (List.range (512 / w)).map f
  let get (e : Nat) : Res := rs.getD e (0, excNone)
  let xs := vExcs w p fun e => (get e).2
  s.complete (typeGrp t) sr (excAll xs) xs (s.ctx.setV d (vMerge w p (s.ctx.getV d) fun e => (get e).1))

/-- Element e of a register under a type. -/
def Ctx.el (c : Ctx) (t : BitVec 3) (r : BitVec 5) (e : Nat) : Nat := elem (c.getV r).toNat (typeW t) e

/-- R178: the random word of element e of a vector instruction. -/
def State.rndV (s : State) (e : Nat) : Nat := rndWord s.ctx.seed s.ctx.stepc e 0 (s.c3 s.cur.1)

/-- R178: the rounding code of the vector unit. -/
def State.rcV (s : State) : Nat := bits s.ctx.mode.toNat 0 3

/-- R180: an operation given for integers (on unsigned readings, wrapping) and for floats (rounded). -/
def State.vArith (s : State) (d a b : BitVec 5) (g t : BitVec 3) (rounds : Bool) (fi : ITy → Nat → Nat → Nat → Int)
    (ff : Fmt → Nat → Nat → Nat → Nat → Nat → Res) : State :=
  let rc := s.rcV
  let x (e : Nat) := s.ctx.el t a e
  let y (e : Nat) := s.ctx.el t b e
  let z (e : Nat) := s.ctx.el t d e
  match typeF t with
  | some f => s.vecOp d g t (rounds && rc == rcSR) fun e => ff f rc (s.rndV e) (x e) (y e) (z e)
  | none => s.vecOp d g t false fun e => (bitsOf (typeW t) (fi (typeI t) (x e) (y e) (z e)), excNone)

def execVadd (d a b : BitVec 5) (g t : BitVec 3) (s : State) : Out :=
  .next (s.vArith d a b g t true (fun _ x y _ => x + y) fun f rc rnd x y _ => fAdd f rc rnd x y)
def execVsub (d a b : BitVec 5) (g t : BitVec 3) (s : State) : Out :=
  .next (s.vArith d a b g t true (fun _ x y _ => (x : Int) - y) fun f rc rnd x y _ => fSub f rc rnd x y)
def execVmul (d a b : BitVec 5) (g t : BitVec 3) (s : State) : Out :=
  .next (s.vArith d a b g t true (fun _ x y _ => x * y) fun f rc rnd x y _ => fMul f rc rnd x y)
def execVma (d a b : BitVec 5) (g t : BitVec 3) (s : State) : Out :=
  .next (s.vArith d a b g t true (fun _ x y z => x * y + z) fun f rc rnd x y z => fFma f rc rnd false x y z)
def execVms (d a b : BitVec 5) (g t : BitVec 3) (s : State) : Out :=
  .next (s.vArith d a b g t true (fun _ x y z => (z : Int) - x * y) fun f rc rnd x y z => fFma f rc rnd true x y z)
def execVmin (d a b : BitVec 5) (g t : BitVec 3) (s : State) : Out :=
  .next (s.vArith d a b g t false (fun i x y _ => if i.value y < i.value x then i.value y else i.value x)
    fun f _ _ x y _ => fMinMax f false x y)
def execVmax (d a b : BitVec 5) (g t : BitVec 3) (s : State) : Out :=
  .next (s.vArith d a b g t false (fun i x y _ => if i.value x < i.value y then i.value y else i.value x)
    fun f _ _ x y _ => fMinMax f true x y)
def execVabs (d a : BitVec 5) (g t : BitVec 3) (s : State) : Out :=
  .next (s.vArith d a a g t false (fun i x _ _ => ((i.value x).natAbs : Int)) fun _ _ _ x _ _ => (x % 2^(typeW t - 1), excNone))
def execVneg (d a : BitVec 5) (g t : BitVec 3) (s : State) : Out :=
  .next (s.vArith d a a g t false (fun _ x _ _ => -(x : Int)) fun _ _ _ x _ _ => (x ^^^ 2^(typeW t - 1), excNone))

/-- R182: a guarded operation on 32-bit lanes. -/
def State.vLane (s : State) (d a b : BitVec 5) (g : BitVec 3) (f : Nat → Nat → Nat) : State :=
  s.retire 4 (s.ctx.setV d (vMerge 32 (s.ctx.getP g) (s.ctx.getV d) fun e => f (s.ctx.el 1 a e) (s.ctx.el 1 b e)))

def execVand (d a b : BitVec 5) (g : BitVec 3) (s : State) : Out := .next (s.vLane d a b g fun x y => x &&& y)
def execVor (d a b : BitVec 5) (g : BitVec 3) (s : State) : Out := .next (s.vLane d a b g fun x y => x ||| y)
def execVxor (d a b : BitVec 5) (g : BitVec 3) (s : State) : Out := .next (s.vLane d a b g fun x y => x ^^^ y)

def execVshl (d a b : BitVec 5) (g t : BitVec 3) (s : State) : Out :=
  .next (s.vecOp d g t false fun e =>
    (if typeW t ≤ s.ctx.el t b e then 0 else s.ctx.el t a e * 2^(s.ctx.el t b e) % 2^(typeW t), excNone))

/-- R182: a right shift, arithmetic for I types and logical for N types. -/
def shrEl (t : ITy) (a n : Nat) : Nat :=
  if t.signed then bitsOf t.w (t.value a / ((2^(if n < t.w - 1 then n else t.w - 1) : Nat) : Int))
  else if t.w ≤ n then 0 else a / 2^n

def execVshr (d a b : BitVec 5) (g t : BitVec 3) (s : State) : Out :=
  .next (s.vecOp d g t false fun e => (shrEl (typeI t) (s.ctx.el t a e) (s.ctx.el t b e), excNone))

/-- R183: a condition on two elements, with NV for a signalling NaN. -/
def cmpHolds (c : BitVec 2) (t : BitVec 3) (x y : Nat) : Bool × Exc :=
  match typeF t with
  | some f =>
    let (r, e) := fCmp f x y
    (match c.toNat with | 0 => r == 0 | 1 => r != 0 | 2 => r == 1 | _ => r == 0 || r == 1, e)
  | none =>
    let i := typeI t
    (match c.toNat with
      | 0 => x == y | 1 => x != y | 2 => decide (i.value x < i.value y) | _ => decide (i.value x ≤ i.value y), excNone)

/-- R186: a predicate with its guarded bits replaced. -/
def pMerge (g old new : PReg) : PReg := (old &&& ~~~g) ||| (new &&& g)

/-- A predicate from its bits. -/
def pOf (f : Nat → Bool) : PReg := BitVec.ofNat 16 ((List.range 16).foldl (fun a k => if f k then a + 2^k else a) 0)

def execVcmp (c : BitVec 2) (p : BitVec 3) (a b : BitVec 5) (g t : BitVec 3) (s : State) : Out :=
  let w := typeW t
  let gp := s.ctx.getP g
  let r (e : Nat) := cmpHolds c t (s.ctx.el t a e) (s.ctx.el t b e)
  let lane (k : Nat) : Bool := (List.range (32 / w)).all fun j => (r (k * (32 / w) + j)).1
  let xs := vExcs w gp fun e => (r e).2
  .next (s.complete (typeGrp t) false (excAll xs) xs (s.ctx.setP p (pMerge gp (s.ctx.getP p) (pOf lane))))

def execVsel (d a b : BitVec 5) (p : BitVec 3) (s : State) : Out :=
  .next (s.retire 4 (s.ctx.setV d (vMerge 32 (s.ctx.getP p) (s.ctx.getV b) fun e => s.ctx.el 1 a e)))

/-! ## Moves and permutes (R184) -/

/-- A guarded move of element values that raises nothing. -/
def State.vMove (s : State) (d : BitVec 5) (g t : BitVec 3) (r : Nat → Nat) : State :=
  s.retire 4 (s.ctx.setV d (vMerge (typeW t) (s.ctx.getP g) (s.ctx.getV d) r))

def execVmov (d a : BitVec 5) (g : BitVec 3) (s : State) : Out := .next (s.vMove d g 1 fun e => s.ctx.el 1 a e)
def execVbcast (d b : BitVec 5) (g t : BitVec 3) (s : State) : Out := .next (s.vMove d g t fun _ => (s.ctx.getX b).toNat)
def execVperm (d a b : BitVec 5) (g t : BitVec 3) (s : State) : Out :=
  .next (s.vMove d g t fun e => if s.ctx.el t b e < typeN t then s.ctx.el t a (s.ctx.el t b e) else 0)
def execVshuf (d a b : BitVec 5) (g t : BitVec 3) (s : State) : Out :=
  .next (s.vMove d g t fun e =>
    let i := s.ctx.el t d e
    if i < typeN t then s.ctx.el t a i else if i < 2 * typeN t then s.ctx.el t b (i - typeN t) else 0)
def execVslide (d a b : BitVec 5) (g t : BitVec 3) (s : State) : Out :=
  .next (s.vMove d g t fun e =>
    let i : Int := (e : Int) + (s.ctx.getX b).toInt
    if 0 ≤ i && i < (typeN t : Int) then s.ctx.el t a i.toNat else 0)
def execVext (d a b : BitVec 5) (t : BitVec 3) (s : State) : Out :=
  let i := (s.ctx.getX b).toNat
  let v := if i < typeN t then s.ctx.el t a i else 0
  .next (s.setX d (if (typeF t).isNone && (typeI t).signed then sx64 (typeW t) v else BitVec.ofNat 64 v))
def execVins (d a b : BitVec 5) (g t : BitVec 3) (s : State) : Out :=
  let i := (s.ctx.getX a).toNat
  .next (s.retire 4 (s.ctx.setV d (vMerge (typeW t) (s.ctx.getP g) (s.ctx.getV d) fun e =>
    if e = i then (s.ctx.getX b).toNat else s.ctx.el t d e)))

/-! ## Reciprocal, root, exponent, logarithm (R185) -/

/-- R185: a correctly rounded function of each element. -/
def State.vFun (s : State) (d a : BitVec 5) (g t : BitVec 3) (op : Val → XR) : State :=
  s.vecOp d g t (s.rcV == rcSR) fun e =>
    match typeF t with
    | some f => op1 f s.rcV false (s.rndV e) op (s.ctx.el t a e)
    | none => (0, excNone)

def execVrcp (d a : BitVec 5) (g t : BitVec 3) (s : State) : Out := .next (s.vFun d a g t xRcp)
def execVrsq (d a : BitVec 5) (g t : BitVec 3) (s : State) : Out := .next (s.vFun d a g t xRsqrt)
def execVexp2 (d a : BitVec 5) (g t : BitVec 3) (s : State) : Out := .next (s.vFun d a g t xExp2)
def execVlog2 (d a : BitVec 5) (g t : BitVec 3) (s : State) : Out := .next (s.vFun d a g t xLog2)

/-! ## Predicates (R186) -/

/-- A predicate register named in a 5-bit field (R74: below 8). -/
def pReg (r : BitVec 5) : BitVec 3 := r.setWidth 3

/-- R186: a guarded write of a predicate. -/
def State.setP (s : State) (d : BitVec 5) (g : BitVec 3) (v : PReg) : State :=
  s.retire 4 (s.ctx.setP (pReg d) (pMerge (s.ctx.getP g) (s.ctx.getP (pReg d)) v))

def execPand (d a b : BitVec 5) (g : BitVec 3) (s : State) : Out := .next (s.setP d g (s.ctx.getP (pReg a) &&& s.ctx.getP (pReg b)))
def execPor (d a b : BitVec 5) (g : BitVec 3) (s : State) : Out := .next (s.setP d g (s.ctx.getP (pReg a) ||| s.ctx.getP (pReg b)))
def execPxor (d a b : BitVec 5) (g : BitVec 3) (s : State) : Out := .next (s.setP d g (s.ctx.getP (pReg a) ^^^ s.ctx.getP (pReg b)))
def execPnot (d a : BitVec 5) (g : BitVec 3) (s : State) : Out := .next (s.setP d g (~~~(s.ctx.getP (pReg a))))
def execPset (d a : BitVec 5) (g : BitVec 3) (s : State) : Out := .next (s.setP d g ((s.ctx.getX a).setWidth 16))
def execPsetN (d a : BitVec 5) (g : BitVec 3) (s : State) : Out :=
  let m := if (s.ctx.getX a).toNat < 16 then (s.ctx.getX a).toNat else 16
  .next (s.setP d g (BitVec.ofNat 16 (2^m - 1)))
def execPcnt (d a : BitVec 5) (g : BitVec 3) (s : State) : Out :=
  .next (s.setX d (BitVec.ofNat 64 (popcN 16 (s.ctx.getP (pReg a) &&& s.ctx.getP g).toNat)))
def execPfirst (d a : BitVec 5) (g : BitVec 3) (s : State) : Out :=
  .next (s.setX d (BitVec.ofNat 64 (ctzN 16 (s.ctx.getP (pReg a) &&& s.ctx.getP g).toNat)))

end Sys2Proof.Machine
end

