-- ==== Sys2Proof/Machine/Exact.lean ====
section
/-!
DEFINITION. Exact pairs and compensated arithmetic (R188 to R201): the pair forms, double-word arithmetic and the fixed-tree reductions.
-/
namespace Sys2Proof.Machine
open Sys2Proof.Num

/-- The float format of a type code; only F32 and F16 (and BF16 on VRED) reach it. -/
def typeFmt (t : BitVec 3) : Fmt := (typeF t).getD F32

/-- R192, R194: a guarded vector operation that writes the pair (vd, vd + 1). -/
def State.vecPair (s : State) (d : BitVec 5) (g t : BitVec 3) (sr : Bool) (f : Nat → Nat × Nat × Exc) : State :=
  let w := typeW t
  let p := s.ctx.getP g
  let rs := (List.range (512 / w)).map f
  let get (e : Nat) := rs.getD e (0, 0, excNone)
  let xs := vExcs w p fun e => (get e).2.2
  s.complete (typeGrp t) sr (excAll xs) xs (s.ctx.setVPair d (vMerge w p (s.ctx.getV d) fun e => (get e).1)
    (vMerge w p (s.ctx.getV (d + 1)) fun e => (get e).2.1))

/-- R194: an exact sum, difference or product. -/
def State.vExact (s : State) (d a b : BitVec 5) (g t : BitVec 3) (op : Nat → Val → Val → XR) : State :=
  s.vecPair d g t (s.rcV == rcSR) fun e =>
    pairOp (typeFmt t) s.rcV (satOf s.ctx.mode) (s.rndV e) (op s.rcV) (s.ctx.el t a e) (s.ctx.el t b e)

def execVaddX (d a b : BitVec 5) (g t : BitVec 3) (s : State) : Out := .next (s.vExact d a b g t xAdd)
def execVsubX (d a b : BitVec 5) (g t : BitVec 3) (s : State) : Out := .next (s.vExact d a b g t xSub)
def execVmulX (d a b : BitVec 5) (g t : BitVec 3) (s : State) : Out := .next (s.vExact d a b g t fun _ => xMul)

/-! ## Double words (R195 to R198) -/

/-- R195: Rn; an infinite result stops the algorithm with its code (R197). -/
def dwRn (f : Fmt) (x : XR) : Except Nat Nat :=
  let r := (finish f rcRNE false 0 x).1
  match unpack f r with
  | .inf _ => .error r
  | _ => .ok r

def dwAdd (f : Fmt) (a b : Nat) : XR := xAdd rcRNE (unpack f a) (unpack f b)
def dwMul (f : Fmt) (a b : Nat) : XR := xMul (unpack f a) (unpack f b)

/-- R195: TS and TP: the rounded result of an exact value and its error term, with PAIR_INEXACT where the term is not exact. -/
def dwTwo (f : Fmt) (x : XR) : Except Nat (Nat × Nat × Exc) :=
  match dwRn f x with
  | .error r => .error r
  | .ok h =>
    match x with
    | .num n m e =>
      let (l, y) := errTerm f n m e h
      .ok (h, l, y)
    | _ => .ok (h, 0, excNone)

/-- R196: the steps of VDWADD. -/
def dwAddSteps (f : Fmt) (xh xl yh yl : Nat) : Except Nat (Nat × Nat × Exc) := do
  let (sh, sl, e1) ← dwTwo f (dwAdd f xh yh)
  let (th, tl, e2) ← dwTwo f (dwAdd f xl yl)
  let c ← dwRn f (dwAdd f sl th)
  let (vh, vl, e3) ← dwTwo f (dwAdd f sh c)
  let w ← dwRn f (dwAdd f tl vl)
  let (zh, zl, e4) ← dwTwo f (dwAdd f vh w)
  return (zh, zl, e1 ||| e2 ||| e3 ||| e4)

/-- R196: the steps of VDWMUL. -/
def dwMulSteps (f : Fmt) (xh xl yh yl : Nat) : Except Nat (Nat × Nat × Exc) := do
  let (ch, c1, e1) ← dwTwo f (dwMul f xh yh)
  let t ← dwRn f (dwMul f xl yh)
  let c2 ← dwRn f (xFma rcRNE (unpack f xh) (unpack f yl) (unpack f t))
  let c3 ← dwRn f (dwAdd f c1 c2)
  let (zh, zl, e2) ← dwTwo f (dwAdd f ch c3)
  return (zh, zl, e1 ||| e2)

/-- Two exact values differ. -/
def valNe (a b : Val) : Bool := lessVal a b || lessVal b a

/-- R198: NX and UF of a double-word result against the exact one. -/
def dwFlags (f : Fmt) (zh zl : Nat) (exact : Val) : Exc :=
  if valNe (dwAdd f zh zl).toVal exact then
    excNX ||| (match unpack f zh with
      | .num _ m _ => if m ≠ 0 && zh % 2^(f.width - 1) < 2^f.fw then excUF else excNone
      | _ => excNone)
  else excNone

/-- R197: the quiet NaN beside an overflowed half. -/
def pairNaN (f : Fmt) : Nat := f.infCode + 2^(f.fw - 1) + 0xF0

/-- R197 step 3 and R198: the end of a double-word algorithm. -/
def dwEnd (f : Fmt) (exact : Val) : Except Nat (Nat × Nat × Exc) → Nat × Nat × Exc
  | .error r => (r, pairNaN f, excOF ||| excNX ||| excPair)
  | .ok (zh, zl, e) => (zh, zl, e ||| dwFlags f zh zl exact)

/-- R197: a double-word operation with special operands decided first: NaN and poison over the operands in order, then infinities by the
operation `op` on the pair values. -/
def dwOp (f : Fmt) (ops : List Nat) (op : XR) (steps : Except Nat (Nat × Nat × Exc)) : Nat × Nat × Exc :=
  let vs := ops.map (unpack f)
  match nanRes f vs with
  | some (r, x) => (r, r, x)
  | none =>
    if vs.any Val.isInf then
      match op with
      | .inf n _ => (f.sgn n + f.infCode, 0, excNone)
      | _ => (f.defNaN, f.defNaN, excInv)
    else dwEnd f op.toVal steps

/-- The value of a pair over the extended reals, and an operation on two of them. -/
def xBind (a b : XR) (op : Val → Val → XR) : XR :=
  match a, b with
  | .inv, _ => .inv
  | _, .inv => .inv
  | a, b => op a.toVal b.toVal

def execVdwadd (d a b : BitVec 5) (g t : BitVec 3) (s : State) : Out :=
  let f := typeFmt t
  .next (s.vecPair d g t false fun e =>
    let xh := s.ctx.el t a e; let xl := s.ctx.el t (a + 1) e; let yh := s.ctx.el t b e; let yl := s.ctx.el t (b + 1) e
    dwOp f [xh, xl, yh, yl] (xBind (dwAdd f xh xl) (dwAdd f yh yl) (xAdd rcRNE)) (dwAddSteps f xh xl yh yl))

def execVdwmul (d a b : BitVec 5) (g t : BitVec 3) (s : State) : Out :=
  let f := typeFmt t
  .next (s.vecPair d g t false fun e =>
    let xh := s.ctx.el t a e; let xl := s.ctx.el t (a + 1) e; let yh := s.ctx.el t b e; let yl := s.ctx.el t (b + 1) e
    dwOp f [xh, xl, yh, yl] (xBind (dwAdd f xh xl) (dwAdd f yh yl) xMul) (dwMulSteps f xh xl yh yl))

def execVdwnorm (d a : BitVec 5) (g t : BitVec 3) (s : State) : Out :=
  let f := typeFmt t
  .next (s.vecPair d g t false fun e =>
    let xh := s.ctx.el t a e; let xl := s.ctx.el t (a + 1) e
    dwOp f [xh, xl] (dwAdd f xh xl) (dwTwo f (dwAdd f xh xl)))

/-! ## Reductions over a fixed tree (R199 to R201) -/

/-- R200: two nodes of VSUMX. -/
def dwComb (f : Fmt) (a b : Nat × Nat) : Except Nat (Nat × Nat × Exc) := do
  let (h, e, e1) ← dwTwo f (dwAdd f a.1 b.1)
  let t ← dwRn f (dwAdd f a.2 b.2)
  let u ← dwRn f (dwAdd f e t)
  let (zh, zl, e2) ← dwTwo f (dwAdd f h u)
  return (zh, zl, e1 ||| e2)

/-- R199: one level of the tree, pairs in ascending order, the lower index on the left. Of several nodes of a level that overflow the one of
lowest index is the first (R200, log 125). -/
def treeLevel {α : Type} (f : α → α → Except Nat α) : List α → Except Nat (List α)
  | x :: y :: t => do
    let z ← f x y
    let zs ← treeLevel f t
    return z :: zs
  | l => .ok l

/-- R199: n levels. -/
def tree {α : Type} (f : α → α → Except Nat α) : Nat → List α → Except Nat (List α)
  | 0, l => .ok l
  | n + 1, l => do
    let m ← treeLevel f l
    tree f n m

/-- R199: the leaves: inactive lanes enter as +0. -/
def leaves (s : State) (a : BitVec 5) (g t : BitVec 3) : List Nat :=
  (List.range (typeN t)).map fun e => if active (s.ctx.getP g) (laneOf (typeW t) e) then s.ctx.el t a e else 0

/-- R200: VSUMX on its leaves. -/
def vsumx (f : Fmt) (levels : Nat) (ls : List Nat) : Nat × Nat × Exc :=
  let sum := ls.foldl (fun a x => xBind a (.num false 0 0) fun u _ => xAdd rcRNE u (unpack f x)) (.num false 0 0)
  dwOp f ls sum
    (match tree (fun (a b : Nat × Nat × Exc) => do
        let (h, l, e) ← dwComb f (a.1, a.2.1) (b.1, b.2.1)
        return (h, l, e ||| a.2.2 ||| b.2.2)) levels (ls.map fun x => (x, 0, excNone)) with
      | .error r => .error r
      | .ok l => .ok (l.headD (0, 0, excNone)))

def execVsumx (d a : BitVec 5) (g t : BitVec 3) (s : State) : Out :=
  let (h, l, e) := vsumx (typeFmt t) (if typeW t = 32 then 4 else 5) (leaves s a g t)
  .next (s.complete (typeGrp t) false e [(0, e)] (s.ctx.setVPair d (BitVec.ofNat 512 h) (BitVec.ofNat 512 l)))

/-- R201: VRED on its leaves: every node rounded for floats, modulo 2^32 for integers. -/
def vred (t : BitVec 3) (levels : Nat) (ls : List Nat) : Res :=
  let node (a b : Res) : Except Nat Res :=
    match typeF t with
    | some f =>
      let (r, e) := fAdd f rcRNE 0 a.1 b.1
      .ok (r, e ||| a.2 ||| b.2)
    | none => .ok ((a.1 + b.1) % 2^(typeW t), excNone)
  match tree node levels (ls.map fun x => (x, excNone)) with
  | .error _ => (0, excNone)
  | .ok l => l.headD (0, excNone)

def execVred (d a : BitVec 5) (g t : BitVec 3) (s : State) : Out :=
  let (r, e) := vred t (if typeW t = 32 then 4 else 5) (leaves s a g t)
  .next (s.complete (typeGrp t) false e [(0, e)] (s.ctx.setV d (BitVec.ofNat 512 r)))

end Sys2Proof.Machine
end

