-- ==== Sys2Proof/Machine/Quant.lean ====
section
/-!
DEFINITION. Conversion, quantisation and randomness (09_quantise): VCVT, VPACK, VUNPK, VSCALE, VQNT, VHAD, VRAND.
-/
namespace Sys2Proof.Machine
open Sys2Proof.Num

/-- R105: the origin a core writes into poison: its coordinate word. -/
def State.origin (s : State) : Nat := s.coord s.cur.1

/-! ## VCVT (R207, R208) -/

/-- R208: I ↔ N: the bits under SAT = 0, clamped to the target's range under SAT = 1. -/
def cvtIN (ti frm : ITy) (sat : Bool) (a : Nat) : Res :=
  let v := frm.value a
  if !sat then (a % 2^ti.w, excNone)
  else if v < ti.lo then (bitsOf ti.w ti.lo, excSat)
  else if ti.hi < v then (bitsOf ti.w ti.hi, excSat)
  else (bitsOf ti.w v, excNone)

/-- R208: one element from type f to type t. -/
def vcvtEl (f t : BitVec 3) (rc : Nat) (sat : Bool) (rnd a : Nat) : Res :=
  match typeF f, typeF t with
  | some g, some h => if f = t then integral g rc rnd a else convert h g rc sat rnd a
  | some g, none => toITy g (typeI t) rc rnd a
  | none, some h => ofITy h (typeI f) rc sat rnd a
  | none, none => cvtIN (typeI t) (typeI f) sat a

def execVcvt (d a : BitVec 5) (f g t : BitVec 3) (s : State) : Out :=
  let rounds : Bool := (typeF f).isSome || (typeF t).isSome
  .next (s.vecOp d g t (rounds && s.rcV == rcSR) fun e => vcvtEl f t s.rcV (satOf s.ctx.mode) (s.rndV e) (s.ctx.el t a e))

/-! ## VPACK (R209 to R211) -/

/-- R89: the float format of codes 1 to 7; code 8 is MXINT8. -/
def codeF (f : Nat) : Option Fmt :=
  match f with
  | 0 => some F32 | 1 => some F16 | 2 => some BF16 | 3 => some E4M3 | 4 => some E5M2 | 5 => some E2M3 | 6 => some E3M2 | 7 => some E2M1
  | _ => none

/-- R89: element width of a format code. -/
def codeW (f : Nat) : Nat :=
  match f with
  | 0 => 32 | 1 => 16 | 2 => 16 | 3 => 8 | 4 => 8 | 5 => 6 | 6 => 6 | 7 => 4 | 8 => 8 | 9 => 4 | 10 => 8 | 11 => 16 | 12 => 80 | _ => 32

/-- R393: the trap format group of a format code. -/
def codeGrp (f : Nat) : Nat := match codeF f with | some g => g.grp | none => if f == 12 then 2 else if f == 13 then 7 else 6

/-- R211: emax of a format code. -/
def codeEmax (f : Nat) : Int :=
  match f with | 3 => 8 | 4 => 15 | 5 => 2 | 6 => 4 | 7 => 2 | _ => 0

/-- R95, R210: ± m × 2^e as an MXINT8 element, always clamped to ±127. -/
def toMxInt (rc rnd : Nat) (n : Bool) (m : Nat) (e : Int) : Res :=
  let r := roundInt rc rnd n m (e + 6)
  if 127 < r then (127, excSat ||| excNX) else if r < -127 then (129, excSat ||| excNX)
  else (bitsOf 8 r, if sameInt r n m (e + 6) then excNone else excNX)

/-- R210: a value into a format code outside an MX block. -/
def packVal (f rc : Nat) (sat : Bool) (rnd : Nat) (v : Val) : Res :=
  match codeF f with
  | some g =>
    match v with
    | .poison _ o => if g.cls == .finite then (0, excPoison) else (poisonCode g o, excNone)
    | .nan n sig p w => (nanCode g n p w, (if sig then excSNaN else excNone) ||| (if g.cls == .finite then excInv else excNone))
    | .inf n => infTo g sat n
    | .num n m e => roundNum g rc sat rnd n m e
  | none =>
    match v with
    | .poison _ _ => (0, excPoison)
    | .nan _ sig _ _ => (0, (if sig then excSNaN else excNone) ||| excInv)
    | .inf n => (if n then 129 else 127, excSat ||| excNX)
    | .num n m e => toMxInt rc rnd n m e

/-- R211: floor(log2 |x|) of a finite nonzero value, an infinity counting as 128. -/
def mxExp : Val → Option Int
  | .num _ m e => if m == 0 then none else some ((m.log2 : Int) + e)
  | .inf _ => some 128
  | _ => none

/-- An operand times a power of two. -/
def scaleVal (v : Val) (k : Int) : Val :=
  match v with
  | .num n m e => .num n m (e + k)
  | v => v

/-- R211: the scale and the elements of an MX block; an element's random word is `rnd k`. In a block without a nonzero value every zero is +0
(log 112). -/
def mxBlock (f rc : Nat) (rnd : Nat → Nat) (xs : List Val) : Nat × List Res :=
  let bare := 5 ≤ f
  if bare && xs.any Val.isPoison then (0xFF, xs.map fun _ => (0, excNone))
  else if bare && xs.any Val.isNaN then
    (0xFF, xs.map fun x => (0, if x.isSig then excSNaN ||| excInv else if x.isNaN then excInv else excNone))
  else
    match xs.foldl (fun a x => maxExp a (mxExp x)) none with
    | none => (0, xs.mapIdx fun k x => packVal f rc true (rnd k) (match x with | .num _ _ _ => .num false 0 0 | v => v))
    | some u =>
      let t := u - codeEmax f + 127
      let s : Nat := if t < 0 then 0 else if 254 < t then 254 else t.toNat
      (s, xs.mapIdx fun k x => packVal f rc true (rnd k) (scaleVal x (127 - (s : Int))))

/-- R209: the 32 values of a pair, an inactive one entering as +0. -/
def State.packIn (s : State) (a : BitVec 5) (g : BitVec 3) : List Val :=
  (List.range 32).map fun k =>
    if active (s.ctx.getP g) (k % 16) then unpack F32 (s.ctx.el 4 (if k < 16 then a else a + 1) (k % 16)) else .num false 0 0

def execVpack (d a : BitVec 5) (m : Bool) (f : BitVec 4) (g : BitVec 3) (s : State) : Out :=
  let xs := s.packIn a g
  let r : Nat × List Res :=
    if m then mxBlock f.toNat s.rcV s.rndV xs
    else (0, xs.mapIdx fun k x => packVal f.toNat s.rcV (satOf s.ctx.mode) (s.rndV k) x)
  let es := r.2.mapIdx fun k y => (k % 16, y.2)
  .next (s.complete (codeGrp f.toNat) (s.rcV == rcSR) (excAll es) es
    (s.ctx.setV d (BitVec.ofNat 512 (packElems (codeW f.toNat) (r.2.map Prod.fst) + r.1 * 2^504))))

/-! ## VUNPK (R212, R213) -/

/-- R213: an element q of a narrow format under scale s, as F32. -/
def unpackEl (f : Nat) (s : Nat) (self : Nat) (q : Nat) : Res :=
  if s == 0xFF then (if f ≤ 4 then F32.defNaN else poisonCode F32 self, excNone)
  else
    match codeF f with
    | some g =>
      match unpack g q with
      | .poison _ _ => (poisonCode F32 self, excNone)
      | .nan n sig _ _ => (F32.sgn n + F32.defNaN, if sig then excSNaN else excNone)
      | .inf n => (F32.sgn n + F32.infCode, excNone)
      | .num n m e => roundNum F32 rcRNE false 0 n m (e + (s : Int) - 127)
    | none =>
      let v := sx 8 q
      roundNum F32 rcRNE false 0 (v < 0) v.natAbs ((s : Int) - 133)

/-- R213: result e of VUNPK. -/
def vunpkEl (img : Nat) (h : Bool) (f : BitVec 4) (t : BitVec 3) (self e : Nat) : Res :=
  match f.toNat with
  | 0 =>
    match t.toNat with
    | 2 => (bitsOf 32 (sx 16 (elem img 16 e)), excNone)
    | 3 => (elem img 16 e, excNone)
    | 5 => convert F32 F16 rcRNE false 0 (elem img 16 e)
    | 6 => convert F32 BF16 rcRNE false 0 (elem img 16 e)
    | _ => (bitsOf 32 (sx 8 (elem img 8 (if h then e + 32 else e))), excNone)
  | 1 => convert F32 F16 rcRNE false 0 (elem img 16 e)
  | 2 => convert F32 BF16 rcRNE false 0 (elem img 16 e)
  | c => unpackEl c (if h then elem img 8 63 else 127) self (elem img (codeW c) e)

def execVunpk (d a : BitVec 5) (h : Bool) (f : BitVec 4) (g t : BitVec 3) (s : State) : Out :=
  let p := s.ctx.getP g
  let img := (s.ctx.getV a).toNat
  let rs := (List.range 32).map fun e => vunpkEl img h f t s.origin e
  let get (e : Nat) : Res := rs.getD e (0, excNone)
  let es := ((List.range 32).filter fun e => active p (e % 16)).map fun e => (e % 16, (get e).2)
  .next (s.complete (if f = 0 && (typeF t).isNone then 7 else 1) false (excAll es) es
    (s.ctx.setVPair d (vMerge 32 p (s.ctx.getV d) fun e => (get e).1) (vMerge 32 p (s.ctx.getV (d + 1)) fun e => (get (e + 16)).1)))

/-! ## VSCALE (R214) -/

def execVscale (d a b : BitVec 5) (g t : BitVec 3) (s : State) : Out :=
  let f := typeFmt t
  .next (s.vecOp d g t (s.rcV == rcSR) fun e =>
    let k := sx (typeW t) (s.ctx.el t b e)
    op1 f s.rcV false (s.rndV e) (fun v => match v with
      | .num n m x => .num n m (x + k)
      | .inf n => .inf n excNone
      | _ => .inv) (s.ctx.el t a e))

/-! ## VQNT (R215, R216) -/

def execVqnt (d a : BitVec 5) (f : BitVec 4) (g : BitVec 3) (s : State) : Out :=
  let w := codeW f.toNat
  let vs := (List.range 16).map fun k => if active (s.ctx.getP g) k then unpack F32 (s.ctx.el 4 a k) else .num false 0 0
  let (b, xs) := toSbf w s.rcV s.rndV s.origin vs
  let es := xs.mapIdx fun k x => (k, x)
  .next (s.complete 6 (s.rcV == rcSR) (excAll es) es (s.ctx.setV d (BitVec.ofNat 512 (b.image w))))

/-- R216: the F32 value of element k, exact; poison keeps the block's origin. -/
def sbfF32 (w : Nat) (b : Sbf) (k : Nat) : Nat :=
  match b.val w k with
  | .num n m e => (roundNum F32 rcRNE false 0 n m e).1
  | _ => poisonCode F32 b.origin

def execVqntDeq (d a : BitVec 5) (f : BitVec 4) (g : BitVec 3) (s : State) : Out :=
  let w := codeW f.toNat
  let b := Sbf.ofImage w (s.ctx.getV a).toNat
  .next (s.retire 4 (s.ctx.setV d (vMerge 32 (s.ctx.getP g) (s.ctx.getV d) fun k => sbfF32 w b k)))

/-! ## VHAD (R217) -/

/-- R217: Rn of a node: an exact outcome times 2^−k. -/
def hadNode (f : Fmt) (k : Nat) (x y : Val) : Res :=
  match nanRes f [x, y] with
  | some r => r
  | none =>
    match xAdd rcRNE x y with
    | .num n m e => finish f rcRNE false 0 (.num n m (e - (k : Int)))
    | r => finish f rcRNE false 0 r

/-- R217: stage j with factor 2^−k. Each element carries the exceptions of its nodes so far. -/
def hadStage (f : Fmt) (j k : Nat) (a : List Res) : List Res :=
  a.mapIdx fun e y =>
    let x (i : Nat) : Val := unpack f (a.getD i (0, excNone)).1
    let r : Res :=
      if e / 2^j % 2 = 0 then hadNode f k (x e) (x (e + 2^j))
      else hadNode f k (x (e - 2^j)) (x e).negate
    (r.1, r.2 ||| y.2)

/-- R217: the enabled stages in ascending order, the factor on the last. -/
def hadAll (f : Fmt) (shift : Nat) : List Nat → List Res → List Res
  | [], a => a
  | [j], a => hadStage f j shift a
  | j :: js, a => hadAll f shift js (hadStage f j 0 a)

def execVhad (d a m : BitVec 5) (g t : BitVec 3) (sh : BitVec 4) (s : State) : Out :=
  let f := typeFmt t
  let xs := (List.range (typeN t)).map fun e => (s.ctx.el t a e, excNone)
  let js := (List.range 5).filter fun j => m.getLsbD j
  let rs : List Res :=
    if js.isEmpty then xs.map fun x => op1 f rcRNE false 0 (fun v => match v with
      | .num n m e => .num n m (e - (sh.toNat : Int))
      | .inf n => .inf n excNone
      | _ => .inv) x.1
    else hadAll f sh.toNat js xs
  .next (s.vecOp d g t false fun e => rs.getD e (0, excNone))

/-! ## VRAND (R218) -/

/-- R218: the element made of a Philox word. -/
def randEl (t : BitVec 3) (w : Nat) : Nat :=
  match t.toNat with
  | 0 => w | 1 => w | 2 => w % 2^16 | 3 => w % 2^16
  | 4 => (roundNum F32 rcRNE false 0 false (w / 2^8) (-24)).1
  | 5 => (roundNum F16 rcRNE false 0 false (w / 2^21) (-11)).1
  | 6 => (roundNum BF16 rcRNE false 0 false (w / 2^24) (-8)).1
  | _ => w % 2^8

def execVrand (d a : BitVec 5) (g t : BitVec 3) (w : BitVec 2) (s : State) : Out :=
  let word (e : Nat) : Nat :=
    let r := philox s.ctx.seed.toNat e ((s.ctx.getX a).toNat % 2^32) (s.ctx.stepc.toNat % 2^32) (s.c3 s.cur.1)
    match w.toNat with | 0 => r.1 | 1 => r.2.1 | 2 => r.2.2.1 | _ => r.2.2.2
  let rs := (List.range (typeN t)).map fun e => randEl t (word e)
  .next (s.retire 4 ((s.ctx.setV d (vMerge (typeW t) (s.ctx.getP g) (s.ctx.getV d) fun e => rs.getD e 0)).bumpStep true))

end Sys2Proof.Machine
end

