-- ==== Sys2Proof/Machine/Quay.lean ====
section
/-!
DEFINITION. The quay (R250 to R257, R260 to R265, R320): what each request does to its vault as one event, parking and waking, answers
on their way back, and patrol scrub; the semaphore unit's increments (R266).
-/
namespace Sys2Proof.Machine
open Sys2Proof.Num

/-! ## The vault -/

/-- R256: some byte of a range lies in a poisoned block. -/
def Core.poisonedIn (k : Core) (off len : Nat) : Bool := k.poison.any fun b => off / 32 ≤ b && 32 * b < off + len

/-- R256: a write event; one that covers a whole block clears its poison. -/
def Core.writeEvent (k : Core) (off : Nat) (data : List Byte) : Core :=
  { k with vault := k.vault.writeN off data,
           poison := if off % 32 = 0 && 32 ≤ data.length then ndel (off / 32) k.poison else k.poison }

/-- R238, R256: a write event of bytes of one block; one that covers the block clears its poison. -/
def Core.scatter (k : Core) (cells : List Host.Cell) : Core :=
  { k with vault := cells.foldl (fun m c => m.writeN c.1 [c.2]) k.vault,
           poison := match cells with
             | c :: _ => if (List.range 32).all fun i => cells.any fun d => d.1 == c.1 / 32 * 32 + i then ndel (c.1 / 32) k.poison else k.poison
             | [] => k.poison }

/-- R255: the word of a byte is FULL. -/
def Core.full (k : Core) (off : Nat) : Bool := !(k.empty.contains (off / 8))

/-- R263: f(old, b) on n bits for an integer operation. -/
def amoInt (opc n old b : Nat) : Nat :=
  let m (v : Nat) := v % 2^n
  match opc with
  | 0 => m (old + b)
  | 1 => m (old + 2^n - m b)
  | 2 => m old &&& m b
  | 3 => m old ||| m b
  | 4 => m old ^^^ m b
  | 5 => if sx n old ≤ sx n b then m old else m b
  | 6 => if sx n old < sx n b then m b else m old
  | 7 => if m old ≤ m b then m old else m b
  | 8 => if m old < m b then m b else m old
  | 9 => m b
  | _ =>
    let v := sx n old + sx n b
    let t : ITy := ⟨n, true⟩
    if v < t.lo then bitsOf n t.lo else if t.hi < v then bitsOf n t.hi else bitsOf n v

/-- R263: f(old, b) on 2^sz bytes; FADD is operation 11, BFADD 12. -/
def amoFun (opc sz old b : Nat) : Nat :=
  match opc with
  | 11 => (fAdd (match sz with | 1 => F16 | 2 => F32 | _ => F64) rcRNE 0 old b).1
  | 12 => packElems 16 ((List.range (2^sz / 2)).map fun e => (fAdd BF16 rcRNE 0 (elem old 16 e) (elem b 16 e)).1)
  | _ => amoInt opc (8 * 2^sz) old b

/-- R265: the 64 bytes after AMOV. -/
def amovFun (lanes : PReg) (t : BitVec 3) (old addend : Nat) : Nat :=
  let w := typeW t
  packElems w ((List.range (512 / w)).map fun e =>
    let a := elem old w e
    let b := elem addend w e
    if active lanes (laneOf w e) then
      match typeF t with
      | some f => (fAdd f rcRNE 0 a b).1
      | none => (a + b) % 2^w
    else a)

/-- What a quay makes of a request: it performs it, refuses it with a memory cause, or parks it. -/
inductive Served where
  | ok (data : List Byte) (k : Core)
  | fault (n : Nat)
  | park

/-- R250, R256, R260, R263 to R265, R267, R320: a request at the core whose vault it names, as one event. A poisoned block ends the wait of a
STFE; one that does not wait is a partial write. -/
def Core.serve (k : Core) (r : Req) : Served :=
  let bad := k.poisonedIn r.off r.len
  let bytes := k.vault.readN r.off r.len
  match r.op with
  | .load => if bad then .fault 9 else .ok bytes k
  | .store d => .ok [] (k.writeEvent r.off d)
  | .scatter cs => .ok [] (k.scatter cs)
  | .amo opc sz b =>
    if bad then .fault 9 else .ok bytes (k.writeEvent r.off (leBytes (amoFun opc sz (leNat bytes) b.toNat) r.len))
  | .cas sz new old =>
    if bad then .fault 9
    else .ok bytes (if leNat bytes == old.toNat % 2^(8 * 2^sz) then k.writeEvent r.off (leBytes new.toNat r.len) else k)
  | .amov lanes t addend =>
    if bad then .fault 9 else .ok bytes (k.writeEvent r.off (leBytes (amovFun lanes t (leNat bytes) addend.toNat) 64))
  | .ldfe take =>
    if bad then .fault 9 else if !k.full r.off then .park
    else .ok bytes (if take then { k with empty := nadd (r.off / 8) k.empty } else k)
  | .stfe wait d =>
    if wait && k.full r.off then (if bad then .fault 9 else .park)
    else .ok [] { k.writeEvent r.off (leBytes d.toNat 8) with empty := ndel (r.off / 8) k.empty }
  | .join => if bad then .fault 9 else if leNat bytes == 0 then .ok [] k else .park
  | .fecl => .ok [] { k with empty := nadd (r.off / 8) k.empty }
  | .fese => .ok [] { k with empty := ndel (r.off / 8) k.empty }

/-- R251, R274: the answer sets out: to the outstanding load it belongs to, or to the strand's pending counts. -/
def State.answer (s : State) (r : Req) (a : Resp) : State :=
  let b : Ack :=
    if r.toLoad then
      { id := s.ids, core := r.core, strand := r.strand, seq := r.seq, bytes := 0, spb := false, xpb := false, fault := none, home := r.home,
        load := some (r.idx, a) }
    else
      { id := s.ids, core := r.core, strand := r.strand, seq := r.seq, bytes := r.pbc, spb := r.spb, xpb := r.xpb,
        fault := match a with | .fault n ea => some (n, ea) | _ => none, home := r.home, load := none }
  { s with acks := s.acks ++ [b], ids := s.ids + 1 }

/-- A request that its quay performs or refuses now; nothing where it would park. -/
def State.serveNow (s : State) (r : Req) : Option State :=
  match (s.core r.home).serve r with
  | .ok d k => some ((s.putCore r.home k).answer r (.done d))
  | .fault n => some (s.answer r (.fault n r.addr))
  | .park => none

/-- The first parked request of a home that performs now, taken out of the parks. -/
def State.wakeOne (s : State) (h : CoreId) : List Req → Option State
  | [] => none
  | r :: rs =>
    if r.home == h then
      match s.serveNow r with
      | some t => some { t with parks := t.parks.filter fun q => q.id ≠ r.id }
      | none => s.wakeOne h rs
    else s.wakeOne h rs

/-- R260, R320: after a change of a vault its parked accesses perform in arrival order, each meeting the word as the one before left it;
at most n of them. -/
def State.wakeN (s : State) (h : CoreId) : Nat → State
  | 0 => s
  | n + 1 =>
    match s.wakeOne h s.parks with
    | some t => t.wakeN h n
    | none => s

def State.wake (s : State) (h : CoreId) : State := s.wakeN h s.parks.length

/-- R261: parked accesses at a home. -/
def State.parked (s : State) (h : CoreId) : Nat := (s.parks.filter fun r => r.home == h).length

/-- An engine's write event on a vault (R281): its bytes, and FULL on the words it covers under `.FE` (R255). -/
def State.engineWrite (s : State) (h : CoreId) (off : Nat) (data : List Byte) (fe : Bool) : State :=
  let k := (s.core h).writeEvent off data
  let k := if fe then { k with empty := k.empty.filter fun w => !(off / 8 ≤ w && 8 * w < off + data.length) } else k
  (s.putCore h k).wake h

/-- R281: a run of bytes written by an engine, one event per 32-byte block, ascending. -/
def State.engineWrites (s : State) (h : CoreId) (off : Nat) (data : List Byte) (fe : Bool) : State :=
  (events off data.length (data.length / 32 + 2)).foldl (fun t (o, m) => t.engineWrite h o ((data.drop (o - off)).take m) fe) s

/-! ## Requests at the quay -/

/-- R272: an earlier request of the same strand to the same home is still on its way; one answered FE_BUSY keeps no place (R261). -/
def Req.before (r q : Req) : Bool :=
  q.id < r.id && q.core == r.core && q.strand == r.strand && q.home == r.home && (match q.st with | .busy _ => false | _ => true)

def State.setReq (s : State) (id : Nat) (st : ReqState) : State :=
  { s with net := s.net.map fun r => if r.id == id then { r with st := st } else r }

/-- QUAY_ADMIT: R47, R59, R250, R261: a request that is on its way reaches its quay: it is performed, refused, parked, or answered RETRY or
FE_BUSY. -/
def State.quayAdmit (s : State) (id : Nat) : State :=
  match s.net.find? fun r => r.id == id && r.st == .flying with
  | none => s
  | some r =>
    if s.net.any r.before then s
    else
      match s.stops r.core r.home with
      | some n => { s with net := s.net.filter fun q => q.id ≠ id }.answer r (.fault n r.addr)
      | none =>
        if s.moving r.home then s.setReq id (.retry (s.now + 256))
        else
          let out : State := { s with net := s.net.filter fun q => q.id ≠ id }
          match out.serveNow r with
          | some t => t.wake r.home
          | none => if 16 ≤ s.parked r.home then s.setReq id (.busy (s.now + 64)) else { out with parks := out.parks ++ [r] }

def execQuayAdmit (req : Nat) (s : State) : Out := .next (s.quayAdmit req)

/-- FE_BUSY_REISSUE: R261: after 64 cycles the strand sends the access again. -/
def execFeBusyReissue (req : Nat) (s : State) : Out :=
  .next (match s.net.find? fun r => r.id == req with
    | some r =>
      (match r.st with
        | .busy t => if t ≤ s.now then
              { s with net := (s.net.filter fun q => q.id ≠ req) ++ [{ r with id := s.ids, st := .flying }], ids := s.ids + 1 }
            else s
        | _ => s)
    | none => s)

/-- RETRY_REISSUE: R59: after 256 cycles a strand sends every access answered RETRY again, in issue order. -/
def execRetryReissue (core strand : Nat) (s : State) : Out :=
  .next { s with net := s.net.map fun r =>
    if r.core == core && r.strand.1 == strand then
      match r.st with
      | .retry t => if t ≤ s.now then { r with st := .flying } else r
      | _ => r
    else r }

/-- R274: the bytes an atomic counted leave the counts when its response returns. -/
def Strand.uncount (x : Strand) (aux : Nat) : Strand :=
  let n := aux % 2^32
  { x with pbc := x.pbc - n, spb := if aux.testBit 32 then x.spb - n else x.spb, xpb := if aux.testBit 33 then x.xpb - n else x.xpb }

/-- R252, R274: the response to event i of instruction `seq` returns; with its last an atomic's bytes leave the counts. -/
def Strand.responded (x : Strand) (seq i : Nat) (r : Resp) : Strand :=
  let f (e : Entry) : Entry := if e.seq == seq then { e with parts := lset e.parts i r } else e
  let x := { x with loads := x.loads.map f, sq := x.sq.map f }
  match x.loads.find? fun e => e.seq == seq with
  | some e => if storesBytes e.instr && !e.parts.contains .pending then x.uncount e.aux.toNat else x
  | none => x

/-- R253, R274: a response returns to its load; or an acknowledgement or fault response: its bytes leave the counts; an instruction that waits
in the store queue for it takes note, and any other fault becomes a pending fault of the strand. -/
def Strand.acked (x : Strand) (a : Ack) : Strand :=
  match a.load with
  | some (i, r) => x.responded a.seq i r
  | none =>
  let x := { x with pbc := x.pbc - a.bytes, spb := if a.spb then x.spb - a.bytes else x.spb,
                    xpb := if a.xpb then x.xpb - a.bytes else x.xpb }
  if x.sq.any fun e => e.seq == a.seq then
    let p : Resp := match a.fault with | some (n, ea) => .fault n ea | none => .done []
    { x with sq := x.sq.map fun e => if e.seq == a.seq then { e with parts := e.parts ++ [p] } else e }
  else
    match a.fault with
    | some (n, ea) =>
      { x with faults := x.faults ++ [⟨a.seq, memCause n 0, ea, false, false, false, 0, false, false⟩] }
    | none => x

/-- R29: a response that core h sent core c before number id has not returned. -/
def State.owes (s : State) (c h : CoreId) (id : Nat) : Bool :=
  (s.acks.any fun a => a.core == c && a.home == h && a.id < id) || s.bulkAcks.any fun a => a.core == c && a.origin == h && a.id < id

/-- R29: a response that home h has sent core c has not returned: what h sends now comes after it. -/
def State.answers (s : State) (c h : CoreId) : Bool := s.owes c h s.ids

/-- WRITE_ACK: R29: a response returns, after those that the same quay sent to the same core before it. -/
def execWriteAck (ack : Nat) (s : State) : Out :=
  .next (match s.acks.find? fun a => a.id == ack with
    | some a => if s.owes a.core a.home a.id then s else { s with acks := s.acks.filter fun b => b.id ≠ ack }.modStrand a.core a.strand fun x => x.acked a
    | none => s)

/-! ## Errors in a core's cells -/

/-- R56: an event reaches the Grefiest controller's queue. -/
def State.askAmend (s : State) (part : Nat) (d : Damage) (px py : Nat) : State :=
  s.modWafer part fun w => { w with work := w.work ++ [.amend d px py] }

/-- The tile that carries a core, or the vault of an orphan. -/
def State.tileNo (s : State) (c : CoreId) : Nat := (s.chart c).find (cX c) (cY c)

/-- The end of a causeway from a tile. -/
def causewayEnd : Nat → List (BitVec 2) → Nat
  | i, [] => i
  | i, d :: ds => causewayEnd (meshStep i d.toNat) ds

/-- R45: the tile whose vault serves a core. -/
def State.homeTile (s : State) (c : CoreId) : Nat :=
  if s.orphan c then causewayEnd (s.tileNo c) (s.tileOf c).cw else s.tileNo c

/-- R52, R256, R257: an uncorrectable error is found in a vault word; its record names the home's tile. -/
def State.vaultUe (s : State) (c : CoreId) (word : Nat) : State :=
  let b := word / 4
  let k := s.core c
  let two : Bool := !(k.vaultUe.contains b) && k.vaultUe.length == 1
  let s := s.putCore c { k with poison := nadd b k.poison, vaultUe := nadd b k.vaultUe }
  let s := s.recordAt c (s.homeTile c) (memCause 12 3) none 0 (globalAddr (s.coord c) (8 * word)) 1
  let s := if two then s.askAmend (cPart c) .vaultHalf (s.homeTile c % 512) (s.homeTile c / 512) else s
  s.wake c

/-- PATROL_SCRUB: R257: patrol scrub reads a vault word: kind 1 is an uncorrectable error; any other kind is a word in order or corrected. -/
def execPatrolScrub (core word kind : Nat) (s : State) : Out :=
  .next (if kind == 1 && word < 65536 then s.vaultUe core word else s)

/-- R56, R257: an uncorrectable error is found in a near-store word. -/
def State.nearUeFound (s : State) (c : CoreId) : State :=
  let k := s.core c
  let s := s.putCore c { k with nearUeSeen := k.nearUeSeen + 1 }
  if k.nearUeSeen == 1 then s.askAmend (cPart c) .coreHalf (s.tileNo c % 512) (s.tileNo c / 512) else s

/-! ## The semaphore unit (R266) -/

/-- R266: an increment by an engine or stream: clamped, with a record; every increment sets EVPEND bit 2. While the core is saved it is
counted for its resume (R403). -/
def State.semGot (s : State) (c : CoreId) (n : Nat) : State :=
  let k := s.core c
  if k.saved then s.putCore c { k with incs := tset (tget 0 k.incs n + 1) n k.incs }
  else
    let v := (vget k.sems n).toNat + 1
    let s := if 2^32 ≤ v then s.record c (msgCause 6 3) none 0 0 0
             else s.putCore c { k with sems := vset k.sems n (BitVec.ofNat 32 v) }
    s.signal c 2 none

/-- SEM_INCREMENT: the oldest increment on its way to a semaphore of a core reaches it. -/
def execSemIncrement (core sem : Nat) (s : State) : Out :=
  .next (if s.semq.contains (core, sem) then { s with semq := s.semq.erase (core, sem) }.semGot core sem else s)

end Sys2Proof.Machine
end

