-- ==== Sys2Proof/Machine/Access.lean ====
section
/-!
DEFINITION. The bytes an instruction of majors 0x28 to 0x36 and 0x63 touches (R244, R258, R262 to R265, R267): its elements, their checks,
and the overlaps that hold a load back (R271) or a store off the matrix unit's operands (R236).
-/
namespace Sys2Proof.Machine

/-- R258: bytes of a size code; LDV and STV read size 0 as the whole register. -/
def szBytes (z : BitVec 3) : Nat := 2^z.toNat
def vecBytes (z : BitVec 3) : Nat := if z = 0 then 64 else 2^z.toNat

/-- R244. -/
def Ctx.ls (c : Ctx) (a : BitVec 5) (z : BitVec 3) (o : BitVec 12) : Word := c.getX a + imm o <<< z.toNat

/-- R262: the elements of LDVS and STVS. -/
def Ctx.strided (c : Ctx) (a : BitVec 5) (z : BitVec 3) (o : BitVec 12) : List (Word × Nat) :=
  (List.range (64 / szBytes z)).map fun e => (c.getX a + BitVec.ofNat 64 e * (imm o <<< z.toNat), szBytes z)

/-- R262: the elements of LDVG and STVX, indexed by the lanes of a register. -/
def Ctx.indexed (c : Ctx) (a : BitVec 5) (z : BitVec 3) (o : BitVec 12) (idx : VReg) : List (Word × Nat) :=
  (List.range 16).map fun k => (c.ls a z o + BitVec.ofNat 64 (elem idx.toNat 32 k * szBytes z), szBytes z)

/-- R267: the words of FECLR and FESET. -/
def Ctx.feWords (c : Ctx) (a b : BitVec 5) : List (Word × Nat) :=
  (List.range (c.getX b).toNat).map fun n => (c.getX a + BitVec.ofNat 64 (8 * n), 8)

/-- The elements an instruction reads or writes in the near store or a vault, in the order of its card; for FORK, JOIN and TDONE the join
counter (R318). -/
def memElems (c : Ctx) : Instr → List (Word × Nat)
  | .ld _ a z o => [(c.ls a z o, szBytes z)]
  | .st _ a z o => [(c.ls a z o, szBytes z)]
  | .lda _ a z o => [(c.ls a z o, szBytes z)]
  | .stl _ a z o => [(c.ls a z o, szBytes z)]
  | .ldfe _ a o => [(c.ls a 3 o, 8)]
  | .ldfeE _ a o => [(c.ls a 3 o, 8)]
  | .stfe _ a o => [(c.ls a 3 o, 8)]
  | .stfeF _ a o => [(c.ls a 3 o, 8)]
  | .ldv _ a z o => [(c.ls a z o, vecBytes z)]
  | .stv _ a z o => [(c.ls a z o, vecBytes z)]
  | .ldvs _ a z o => c.strided a z o
  | .stvs _ a z o => c.strided a z o
  | .ldvg d a z o => c.indexed a z o (c.getV d)
  | .stvx d a z o => c.indexed a z o (c.getV (d + 1))
  | .amoAdd _ a _ z => [(c.getX a, szBytes z)]
  | .amoSub _ a _ z => [(c.getX a, szBytes z)]
  | .amoAnd _ a _ z => [(c.getX a, szBytes z)]
  | .amoOr _ a _ z => [(c.getX a, szBytes z)]
  | .amoXor _ a _ z => [(c.getX a, szBytes z)]
  | .amoMin _ a _ z => [(c.getX a, szBytes z)]
  | .amoMax _ a _ z => [(c.getX a, szBytes z)]
  | .amoMinu _ a _ z => [(c.getX a, szBytes z)]
  | .amoMaxu _ a _ z => [(c.getX a, szBytes z)]
  | .amoSwap _ a _ z => [(c.getX a, szBytes z)]
  | .amoAddsat _ a _ z => [(c.getX a, szBytes z)]
  | .amoFadd _ a _ z => [(c.getX a, szBytes z)]
  | .amoBfadd _ a _ z => [(c.getX a, szBytes z)]
  | .cas _ a _ _ z => [(c.getX a, szBytes z)]
  | .amov a _ _ _ => [(c.getX a, 64)]
  | .amovR _ a _ _ _ => [(c.getX a, 64)]
  | .feclr a b => c.feWords a b
  | .feset a b => c.feWords a b
  | .fork _ _ b => if b = 0 then [] else [(c.getX b, 8)]
  | .tdone a => if a = 0 then [] else [(c.getX a, 8)]
  | .tdoneK a => if a = 0 then [] else [(c.getX a, 8)]
  | .join a => [(c.getX a, 8)]
  | _ => []

/-- R274, R276: bytes of remote writes an instruction makes. -/
def State.pbcBytes (s : State) (c : CoreId) (x : Ctx) (i : Instr) : Nat :=
  (memElems x i).foldl (fun a (ea, n) =>
    match s.place c ea with
    | .vault h _ => if s.isLocal c h then a else a + n
    | _ => a) 0

def writesPbc : Instr → Bool
  | .feclr _ _ | .feset _ _ => true
  | i => storesBytes i

/-- R276: `n` bytes more would take PBC past 2^56 − 1. -/
def State.pbcPast (s : State) (n : Nat) : Bool :=
  let x := s.strand s.cur.1 s.cur.2
  2^56 ≤ x.pbc + n + x.sq.foldl (fun a e => if e.phase == 0 && writesPbc e.instr then a + s.pbcBytes s.cur.1 e.snap e.instr else a) 0

/-- R276: PBC would overflow. -/
def State.pbcOver (s : State) (i : Instr) : Bool := s.pbcPast (s.pbcBytes s.cur.1 s.ctx i)

/-- Two ranges share a byte. -/
def meets (a : Nat) (m : Nat) (b : Nat) (n : Nat) : Bool := a < b + n && b < a + m

/-- Two places of given lengths share a byte. -/
def Place.meets (p : Place) (m : Nat) (q : Place) (n : Nat) : Bool :=
  match p, q with
  | .near a, .near b => Machine.meets a m b n
  | .vault h a, .vault g b => h == g && Machine.meets a m b n
  | _, _ => false

/-- The places an instruction of core c touches. -/
def State.places (s : State) (c : CoreId) (x : Ctx) (i : Instr) : List (Place × Nat) :=
  (memElems x i).map fun (ea, n) => (s.place c ea, n)

/-- R59: a request of another instruction than `seq` of strand (c, t) to home h waits to be sent again after RETRY. -/
def State.retryFrom (s : State) (c : CoreId) (t : Fin 4) (seq : Nat) (h : CoreId) : Bool :=
  s.net.any fun r => r.core == c && r.strand == t && r.seq ≠ seq && r.home == h && (match r.st with | .retry _ => true | _ => false)

/-- R59: the same for a home of some of these places. -/
def State.retrying (s : State) (c : CoreId) (t : Fin 4) (seq : Nat) (ps : List (Place × Nat)) : Bool :=
  ps.any fun p => match p.1 with | .vault h _ => s.retryFrom c t seq h | _ => false

/-- R271: an entry of the store queue older than instruction `seq` overlaps some place. -/
def State.queuedOver (s : State) (c : CoreId) (t : Fin 4) (seq : Nat) (ps : List (Place × Nat)) : Bool :=
  (s.strand c t).sq.any fun e => e.seq < seq && storesBytes e.instr &&
    (s.places c e.snap e.instr).any fun (q, n) => ps.any fun (p, m) => p.meets m q n

/-- R245, R262: the check of an indexed element: its address is formed in the offset field of the base's space. -/
def State.checkIndexed (s : State) (c : CoreId) (priv : Bool) (a : Acc) (base : Word) (len : Nat) : List Word → Option (Nat × Word)
  | [] => none
  | ea :: eas =>
    let off := (if space base == 0 then nearOff base else vaultOff base) + (ea - base).toNat + len
    match s.check c priv { a with store := false } base 0 1 false with
    | some 6 => some (if 0x80000 < off then (4, ea) else (6, ea))
    | some n => some (n, ea)
    | none =>
      if space base == 0 then
        if 0x10000 < off then some (3, ea)
        else if a.store && !priv && (s.core c).execIn (nearOff ea) len then some (7, ea)
        else s.checkIndexed c priv a base len eas
      else if 0x80000 < off then some (4, ea)
      else s.checkIndexed c priv a base len eas

/-- R79: a near store by `tag` leaves the old bytes of execute lines within sight of fetches. -/
def Core.nearStale (k : Core) (off : Nat) (data : List Byte) (tag : Nat) : Core :=
  let old := ((List.range data.length).map fun n => (off + n, k.near.read (off + n))).filter fun p => k.execLine (p.1 / 64)
  if old.isEmpty then k else { k with stale := k.stale ++ [(tag, old)] }

/-- A near store, whose old bytes in execute lines stay in sight under `tag` (R79). -/
def Core.nearWrite (k : Core) (off : Nat) (data : List Byte) (tag : Nat) : Core :=
  { k.nearStale off data tag with near := k.near.writeN off data,
                                  nearUe := k.nearUe.filter fun w => !(off ≤ 8 * w && 8 * w + 8 ≤ off + data.length) }

/-- What is left of the stores not seen yet once those of `tag` are: nothing of theirs, and of the stores before one of them no byte that it
wrote. -/
def settled (tag : Nat) : List (Nat × List Host.Cell) → List (Nat × List Host.Cell)
  | [] => []
  | q :: qs =>
    let later (b : Nat) : Bool := qs.any fun r => r.1 == tag && r.2.any fun c => c.1 == b
    let left := q.2.filter fun c => !later c.1
    if q.1 == tag || left.isEmpty then settled tag qs else (q.1, left) :: settled tag qs

/-- R79, R351: what was stored under `tag` is seen by every later fetch. -/
def Core.settle (k : Core) (tag : Nat) : Core := { k with stale := settled tag k.stale }

end Sys2Proof.Machine
end

