-- ==== Sys2Proof/Machine/Matrix.lean ====
section
/-!
DEFINITION. Accumulators and the matrix unit (10_matrix): ATAKE, AGIVE, MDESC, the unit queue, and the execution of MZERO, MLD, MMA,
MDRAIN and MXPQ by the events UNIT_EXECUTE and MMA_KSTEP.
-/
namespace Sys2Proof.Machine
open Sys2Proof.Num

/-! ## Descriptors (R226 to R229) -/

/-- R226: the fields of a descriptor. -/
structure Desc where
  base : Word
  rpitch : Nat
  ppitch : Nat
  rot : Nat
  fmt : Nat
  swz : Bool
  mx : Bool
  tr : Bool
  rsv : Bool
  hofs : Nat

def Desc.of (d : BitVec 128) : Desc :=
  let n := d.toNat
  { base := d.setWidth 64, rpitch := bits n 64 16, ppitch := bits n 80 20, rot := bits n 100 4, fmt := bits n 104 4,
    swz := d.getLsbD 108, mx := d.getLsbD 109, tr := d.getLsbD 110, rsv := d.getLsbD 111, hofs := bits n 112 16 }

def Desc.w (d : Desc) : Nat := codeW d.fmt
def Desc.sbf (d : Desc) : Bool := 9 ≤ d.fmt && d.fmt ≤ 11
/-- R227: offset of the segment of line i in k-step s, before the swizzle. -/
def Desc.off (d : Desc) (i s : Nat) : Nat := vaultOff d.base + s * d.ppitch + i * d.rpitch
/-- R227: the swizzle of a byte of line i. -/
def Desc.swizzle (d : Desc) (i o : Nat) : Nat :=
  if d.swz then o - o / 64 % 16 * 64 + ((o / 64 % 16 ^^^ i % 16) + d.rot) % 16 * 64 else o
def Desc.hb (d : Desc) : Nat := vaultOff d.base + 32 * d.hofs
/-- R227: the SBF header of line i in k-step s, of L lines. -/
def Desc.hdrAt (d : Desc) (L i s : Nat) : Nat := d.hb + 2 * (s * L + i)
/-- R227: the MX scale of line i in k-step s. -/
def Desc.sclAt (d : Desc) (L i s : Nat) : Nat := d.hb + s / 2 * L + i
/-- The bytes of a segment in the order of its elements. -/
def Desc.segment (d : Desc) (i s : Nat) : List Nat := (List.range (2 * d.w)).map fun b => d.swizzle i (d.off i s + b)

/-- R228: the highest offset of a footprint of L lines and n k-steps, before the swizzle. -/
def Desc.top (d : Desc) (L n : Nat) : Nat :=
  let m := d.off (L - 1) (n - 1) + 2 * d.w - 1
  let h := if d.sbf then d.hdrAt L (L - 1) (n - 1) + 1 else if d.mx then d.sclAt L (L - 1) (n - 1) else 0
  if m < h then h else m

/-- R228, R245: the elements of a footprint, offset and bytes, line by line, each k-step's elements before its header or scale (log 25). -/
def Desc.elements (d : Desc) (L n : Nat) : List (Nat × Nat) :=
  (List.range L).flatMap fun i => (List.range n).flatMap fun st =>
    ((List.range 16).map fun e => (d.off i st + d.w * e / 8, (d.w * e + d.w - 1) / 8 + 1 - d.w * e / 8)) ++
      (if d.sbf then [(d.hdrAt L i st, 2)] else if d.mx then [(d.sclAt L i st, 1)] else [])

/-- R228: the offset of the first element of a footprint that has a byte beyond the vault. -/
def Desc.beyond (d : Desc) (L n : Nat) : Nat :=
  match (d.elements L n).find? fun p => 0x80000 < p.1 + p.2 with
  | some p => p.1
  | none => d.top L n

/-- R229: MDESC's checks. -/
def Desc.bad (d : Desc) : Bool :=
  14 ≤ d.fmt || d.rsv || (d.rot ≠ 0 && !d.swz) || (d.mx && !(3 ≤ d.fmt && d.fmt ≤ 8)) || d.base.toNat % 4 ≠ 0 || d.rpitch % 4 ≠ 0
    || d.ppitch % 4 ≠ 0

/-- R225: the formats of an MMA operand; R237: of a destination or residual; R240: of MXPQ. -/
def Desc.forMma (d : Desc) : Bool := 1 ≤ d.fmt && d.fmt ≤ 11
def Desc.forDrain (d : Desc) : Bool := d.fmt ≤ 13 && !d.mx
def Desc.forMxpq (d : Desc) : Bool := 3 ≤ d.fmt && d.fmt ≤ 8 && d.mx

/-- R228: the first check a descriptor fails in a use of L lines and n k-steps, as a cause and TVAL. -/
def State.checkDesc (s : State) (c : CoreId) (priv : Bool) (d : Desc) (L n : Nat) (drain ok : Bool) : Option (Nat × Word) :=
  match s.check c priv accQuay d.base 0 1 false with
  | some m => some (memCause m 0, d.base)
  | none =>
    if 0x80000 ≤ d.top L n then some (memCause 4 0, d.base + BitVec.ofNat 64 (d.beyond L n - vaultOff d.base))
    else if d.tr && !drain then some (engCause 3 0, 0)
    else if !ok then some (engCause 2 0, 0)
    else none

/-- The core whose vault a checked descriptor names. -/
def State.descHome (s : State) (c : CoreId) (d : Desc) : CoreId :=
  match s.place c d.base with
  | .vault h _ => h
  | _ => c

/-! ## Elements (R232, R234) -/

/-- R232: the 16 values of a line's segment, from its bit string, SBF header and MX scale; `self` is the executing core's origin.
Code 0x7F of E4M3 and E5M2 under scale 0xFF is a quiet NaN as its block is (log 134). -/
def lineVals (fmt : Nat) (mx : Bool) (hdr scale self str : Nat) : List Val :=
  let s : Nat := if mx then scale else 127
  (List.range 16).map fun k =>
    let q := elem str (codeW fmt) k
    if 9 ≤ fmt && fmt ≤ 11 then (Sbf.ofBits (codeW fmt) hdr str).val (codeW fmt) k
    else if 3 ≤ fmt && fmt ≤ 8 && s == 0xFF then (if fmt ≤ 4 then .nan false false 0 0 else .poison 0 self)
    else match codeF fmt with
      | some f =>
        (match unpack f q with
          | .poison raw o => .poison raw (if 3 ≤ fmt then self else o)
          | .nan n sig p w => .nan n (sig && fmt ≤ 2) p w
          | .inf n => .inf n
          | .num n m e => .num n m (if 3 ≤ fmt then e + (s : Int) - 127 else e))
      | none => .num (sx 8 q < 0) (sx 8 q).natAbs ((s : Int) - 133)

/-- A segment as read from a vault: its bit string, header, scale, the elements that read as poison under R234, whether they do so for their
header or scale, and the memory cause of that. -/
structure Seg where
  str : Nat
  hdr : Nat
  scale : Nat
  bad : List Nat
  badHead : Bool
  cause : Nat
  addr : Nat

/-- R234, R235: the unit reads a beat of the vault of h for core c. -/
def State.readBeat (s : State) (c h : CoreId) (b : Nat) : Beat :=
  let k := s.core h
  { home := h, block := b, data := k.vault.readN (32 * b) 32,
    bad := match s.stops c h with | some n => some n | none => if k.poison.contains b then some 9 else none }

/-- A byte of a vault among the beats read, and what its beat met. -/
def beatOf (bs : List Beat) (h : CoreId) (o : Nat) : Option Beat := bs.find? fun b => b.home == h && b.block == o / 32
def beatByte (bs : List Beat) (h : CoreId) (o : Nat) : Byte := match beatOf bs h o with | some b => b.data.getD (o % 32) 0 | none => 0
def beatBad (bs : List Beat) (h : CoreId) (o : Nat) : Option Nat := (beatOf bs h o).bind (·.bad)

/-- R227, R234: the segment of line i in k-step st, out of the beats read. -/
def readSeg (bs : List Beat) (h : CoreId) (d : Desc) (L i st : Nat) : Seg :=
  let at_ := d.segment i st
  let head : List Nat := if d.sbf then [d.hdrAt L i st, d.hdrAt L i st + 1] else if d.mx then [d.sclAt L i st] else []
  let hd : Bool := head.any fun o => (beatBad bs h o).isSome
  { str := leNat (at_.map (beatByte bs h)), hdr := if d.sbf then leNat (head.map (beatByte bs h)) else 0,
    scale := if d.mx then leNat (head.map (beatByte bs h)) else 0,
    bad := (List.range 16).filter fun e => hd || (List.range (2 * d.w)).any fun b =>
      d.w * e / 8 ≤ b && b ≤ (d.w * e + d.w - 1) / 8 && (beatBad bs h (at_.getD b 0)).isSome,
    badHead := hd, cause := ((at_ ++ head).findSome? (beatBad bs h)).getD 9, addr := at_.headD 0 }

/-- The values of a segment of a vault whose logical core has origin `home`. -/
def Seg.vals (g : Seg) (fmt : Nat) (mx : Bool) (home self : Nat) : List Val :=
  (lineVals fmt mx g.hdr g.scale self g.str).mapIdx fun k v => if g.bad.contains k then .poison 0 home else v

/-- R234: the record of an operand read that met an error or poison. -/
def State.badRead (s : State) (c : CoreId) (d : Desc) (t : Fin 4) (pc : Word) (segs : List Seg) : State :=
  match segs.find? fun g => !g.bad.isEmpty with
  | some g =>
    s.record c (memCause g.cause 3) (some t) pc (globalAddr (s.coord (s.descHome c d)) g.addr) 6
  | none => s

/-- R224: bytes of a register octet as one number. -/
def Ctx.octet (c : Ctx) (q : Nat) : Nat := packElems 512 ((List.range 8).map fun n => (c.getV (BitVec.ofNat 5 (8 * q + n))).toNat)

/-- R224: the lines of an octet in SBF8 (format 10) or BF16 (format 2). -/
def octetLines (fmt oct self : Nat) : List (List Val) :=
  (List.range 16).map fun i =>
    if fmt == 10 then lineVals 10 false (elem (oct / 2^2048) 16 i) 0 self (elem oct 128 i) else lineVals 2 false 0 0 self (elem oct 256 i)

/-- R230, R474: the lines of a stager slot. -/
def Stager.vals (g : Stager) (self : Nat) : List (List Val) :=
  (List.range 16).map fun i =>
    let w := (g.lines.getD i 0).toNat
    if g.poisoned.getLsbD i then
      (List.range 16).map fun k => if k == bits w 21 4 then .poison 0 (bits w 0 21) else .num false 0 0
    else lineVals g.fmt.toNat g.mx (g.hdrs.getD i 0).toNat (g.scales.getD i 0).toNat self w

/-- An empty stager slot between the issue and the execution of an MLD. -/
def Stager.empty : Stager := ⟨0, false, List.replicate 16 0, List.replicate 16 0, List.replicate 16 0, 0⟩

/-- R230: a segment as a stager line, with whether it is held poisoned. -/
def Seg.staged (g : Seg) (fmt : Nat) (mx : Bool) (home self : Nat) : BitVec 256 × Bool :=
  if g.bad.isEmpty then (BitVec.ofNat 256 g.str, false)
  else
    let vs := g.vals fmt mx home self
    match (List.range 16).find? fun k => (vs.getD k (.num false 0 0)).isPoison with
    | some k =>
      (match vs.getD k (.num false 0 0) with
        | .poison _ o => (BitVec.ofNat 256 (o + k * 2^21), true)
        | _ => (BitVec.ofNat 256 g.str, false))
    | none => (BitVec.ofNat 256 g.str, false)

/-! ## The block dot product (R232) -/

/-- The default AX80 NaN and poison as operands of an addition. -/
def axNaN : Val := .nan false false 0 0
def axPoison (o : Nat) : Val := .poison (poisonCode AX80 o) o

/-- R232: BlockDot on 16 terms, with NV where it raises it. -/
def blockDot (ts : List (Val × Val)) : Val × Exc :=
  let all := ts.flatMap fun (a, b) => [a, b]
  match all.find? Val.isPoison with
  | some (.poison _ o) => (axPoison o, excNone)
  | _ =>
    if all.any Val.isNaN then (axNaN, if all.any Val.isSig then excSNaN else excNone)
    else
      let ps := ts.map fun (a, b) => xMul a b
      if ps.any fun p => p == .inv then (axNaN, excInv)
      else
        let isInf (n : Bool) (p : XR) : Bool := match p with | .inf m _ => m == n | _ => false
        if ps.any (isInf false) && ps.any (isInf true) then (axNaN, excInv)
        else if ps.any (isInf false) then (.inf false, excNone)
        else if ps.any (isInf true) then (.inf true, excNone)
        else
          match ps with
          | p :: qs => ((qs.foldl (fun a q => xAdd rcRNE a.toVal q.toVal) p).toVal, excNone)
          | [] => (.num false 0 0, excNone)

/-- R232: AxAdd: the code of the sum and NV or NX. -/
def axAdd (c : Nat) (v : Val) : Res :=
  match nanRes AX80 [unpack AX80 c, v] with
  | some r => r
  | none => finish AX80 rcRNE false 0 (xAdd rcRNE (unpack AX80 c) v)

/-- R232: one k-step on an accumulator; `fresh` overwrites it. The flags are NV and NX. -/
def kStep (fresh : Bool) (acc : Vector (BitVec 80) 256) (A B : List (List Val)) : Vector (BitVec 80) 256 × BitVec 7 :=
  (List.range 256).foldl (fun (r : Vector (BitVec 80) 256 × BitVec 7) n =>
    let a := A.getD (n / 16) []
    let b := B.getD (n % 16) []
    let (dot, e) := blockDot (a.zip b)
    let (v, f) := axAdd (if fresh then 0 else (vget acc n).toNat) dot
    (vset r.1 n (BitVec.ofNat 80 v), r.2 ||| (excFlags (e ||| f) &&& 0x11))) (acc, 0)

/-! ## Issue (R221, R222, R229 to R231, R237, R239, R240) -/

/-- R221: the running strand holds accumulator n. -/
def State.holds (s : State) (n : Nat) : Bool := vget s.me.holder n == some s.cur.2

def notHeld : Nat := engCause 0 0

def execAtake (d a : BitVec 5) (s : State) : Out :=
  let n := a.toNat
  .next (match vget s.me.holder n with
    | none => (s.modCore s.cur.1 fun k => { k with holder := vset k.holder n (some s.cur.2) }).retire 4 (s.ctx.setX d 0)
    | some h => s.retire 4 (s.ctx.setX d (if h == s.cur.2 then 0 else BitVec.ofNat 64 (1 + h.1))))

def execAgive (a : BitVec 5) (s : State) : Out :=
  .next (if s.holds a.toNat then (s.modCore s.cur.1 fun k => { k with holder := vset k.holder a.toNat none }).retire 4 s.ctx
    else s.trap notHeld 0)

def execMdesc (d a b : BitVec 5) (s : State) : Out :=
  let v : BitVec 128 := s.ctx.getX b ++ s.ctx.getX a
  .next (if (Desc.of v).bad then s.trap (engCause 3 0) 0 else s.retire 4 (s.ctx.setD d v))

/-- R222: the running strand's instruction enters the unit queue, with its registers captured; `c` are the registers it goes on with. -/
def State.unitIssue (s : State) (i : Instr) (len : Nat) (hold : Bool) (c : Ctx) : State :=
  let u : UnitEntry := { strand := s.cur.2, seq := s.me.seq, instr := i, snap := s.ctx, executing := false, ksteps := 0, flags := 0,
                         lost := (s.strand s.cur.1 s.cur.2).lost, beats := [], struck := [] }
  let s := s.modCore s.cur.1 fun k => { k with seq := k.seq + 1, unitq := k.unitq ++ [u] }
  s.modStrand s.cur.1 s.cur.2 fun x => { x with ctx := c.retire len, hold := if hold then some u.seq else x.hold }

def execMzero (a : BitVec 5) (s : State) : Out :=
  .next (if s.holds a.toNat then s.unitIssue (.mzero a) 4 false s.ctx else s.trap notHeld 0)

def execMld (d : BitVec 5) (s : State) : Out :=
  let e := Desc.of (s.ctx.getD d)
  .next (match s.checkDesc s.cur.1 s.ctx.priv e 16 1 false e.forMma with
    | some (c, v) => s.trap c v
    | none =>
      (s.unitIssue (.mld d) 4 false s.ctx).modStrand s.cur.1 s.cur.2 fun x =>
        { x with slots := match vget x.slots d.toNat with | none => vset x.slots d.toNat (some Stager.empty) | some _ => x.slots })

/-- R231: the checks of one source of MMA at issue; n k-steps. -/
def State.checkSrc (s : State) (a : BitVec 5) (n : Nat) : Option (Nat × Word) :=
  match selKind a with
  | 1 =>
    let d := Desc.of (s.ctx.getD (BitVec.ofNat 5 (a.toNat % 4)))
    s.checkDesc s.cur.1 s.ctx.priv d 16 n false d.forMma
  | 2 =>
    match vget (s.strand s.cur.1 s.cur.2).slots (a.toNat % 4) with
    | none => some (engCause 1 0, 0)
    | some _ => none
  | _ => none

/-- R231: MAT_NOT_STAGED of either source comes before the descriptor checks of either; of two descriptors A's is checked first (log 115). -/
def State.checkMma (s : State) (a b : BitVec 5) (n : Nat) : Option (Nat × Word) :=
  let slot (x : BitVec 5) : Option (Nat × Word) := if selKind x == 2 then s.checkSrc x n else none
  match slot a with
  | some r => some r
  | none =>
    match slot b with
    | some r => some r
    | none =>
      match s.checkSrc a n with
      | some r => some r
      | none => s.checkSrc b n

def execMma (t a b : BitVec 5) (acc : Bool) (ofmt kb : BitVec 4) (s : State) : Out :=
  .next (if !s.holds t.toNat then s.trap notHeld 0
    else match s.checkMma a b (kb.toNat + 1) with
      | some (c, v) => s.trap c v
      | none => s.unitIssue (.mma t a b acc ofmt kb) 8 false s.ctx)

/-- R239: an MDRAIN or MXPQ that may trap at execution keeps its strand from issuing: MODE enables an exception, or the destination has
no poison encoding. -/
def mayTrap (mode : BitVec 9) (noPoison : Bool) : Bool := bits mode.toNat 4 5 ≠ 0 || noPoison

/-- R237: E2M3, E3M2, E2M1, MXINT8 and I32 have no poison encoding. -/
def bare (fmt : Nat) : Bool := (5 ≤ fmt && fmt ≤ 8) || fmt == 13

/-- R237: the rounding code and whether STEP advances. -/
def drainStep (mode : BitVec 9) (rc : BitVec 3) (drop : Bool) : Bool := rcOf mode rc == rcSR || drop

/-- R276: the n bytes that a unit instruction writes by descriptor d would take PBC past its limit. -/
def State.unitOver (s : State) (d : Desc) (n : Nat) : Bool := !s.isLocal s.cur.1 (s.descHome s.cur.1 d) && s.pbcPast n

def execMdrain (t dd b : BitVec 5) (z drop res : Bool) (rc : BitVec 3) (dr : BitVec 2) (q : BitVec 8) (s : State) : Out :=
  let d := Desc.of (s.ctx.getD dd)
  let r := Desc.of (s.ctx.getD (BitVec.ofNat 5 dr.toNat))
  .next (if !s.holds t.toNat then s.trap notHeld 0
    else match s.checkDesc s.cur.1 s.ctx.priv d 16 1 true d.forDrain with
      | some (c, v) => s.trap c v
      | none =>
        match (if res then s.checkDesc s.cur.1 s.ctx.priv r 16 1 true r.forDrain else none) with
        | some (c, v) => s.trap c v
        | none =>
          if s.unitOver d (16 * (2 * d.w + if d.sbf then 2 else 0)) then s.trap (memCause 11 0) 0
          else s.unitIssue (.mdrain t dd b z drop res rc dr q) 8 (mayTrap s.ctx.mode (bare d.fmt)) (s.ctx.bumpStep (drainStep s.ctx.mode rc drop)))

/-- R240: dD is checked before dS, and both before their formats are compared and PR and PC looked at (log 115). -/
def execMxpq (dd ds a : BitVec 5) (rc : BitVec 3) (s : State) : Out :=
  let d := Desc.of (s.ctx.getD dd)
  let e := Desc.of (s.ctx.getD ds)
  let w := (s.ctx.getX a).toNat
  .next (match s.checkDesc s.cur.1 s.ctx.priv d 32 2 false d.forMxpq with
    | some (c, v) => s.trap c v
    | none =>
      match s.checkDesc s.cur.1 s.ctx.priv e 32 2 false e.forMxpq with
      | some (c, v) => s.trap c v
      | none =>
        if d.fmt ≠ e.fmt then s.trap (engCause 2 0) 0
        else if 32 < bits w 0 6 || 32 < bits w 8 6 then s.trap (engCause 4 0) 0
        else if s.unitOver d (32 * (4 * d.w + 1)) then s.trap (memCause 11 0) 0
        else s.unitIssue (.mxpq dd ds a rc) 8 (mayTrap s.ctx.mode false) (s.ctx.bumpStep (rcOf s.ctx.mode rc == rcSR)))

/-! ## Execution -/

/-- A result of unit instruction `seq` of strand t reaches its registers and every younger snapshot of the strand. -/
def State.unitMerge (s : State) (c : CoreId) (t : Fin 4) (seq : Nat) (f : Ctx → Ctx) : State :=
  (s.modCore c fun k => k.mergeUnit t seq f).modStrand c t fun x => x.merge seq f

/-- The unit's head instruction leaves the queue. -/
def State.unitPop (s : State) (c : CoreId) (u : UnitEntry) : State :=
  (s.modCore c fun k => { k with unitq := k.unitq.tail }).modStrand c u.strand fun x =>
    if x.hold == some u.seq then { x with hold := none } else x

/-- R222, R235, R271, R272: the unit may read the vaults `hs` for instruction u: no older store of the strand that overlaps `ps` is still
queued, and no write of the unit or older write of the strand is still on its way to them; none of them is moving (R234) or has answered the
strand RETRY (R59); and what they have answered the core before has returned (R29). -/
def State.unitReads (s : State) (c : CoreId) (u : UnitEntry) (hs : List CoreId) (ps : List (Place × Nat)) : Bool :=
  !s.queuedOver c u.strand u.seq ps && hs.all fun h => !s.away c h && !s.retryFrom c u.strand u.seq h && !s.answers c h &&
    !(s.net.any fun r => r.core == c && r.home == h && !r.toLoad && (r.unit || (r.strand == u.strand && r.seq < u.seq)))

/-- R59: the unit may send writes of instruction u by descriptor d. -/
def State.unitSends (s : State) (c : CoreId) (u : UnitEntry) (d : BitVec 5) : Bool :=
  !s.retryFrom c u.strand u.seq (s.descHome c (Desc.of (u.snap.getD d)))

/-- R228: the places of L lines of the k-steps from a to b − 1, with their headers. -/
def State.descPlaces (s : State) (c : CoreId) (d : Desc) (L a b : Nat) : List (Place × Nat) :=
  let h := s.descHome c d
  (List.range L).flatMap fun i => (List.range (b - a)).flatMap fun j =>
    (d.segment i (a + j)).map (fun o => (Place.vault h o, 1)) ++
      (if d.sbf then [(Place.vault h (d.hdrAt L i (a + j)), 2)] else if d.mx then [(Place.vault h (d.sclAt L i (a + j)), 1)] else [])

/-- The k-step of an MMA's sources, from a to b − 1, that it reads from vaults. -/
def State.srcPlaces (s : State) (c : CoreId) (u : UnitEntry) (a b : Nat) : List (Place × Nat) :=
  let src (r : BitVec 5) : List (Place × Nat) :=
    if selKind r == 1 then s.descPlaces c (Desc.of (u.snap.getD (BitVec.ofNat 5 (r.toNat % 4)))) 16 a b else []
  match u.instr with
  | .mma _ ra rb _ _ _ => src ra ++ src rb
  | _ => []

/-- R235: the places a unit instruction reads from vaults in its next k-step, or whole. -/
def State.unitPlaces (s : State) (c : CoreId) (u : UnitEntry) : List (Place × Nat) :=
  match u.instr with
  | .mld d => s.descPlaces c (Desc.of (u.snap.getD d)) 16 0 1
  | .mma _ _ _ _ _ _ => s.srcPlaces c u u.ksteps (u.ksteps + 1)
  | .mdrain _ _ _ _ _ true _ dr _ => s.descPlaces c (Desc.of (u.snap.getD (BitVec.ofNat 5 dr.toNat))) 16 0 1
  | .mxpq _ ds _ _ => s.descPlaces c (Desc.of (u.snap.getD ds)) 32 0 2
  | _ => []

/-- R235: the beats of those that are still to be read: home and block; one that two k-steps share, as that of a scale, is read in each (log
136). -/
def State.beatsLeft (s : State) (c : CoreId) (u : UnitEntry) : List (CoreId × Nat) :=
  ((s.unitPlaces c u).filterMap fun p => match p.1 with | .vault h o => some (h, o / 32) | _ => none).eraseDups.filter fun p =>
    (beatOf u.beats p.1 (32 * p.2)).isNone

/-- R236: the footprint an MMA or MLD in the queue has not yet read. -/
def State.inFlight (s : State) (c : CoreId) (u : UnitEntry) : List (Place × Nat) :=
  let now := (s.unitPlaces c u).filter fun p => match p.1 with | .vault h o => (beatOf u.beats h o).isNone | _ => false
  match u.instr with
  | .mld _ => now
  | .mma _ _ _ _ _ kb => now ++ s.srcPlaces c u (u.ksteps + 1) (kb.toNat + 1)
  | _ => []

/-- R235, R272: an MMA or MLD that strand t issued before instruction `seq` has operands left to read. -/
def State.operandsLeft (s : State) (c : CoreId) (t : Fin 4) (seq : Nat) : Bool :=
  (s.core c).unitq.any fun u => u.strand == t && u.seq < seq && !(s.inFlight c u).isEmpty

/-- R238: an instruction of the matrix unit that writes memory. -/
def unitWrites : Instr → Bool
  | .mdrain _ _ _ _ _ _ _ _ _ | .mxpq _ _ _ _ => true
  | _ => false

/-- R238: an MDRAIN or MXPQ that strand t issued before instruction `seq` has not executed. -/
def Core.writesLeft (k : Core) (t : Fin 4) (seq : Nat) : Bool := k.unitq.any fun u => u.strand == t && u.seq < seq && unitWrites u.instr

/-- R277: the release condition of instruction `seq` at a scope: 0 core, 1 partition, 2 domain. -/
def State.released (s : State) (c : CoreId) (t : Fin 4) (seq scope : Nat) : Bool :=
  let x := s.strand c t
  s.localDone c t && !s.operandsLeft c t seq && !(s.core c).writesLeft t seq
    && (if scope == 0 then x.spb == 0 else if scope == 1 then x.pbc == x.xpb else x.pbc == 0)

/-- R236: a store of core c that touches `ps` overlaps an in-flight range. -/
def State.interlocked (s : State) (c : CoreId) (ps : List (Place × Nat)) : Bool :=
  (s.core c).unitq.any fun u => (s.inFlight c u).any fun (q, n) => ps.any fun (p, m) => p.meets m q n

/-- R232: the lines of one source of an executing MMA in k-step st, and what reading them records. -/
def State.srcLines (s : State) (c : CoreId) (u : UnitEntry) (a : BitVec 5) (ofmt : BitVec 4) (st : Nat) : List (List Val) × State :=
  let self := s.coord c
  match selKind a with
  | 0 => (octetLines ofmt.toNat (u.snap.octet (a.toNat % 4)) self, s)
  | 1 =>
    let d := Desc.of (u.snap.getD (BitVec.ofNat 5 (a.toNat % 4)))
    let h := s.descHome c d
    let segs := (List.range 16).map fun i => readSeg u.beats h d 16 i st
    (segs.map fun g => g.vals d.fmt d.mx (s.coord h) self, s.badRead c d u.strand u.snap.pc segs)
  | _ => ((match vget (s.strand c u.strand).slots (a.toNat % 4) with
      | some g => g.vals self
      | none => List.replicate 16 (List.replicate 16 (.num false 0 0))), s)

/-- The vaults a unit instruction reads. -/
def State.unitHomes (s : State) (c : CoreId) (u : UnitEntry) : List CoreId :=
  let src (a : BitVec 5) : List CoreId :=
    if selKind a == 1 then [s.descHome c (Desc.of (u.snap.getD (BitVec.ofNat 5 (a.toNat % 4))))] else []
  match u.instr with
  | .mld d => [s.descHome c (Desc.of (u.snap.getD d))]
  | .mma _ a b _ _ _ => src a ++ src b
  | .mdrain _ _ _ _ _ true _ dr _ => [s.descHome c (Desc.of (u.snap.getD (BitVec.ofNat 5 dr.toNat)))]
  | .mxpq _ ds _ _ => [s.descHome c (Desc.of (u.snap.getD ds))]
  | _ => []

/-- The unit may go on with the head of its queue: a stopped core only ends what has begun (R241). -/
def State.unitRuns (s : State) (c : CoreId) (u : UnitEntry) : Bool := ((s.core c).stopped == false || !u.beats.isEmpty) && !s.amending c

/-- R235: the unit reads one more beat for the head of its queue, in no promised order: `left` are those it has not read. -/
def State.unitBeat (s : State) (c : CoreId) (u : UnitEntry) (left : List (CoreId × Nat)) : State :=
  match left[Config.freeNat s.draws % left.length]? with
  | some (h, b) => s.modCore c fun k => { k with unitq := { u with executing := true, beats := u.beats ++ [s.readBeat c h b] } :: k.unitq.tail }
  | none => s

/-- R233: the elements of an accumulator whose product mismatched twice become poison, with a record and an amendment; the flags that forming
them raised stay (log 135). -/
def State.strike (s : State) (c : CoreId) (u : UnitEntry) (t : BitVec 5) : State :=
  let bad := BitVec.ofNat 80 (poisonCode AX80 (s.coord c))
  u.struck.foldl (fun s n =>
    let s := s.modCore c fun k => { k with acc := vset k.acc t.toNat (vset (vget k.acc t.toNat) n bad) }
    let s := s.record c (engCause 5 3) (some u.strand) u.snap.pc 0 4
    s.askAmend (cPart c) .coreHalf (s.tileNo c % 512) (s.tileNo c / 512)) s

/-- MMA_KSTEP: the executing MMA reads a beat of its next k-step, or, once it has them all, performs it; the last one completes it (R232,
R235). A stopped core begins none (R241). -/
def State.mmaKstep (s : State) (c : CoreId) : State :=
  match (s.core c).unitq with
  | u :: _ =>
    match u.instr with
    | .mma t a b acc ofmt kb =>
      if !u.executing || !s.unitRuns c u then s
      else
        match s.beatsLeft c u with
        | p :: ps => if s.unitReads c u (s.unitHomes c u) (s.inFlight c u) then s.unitBeat c u (p :: ps) else s
        | [] =>
          let (A, s) := s.srcLines c u a ofmt u.ksteps
          let (B, s) := s.srcLines c u b ofmt u.ksteps
          let (v, f) := kStep (u.ksteps == 0 && !acc) (vget (s.core c).acc t.toNat) A B
          let u' := { u with ksteps := u.ksteps + 1, flags := u.flags ||| f, beats := [], struck := [] }
          let s := (s.modCore c fun k => { k with acc := vset k.acc t.toNat v, unitq := u' :: k.unitq.tail }).strike c u t
          if u.ksteps == kb.toNat then
            (s.unitMerge c u.strand u.seq fun x => { x with flags := x.flags ||| u'.flags }).unitPop c u'
          else s
    | _ => s
  | [] => s

def execMmaKstep (core : Nat) (s : State) : Out := .next (s.mmaKstep core)

/-- A byte in its place among bytes in ascending address order; of two at one address the later stays behind. -/
def insertCell (p : Host.Cell) : List Host.Cell → List Host.Cell
  | [] => [p]
  | q :: t => if p.1 ≤ q.1 then p :: q :: t else q :: insertCell p t

/-- Bytes in ascending order, cut into the beats they lie in. -/
def byBeat : List Host.Cell → List (List Host.Cell)
  | [] => []
  | p :: ps =>
    match byBeat ps with
    | (q :: qs) :: r => if q.1 / 32 == p.1 / 32 then (p :: q :: qs) :: r else [p] :: (q :: qs) :: r
    | r => [p] :: r

/-- Bytes of line i from its offset o on, in the places the swizzle gives them. -/
def Desc.cells (d : Desc) (i o : Nat) (data : List Byte) : List Host.Cell := data.mapIdx fun n b => (d.swizzle i (o + n), b)

/-- R237, R238: bytes that a unit instruction writes leave the strand of u, each aligned beat one event, in ascending order. -/
def State.unitWrite (s : State) (c : CoreId) (u : UnitEntry) (d : Desc) (cells : List Host.Cell) : State :=
  let h := s.descHome c d
  (byBeat (cells.foldr insertCell [])).foldl (fun s b =>
    let o := (b.headD (0, 0)).1
    s.sendWrite c u.strand { s.mkReq c u.strand u.seq 0 (globalAddr (s.coord h) o) h o b.length (.scatter b) false b.length with unit := true }) s

/-- R237: a residual element. -/
def drainVals (fmt hdr self str : Nat) : List Val :=
  if fmt == 13 then (List.range 16).map fun k => .num (sx 32 (elem str 32 k) < 0) (sx 32 (elem str 32 k)).natAbs 0
  else if fmt == 12 then (List.range 16).map fun k => unpack AX80 (elem str 80 k)
  else lineVals fmt false hdr 0 self str

/-- R237: v + residual with the specials of AxAdd: poison first, then NaN, then opposite infinities; the sum stays exact, and one that is zero
takes its sign by the rounding code in force (R93, log 91). -/
def resAdd (rc : Nat) (v r : Val) : Val × Exc :=
  if v.isPoison then (v, excNone) else if r.isPoison then (r, excNone)
  else if v.isNaN || r.isNaN then (if v.isNaN then v else r, if v.isSig || r.isSig then excSNaN else excNone)
  else match xAdd rc v r with
    | .inv => (axNaN, excInv)
    | x => (x.toVal, excNone)

/-- R237: an element in a destination format other than SBF. -/
def drainEl (fmt rc : Nat) (sat : Bool) (rnd : Nat) (v : Val) : Res :=
  if fmt == 13 then
    (match v with
      | .poison _ _ => (0, excPoison)
      | .nan _ sig _ _ => (0, if sig then excSNaN ||| excInt else excInt)
      | .inf n => (bitsOf 32 (if n then (⟨32, true⟩ : ITy).lo else (⟨32, true⟩ : ITy).hi), excInt)
      | .num n m e =>
        let r := roundInt rc rnd n m e
        if r < (⟨32, true⟩ : ITy).lo then (bitsOf 32 (⟨32, true⟩ : ITy).lo, excInt)
        else if (⟨32, true⟩ : ITy).hi < r then (bitsOf 32 (⟨32, true⟩ : ITy).hi, excInt)
        else (bitsOf 32 r, if sameInt r n m e then excNone else excNX))
  else if fmt == 12 then
    (match v with
      | .poison _ o => (poisonCode AX80 o, excNone)
      | .nan n _ p w => (nanCode AX80 n p w, excNone)
      | .inf n => (AX80.sgn n + AX80.infCode, excNone)
      | .num n m e => roundNum AX80 rcRNE false 0 n m e)
  else packVal fmt rc sat rnd v

/-- R237: one line of the destination: its bit string, its header and the exceptions of its elements. -/
def drainLine (fmt rc : Nat) (sat : Bool) (rnd : Nat → Nat) (self : Nat) (vs : List Val) : Nat × Nat × Exc :=
  if 9 ≤ fmt && fmt ≤ 11 then
    let w := codeW fmt
    let (b, xs) := toSbf w rc rnd self vs
    (b.image w % 2^(16 * w), b.image w / 2^496, xs.foldl (· ||| ·) excNone)
  else
    let rs := vs.mapIdx fun k v => drainEl fmt rc sat (rnd k) v
    (packElems (codeW fmt) (rs.map Prod.fst), 0, rs.foldl (fun a r => a ||| r.2) excNone)

/-- R237 to R239: an MDRAIN executes: it traps and writes nothing, or writes its lines and completes. -/
def State.runDrain (s : State) (c : CoreId) (u : UnitEntry) (t dd b : BitVec 5) (z drop res : Bool) (rcf : BitVec 3) (dr : BitVec 2)
    (q : BitVec 8) : State :=
  let x := u.snap
  let d := Desc.of (x.getD dd)
  let r := Desc.of (x.getD (BitVec.ofNat 5 dr.toNat))
  let self := s.coord c
  let rc := rcOf x.mode rcf
  let col0 := bits (x.getX b).toNat 0 32
  let row0 := bits (x.getX b).toNat 32 32
  let ax (i j : Nat) : Val := unpack AX80 (vget (vget (s.core c).acc t.toNat) (16 * i + j)).toNat
  let segs := if res then (List.range 16).map fun l => readSeg u.beats (s.descHome c r) r 16 l 0 else []
  let rl := segs.map fun g =>
    (drainVals r.fmt g.hdr self g.str).mapIdx fun k v => if g.bad.contains k then .poison 0 (s.coord (s.descHome c r)) else v
  let el (i j : Nat) : Val × Exc :=
    let v := ax i j
    let w1 := (philox x.seed.toNat (col0 + j) (row0 + i) (x.stepc.toNat % 2^32) (s.c3 c)).2.1
    let v := if drop && q.toNat < w1 / 2^24 && !v.isPoison then .num false 0 0 else v
    if res then resAdd (if d.fmt == 12 then rcRNE else rc) v (if r.tr then (rl.getD j []).getD i (.num false 0 0) else (rl.getD i []).getD j (.num false 0 0)) else (v, excNone)
  let line (l : Nat) : Nat × Nat × Exc :=
    let ij (k : Nat) : Nat × Nat := if d.tr then (k, l) else (l, k)
    let es := (List.range 16).map fun k => el (ij k).1 (ij k).2
    let (str, hdr, e) := drainLine d.fmt rc (satOf x.mode)
      (fun k => rndWord x.seed x.stepc (col0 + (ij k).2) (row0 + (ij k).1) (s.c3 c)) self (es.map Prod.fst)
    (str, hdr, es.foldl (fun a y => a ||| y.2) e)
  let ls := (List.range 16).map line
  let es := ls.mapIdx fun l y => (l, y.2.2)
  let s := s.badRead c r u.strand x.pc segs
  match trapKind x.mode (excAll es) with
  | some k =>
    let e : Entry := { seq := u.seq, instr := u.instr, snap := x, parts := [], phase := 0, aux := 0, lost := u.lost }
    (s.unitPop c u).faultAt c u.strand e (arithCause k (codeGrp d.fmt)) (excLanes k es)
  | none =>
    let s := (List.range 16).foldl (fun s l =>
      let (str, hdr, _) := ls.getD l (0, 0, excNone)
      let s := s.unitWrite c u d (d.cells l (d.off l 0) (leBytes str (2 * d.w)))
      if d.sbf then s.unitWrite c u d ((leBytes hdr 2).mapIdx fun n b => (d.hdrAt 16 l 0 + n, b)) else s) s
    let s := if z then s.modCore c fun k => { k with acc := vset k.acc t.toNat (Vector.replicate 256 0) } else s
    (s.unitMerge c u.strand u.seq fun y => y.orFlags (excAll es)).unitPop c u

/-- R240: RoundInt of ± m × 2^e, a code of MXINT8; −128 is the code 0x80 (log 90). -/
def mxIntEl (rc rnd : Nat) (n : Bool) (m : Nat) (e : Int) : Res :=
  let r := roundInt rc rnd n m (e + 6)
  (bitsOf 8 r, if sameInt r n m (e + 6) then excNone else excNX)

/-- R240: element r of a destination line whose scale is t. -/
def mxpqEl (fmt rc rnd sr t q : Nat) : Res :=
  if t == 0xFF then (0, excNone)
  else match codeF fmt with
    | some f =>
      (match unpack f q with
        | .num n m e => roundNum f rc true rnd n m (e + (sr : Int) - (t : Int))
        | _ => (q, excNone))
    | none => mxIntEl rc rnd (sx 8 q < 0) (sx 8 q).natAbs ((sr : Int) - (t : Int) - 6)

/-- R240: MXPQ executes. An element that reads as poison (R234) is delivered as poison in the form its format has (R105, log 92). -/
def State.runMxpq (s : State) (c : CoreId) (u : UnitEntry) (dd ds a : BitVec 5) (rcf : BitVec 3) : State :=
  let x := u.snap
  let d := Desc.of (x.getD dd)
  let e := Desc.of (x.getD ds)
  let w := e.w
  let rc := rcOf x.mode rcf
  let pr := bits (x.getX a).toNat 0 6
  let pc := bits (x.getX a).toNat 8 6
  let rows := (List.range 32).map fun r =>
    (readSeg u.beats (s.descHome c e) e 32 r 0, readSeg u.beats (s.descHome c e) e 32 r 1)
  let scale (r : Nat) : Nat := match rows[r]? with | some (g, _) => g.scale | none => 0
  let q (r k : Nat) : Nat := match rows[r]? with | some (g, h) => if k < 16 then elem g.str w k else elem h.str w (k - 16) | none => 0
  let lost (r : Nat) : Bool := match rows[r]? with | some (g, _) => g.badHead | none => false
  let bad (r k : Nat) : Bool := match rows[r]? with | some (g, h) => if k < 16 then g.bad.contains k else h.bad.contains (k - 16) | none => false
  let top := (List.range pr).foldl (fun m r => if m < scale r && !lost r then scale r else m) 0
  let line (k : Nat) : List Res × Nat :=
    if pc ≤ k || pr == 0 then (List.replicate 32 (0, excNone), 0)
    else if 5 ≤ e.fmt && (List.range pr).any fun r => bad r k then (List.replicate 32 (0, excNone), 0xFF)
    else ((List.range 32).map fun r =>
      if pr ≤ r then (0, excNone) else if bad r k then (0x7F, excNone) else mxpqEl e.fmt rc (rndWord x.seed x.stepc r k (s.c3 c)) (scale r) top (q r k), top)
  let ls := (List.range 32).map line
  let es := ls.mapIdx fun l y => (l, y.1.foldl (fun a r => a ||| r.2) excNone)
  let s := s.badRead c e u.strand x.pc (rows.flatMap fun (g, h) => [g, h])
  match trapKind x.mode (excAll es) with
  | some k =>
    let en : Entry := { seq := u.seq, instr := u.instr, snap := x, parts := [], phase := 0, aux := 0, lost := u.lost }
    (s.unitPop c u).faultAt c u.strand en (arithCause k (codeGrp d.fmt)) (excLanes k es)
  | none =>
    let s := (List.range 32).foldl (fun s l =>
      let (rs, t) := ls.getD l ([], 0)
      let str := packElems w (rs.map Prod.fst)
      let half (n : Nat) : List Host.Cell := d.cells l (d.off l n) (leBytes (str / 2^(16 * w * n)) (2 * w))
      (s.unitWrite c u d (half 0 ++ half 1)).unitWrite c u d [(d.sclAt 32 l 0, BitVec.ofNat 8 t)]) s
    (s.unitMerge c u.strand u.seq fun y => y.orFlags (excAll es)).unitPop c u

/-- R230: MLD executes: the slot takes k-step 0 of the descriptor's lines. -/
def State.runMld (s : State) (c : CoreId) (u : UnitEntry) (dn : BitVec 5) : State :=
  let d := Desc.of (u.snap.getD dn)
  let segs := (List.range 16).map fun i => readSeg u.beats (s.descHome c d) d 16 i 0
  let st := segs.map fun g => g.staged d.fmt d.mx (s.coord (s.descHome c d)) (s.coord c)
  let g : Stager :=
    { fmt := BitVec.ofNat 4 d.fmt, mx := d.mx, lines := st.map Prod.fst, hdrs := segs.map fun g => BitVec.ofNat 16 g.hdr,
      scales := segs.map fun g => BitVec.ofNat 8 g.scale,
      poisoned := BitVec.ofNat 16 ((List.range 16).foldl (fun a i => if (st.getD i (0, false)).2 then a + 2^i else a) 0) }
  let s := s.badRead c d u.strand u.snap.pc segs
  (s.modStrand c u.strand fun x => { x with slots := vset x.slots dn.toNat (some g) }).unitPop c u

/-- R272: MDRAIN and MXPQ start only after every store-queue entry the strand issued before them has left the queue. -/
def State.queueLeft (s : State) (c : CoreId) (u : UnitEntry) : Bool := !((s.strand c u.strand).sq.any fun e => e.seq < u.seq)

/-- R222, R235: an instruction of the unit but an MMA reads its next beat, or, once it has them all, does `run`. -/
def State.unitGo (s : State) (c : CoreId) (u : UnitEntry) (ps : List (Place × Nat)) (run : State) : State :=
  if !s.unitReads c u (s.unitHomes c u) ps then s
  else
    match s.beatsLeft c u with
    | [] => run
    | p :: l => s.unitBeat c u (p :: l)

/-- UNIT_EXECUTE: the unit takes the oldest instruction of its queue: it starts an MMA, or executes any other, whose operands it reads beat by
beat first (R222, R235). Nothing starts while the core is stopped (R241). -/
def State.unitExecute (s : State) (c : CoreId) : State :=
  match (s.core c).unitq with
  | u :: _ =>
    if !s.unitRuns c u then s
    else
      match u.instr with
      | .mma _ _ _ _ _ _ => if u.executing then s else s.modCore c fun k => { k with unitq := { u with executing := true } :: k.unitq.tail }
      | .mzero a => (s.modCore c fun k => { k with acc := vset k.acc a.toNat (Vector.replicate 256 0) }).unitPop c u
      | .mld d => s.unitGo c u (s.inFlight c u) (s.runMld c u d)
      | .mdrain t dd b z drop res rc dr q => if s.queueLeft c u && s.unitSends c u dd then s.unitGo c u [] (s.runDrain c u t dd b z drop res rc dr q) else s
      | .mxpq dd ds a rc => if s.queueLeft c u && s.unitSends c u dd then s.unitGo c u [] (s.runMxpq c u dd ds a rc) else s
      | _ => s
  | [] => s

def execUnitExecute (core : Nat) (s : State) : Out := .next (s.unitExecute core)

end Sys2Proof.Machine
end

