-- ==== Sys2Proof/Machine/Message.lean ====
section
/-!
DEFINITION. Messages and handlers (13_messages): sending, the receive buffer, receives, bindings and handler entry, and the events of the
message class. The issue of each instruction stands beside what it does when it leaves the store queue (`rel…`).
-/
namespace Sys2Proof.Machine

/-! ## A started strand (R125, R126) -/

/-- R125, R126, R127: the registers of a newly started strand n, from the control values of the strand or binding that starts it. -/
def Ctx.fresh (n : Fin 4) (priv bg : Bool) (mode : BitVec 9) (seed stealdom spillbase spilllim tvec savebase : Word) (note : Bool) : Ctx :=
  { Ctx.zero with priv := priv, bg := bg, mode := mode, seed := BitVec.ofNat 64 (seed.toNat % 2^62 + n.1 * 2^62),
                  stealdom := stealdom, spillbase := spillbase, spilllim := spilllim, tvec := tvec, savebase := savebase, note := note }

/-- R125: a strand started with registers `c`. -/
def Strand.started (c : Ctx) (st : SState) (seq : Nat) : Strand := { Strand.idle with st := st, ctx := c, born := seq }

/-! ## Sending (R293 to R295) -/

/-- R294: the destination of a SEND of the running strand; `none` is REMOTE_BOUNDS. -/
def State.sendDest (s : State) (d : BitVec 5) (dk : BitVec 3) : Option CoreId :=
  let me := s.cur.1
  if dk.toNat < 4 then
    (neighbour (s.x0 me) (s.width me) (s.coord me) dk.toNat).map fun c => mkCore (cPart me) (cY c) (cX c)
  else
    let c := (s.ctx.getX d).toNat
    s.coreAt me (bits c 18 3) (bits c 9 9) (bits c 0 9)

/-- R290, R294: the checks of a SEND at issue, that of the tag before that of the destination (log 115). -/
def State.sendIssue (s : State) (i : Instr) (d : BitVec 5) (tag : BitVec 6) (dk : BitVec 3) : State :=
  match s.tagTrap tag false with
  | some c => s.trap (msgCause c 0) 0
  | none =>
    match s.sendDest d dk with
    | none => s.trap (memCause 6 0) 0
    | some h =>
      let s := s.queue i 8 false
      s.modStrand s.cur.1 s.cur.2 fun x => { x with sq := x.sq.map fun e => if e.seq + 1 == s.me.seq then { e with aux := BitVec.ofNat 64 h } else e }

def execSend (d a b c e : BitVec 5) (tag : BitVec 6) (dk : BitVec 3) (s : State) : Out :=
  .next (s.sendIssue (.send d a b c e tag dk) d tag dk)
def execSendv (d a : BitVec 5) (tag : BitVec 6) (dk : BitVec 3) (s : State) : Out := .next (s.sendIssue (.sendv d a tag dk) d tag dk)

/-- R293: a SEND leaves the store queue, as a release at scope .C, into a free entry of the send queue. -/
def State.relSend (s : State) (c : CoreId) (t : Fin 4) (e : Entry) (tag : BitVec 6) (payload : VReg) : Option State :=
  let k := s.core c
  if s.released c t e.seq 0 && k.sendq.length < 32 then
    let m : SendEntry := { id := k.sendId, strand := t, dest := e.aux.toNat, tag := tag, payload := payload, st := .queued }
    some ((s.modCore c fun k => { k with sendq := k.sendq ++ [m], sendId := k.sendId + 1 }).finish c t e.seq id)
  else none

/-- R289: words 0 to 3 as a payload, and a word of one. -/
def payload4 (a b c d : Word) : VReg := BitVec.ofNat 512 (packElems 64 [a.toNat, b.toNat, c.toNat, d.toNat])
def msgWord (v : VReg) (n : Nat) : Word := BitVec.ofNat 64 (elem v.toNat 64 n)

/-- R436: a message that meets a port which carries no traffic, or a part on which the partition is not formed, is discarded with a record. -/
def State.discard (s : State) (c : CoreId) (id : Nat) : State :=
  (s.record c (memCause 6 3) none 0 0 0).modCore c fun k => { k with sendq := k.sendq.filter fun e => e.id ≠ id }

/-- R295: nothing keeps an entry of the send queue from setting out: no earlier one to its destination is unacknowledged, and the core sends. -/
def State.sendable (s : State) (c : CoreId) (m : SendEntry) : Bool :=
  let k := s.core c
  !(k.stopped && !((s.exempt c).isSome && m.dest == c)) && !s.amending c && !(k.sendq.any fun e => e.id < m.id && e.dest == m.dest)

/-- SEND_QUEUE_SEND: R295: an entry sets out; one that has not been sent yet, only after those before it that could be. -/
def State.flightOut (s : State) (c : CoreId) (id : Nat) : State :=
  let k := s.core c
  match k.sendq.find? fun e => e.id == id with
  | none => s
  | some m =>
    if !s.sendable c m || (m.st == .queued && k.sendq.any fun e => e.id < id && e.st == .queued && s.sendable c e) then s
    else if (s.crossStop c m.dest).isSome then s.discard c id
    else
      let k := { k with sendq := k.sendq.map fun e => if e.id == id then { e with st := .sent } else e }
      { s.putCore c k with msgs := s.msgs ++ [{ id := s.ids, src := c, entry := id, dest := m.dest, tag := m.tag, payload := m.payload }],
                           ids := s.ids + 1 }

def execSendQueueSend (core entry : Nat) (s : State) : Out :=
  .next (match (s.core core).sendq.find? fun e => e.id == entry with
    | some m => if m.st == .queued then s.flightOut core entry else s
    | none => s)

/-- MESSAGE_RESEND: R295: a refused entry is sent again 32 cycles after its refusal returned. -/
def execMessageResend (core entry : Nat) (s : State) : Out :=
  .next (match (s.core core).sendq.find? fun e => e.id == entry with
    | some m =>
      (match m.st with
        | .refused t => if t ≤ s.now then s.flightOut core entry else s
        | _ => s)
    | none => s)

/-! ## The receive buffer (R291, R292, R296) -/

/-- R291: general entries in use or held for a refused sender. -/
def Core.generalUsed (k : Core) : Nat := (k.recv.filter fun m => !m.top).length + k.held.length

/-- R291, R296: whether an entry is free for a message of a tag from a sender: with `some true` it is the 128th, which a message of tag 63
takes only where no general entry is free (log 119). -/
def Core.room (k : Core) (tag : BitVec 6) (src : CoreId) : Option Bool :=
  if k.held.any fun h => h.1 == src then some false
  else if k.generalUsed < 127 then some false
  else if tag == 63 && !(k.recv.any fun m => m.top) && (match k.heldTop with | some h => h.1 == src | none => true) then some true
  else none

/-- R296: an entry frees: it is held 64 cycles for the first refused sender. -/
def Core.freed (k : Core) (now : Nat) : Core :=
  match k.refused with
  | r :: rs => { k with refused := rs, held := k.held ++ [(r, now + 64)] }
  | [] => k

/-- R296: likewise the 128th entry (log 104). -/
def Core.freedTop (k : Core) (now : Nat) : Core :=
  match k.refused with
  | r :: rs => { k with refused := rs, heldTop := some (r, now + 64) }
  | [] => k

/-- A message leaves the buffer. -/
def Core.take (k : Core) (m : Msg) (now : Nat) : Core :=
  let k := { k with recv := k.recv.filter fun n => n.arr ≠ m.arr }
  if m.top then k.freedTop now else k.freed now

/-- R29: the messages and notices of one core to another are on one path: nothing sent before number `id` is still on it. -/
def State.pathClear (s : State) (from_ to_ : CoreId) (id : Nat) : Bool :=
  !(s.msgs.any fun m => m.id < id && m.src == from_ && m.dest == to_) && !(s.notices.any fun n => n.id < id && n.origin == from_ && n.src == to_)

/-- R291: the oldest message of a tag. -/
def Core.oldest (k : Core) (tag : BitVec 6) : Option Msg := k.recv.find? fun m => m.tag == tag

def Core.bound (k : Core) (tag : BitVec 6) : Bool := (vget k.bindings tag.toNat).isSome

/-- MESSAGE_ACCEPT: R291, R296, R60: a message reaches its core: it is accepted with the next arrival number, or refused, with its sender
recorded but at a saved core. What the same core has sent it before comes first (R29). A message of the Grefiest controller (R429) comes from no core: its sender word is a free value (log 11), and
a refused one is tried again. A sender that stands in the list already is listed once more (log 137). -/
def State.messageAccept (s : State) (id : Nat) : State :=
  match s.msgs.find? fun m => m.id == id with
  | none => s
  | some f =>
    let k := s.core f.dest
    let host : Bool := 2^21 ≤ f.src
    let note (s : State) (ok : Bool) : State :=
      if host then { s with msgs := if ok then s.msgs.filter (fun m => m.id ≠ id) else s.msgs, draws := s.draws + 1 }
      else
        { s with msgs := s.msgs.filter (fun m => m.id ≠ id),
                 notices := s.notices ++ [{ id := s.ids, origin := f.dest, src := f.src, entry := f.entry, ok := ok }], ids := s.ids + 1 }
    if !s.pathClear f.src f.dest id then s
    else if !host && (s.crossStop f.src f.dest).isSome then { s with msgs := s.msgs.filter fun m => m.id ≠ id }.discard f.src f.entry
    else if k.saved then note s false
    else
      match (if s.moving f.dest then none else k.room f.tag f.src) with
      | some top =>
        let from_ := if host then Config.freeNat s.draws else s.coord f.src
        let m : Msg := { tag := f.tag, payload := f.payload, sender := BitVec.ofNat 21 from_, arr := k.nextArr, top := top }
        let k := { k with recv := k.recv ++ [m], nextArr := k.nextArr + 1,
                          held := match k.held.find? fun h => h.1 == f.src with | some h => k.held.erase h | none => k.held
                          heldTop := if top then none else k.heldTop }
        let k := if k.bound f.tag then k else k.signal 0 none
        note (s.putCore f.dest k) true
      | none =>
        note (s.putCore f.dest { k with refused := if k.refused.length < 32 && !host then k.refused ++ [f.src] else k.refused }) false

def execMessageAccept (msg : Nat) (s : State) : Out := .next (s.messageAccept msg)

/-- R295: what a notice does to the send queue; a refused entry waits until a cycle. -/
def Core.noticed (k : Core) (n : Notice) (again : Nat) : Core :=
  let keep (e : SendEntry) : SendEntry := if e.id == n.entry then { e with st := .refused again } else e
  { k with sendq := if n.ok then k.sendq.filter (fun e => e.id != n.entry) else k.sendq.map keep }

/-- ACCEPTANCE_NOTICE: R295: a notice returns, after what its core has sent before it (R29): the entry leaves the send queue, or waits 32
cycles. -/
def execAcceptanceNotice (notice : Nat) (s : State) : Out :=
  .next (match s.notices.find? fun n => n.id == notice && s.pathClear n.origin n.src n.id with
    | some n =>
      { s with notices := s.notices.filter fun m => m.id ≠ notice }.modCore n.src fun k => k.noticed n (s.now + 32)
    | none => s)

/-- REFUSAL_HOLD_EXPIRE: R296: entries held longer than 64 cycles are free, and held for the next senders refused (log 120). -/
def execRefusalHoldExpire (core : Nat) (s : State) : Out :=
  .next (if (s.core core).saved then s else s.modCore core fun k =>
    let (out, stay) := k.held.partition fun h => h.2 ≤ s.now
    let k := out.foldl (fun k _ => k.freed s.now) { k with held := stay }
    match k.heldTop with
    | some h => if h.2 ≤ s.now then { k with heldTop := none }.freedTop s.now else k
    | none => k)

/-! ## Receives (R292, R298) -/

/-- The tag a waiting receive or LOOPQ takes. -/
def recvTag : Instr → Option (BitVec 6)
  | .recv _ _ _ _ _ t => some t
  | .recvv _ _ t => some t
  | .loopq _ _ _ _ t => some t
  | _ => none

/-- R292: another strand's receive of the tag, issued earlier, waits: a RECV or RECVV once it is at the head of its store queue, a LOOPQ from its
issue (log 121). -/
def Core.recvBefore (k : Core) (tag : BitVec 6) (seq : Nat) : Bool :=
  let w (x : Strand) : Bool :=
    let is (e : Option Entry) : Bool := match e with | some e => e.seq < seq && recvTag e.instr == some tag | none => false
    is x.sq.head? || is x.wait
  w (k.strand 0) || w (k.strand 1) || w (k.strand 2) || w (k.strand 3)

/-- R292: the message a receive takes now. -/
def Core.receive (k : Core) (tag : BitVec 6) (seq : Nat) : Option Msg :=
  if k.bound tag || k.recvBefore tag seq then none else k.oldest tag

def execRecv (d a b c e : BitVec 5) (tag : BitVec 6) (s : State) : Out :=
  .next (match s.tagTrap tag true with
    | some n => s.trap (msgCause n 0) 0
    | none => s.queue (.recv d a b c e tag) 8 true)
def execRecvv (d a : BitVec 5) (tag : BitVec 6) (s : State) : Out :=
  .next (match s.tagTrap tag true with
    | some n => s.trap (msgCause n 0) 0
    | none => s.queue (.recvv d a tag) 8 true)
def execPeek (d a : BitVec 5) (tag : BitVec 6) (s : State) : Out :=
  .next (match s.tagTrap tag false with
    | some n => s.trap (msgCause n 0) 0
    | none => s.queue (.peek d a tag) 8 false)
def execTflush (d : BitVec 5) (tag : BitVec 6) (s : State) : Out :=
  .next (match s.tagTrap tag false with
    | some n => s.trap (msgCause n 0) 0
    | none => s.queue (.tflush d tag) 8 false)

/-- R298: a RECV or RECVV takes its message. -/
def State.relRecv (s : State) (c : CoreId) (t : Fin 4) (e : Entry) (tag : BitVec 6) (f : Msg → Ctx → Ctx) : Option State :=
  match (s.core c).receive tag e.seq with
  | none => none
  | some m => some ((s.modCore c fun k => k.take m s.now).finish c t e.seq (f m))

/-- R298: what RECV writes, later words over earlier ones. -/
def recvWrite (d a b c e : BitVec 5) (m : Msg) (x : Ctx) : Ctx :=
  ((((x.setX d (msgWord m.payload 0)).setX a (msgWord m.payload 1)).setX b (msgWord m.payload 2)).setX c (msgWord m.payload 3)).setX e (m.sender.setWidth 64)

def recvvWrite (d a : BitVec 5) (m : Msg) (x : Ctx) : Ctx := (x.setV d m.payload).setX a (m.sender.setWidth 64)

/-- R298: PEEK's count and the oldest message's word 0. -/
def State.relPeek (s : State) (c : CoreId) (t : Fin 4) (e : Entry) (d a : BitVec 5) (tag : BitVec 6) : State :=
  let ms := (s.core c).recv.filter fun m => m.tag == tag
  s.finish c t e.seq fun x =>
    let x := x.setX a (match ms with | m :: _ => msgWord m.payload 0 | [] => 0)
    if a == d then x else x.setX d (BitVec.ofNat 64 ms.length)

/-- R298: TFLUSH. -/
def State.relTflush (s : State) (c : CoreId) (t : Fin 4) (e : Entry) (d : BitVec 5) (tag : BitVec 6) : State :=
  let ms := (s.core c).recv.filter fun m => m.tag == tag
  (s.modCore c fun k => ms.foldl (fun k m => k.take m s.now) k).finish c t e.seq fun x => x.setX d (BitVec.ofNat 64 ms.length)

/-! ## Handlers (R299 to R303) -/

def execHset (u : Bool) (st : BitVec 2) (a : BitVec 5) (tag : BitVec 6) (s : State) : Out :=
  .next (match s.tagTrap tag false with
    | some n => s.trap (msgCause n 0) 0
    | none => s.queue (.hset u st a tag) 4 false)
def execHsetClr (tag : BitVec 6) (s : State) : Out :=
  .next (match s.tagTrap tag false with
    | some n => s.trap (msgCause n 0) 0
    | none => s.queue (.hsetClr tag) 4 false)
def execHmask (d a : BitVec 5) (s : State) : Out := .next (s.queue (.hmask d a) 4 false)

/-- R299, R301: the binding an HSET makes. -/
def bindingOf (x : Ctx) (u : Bool) (st : BitVec 2) (a : BitVec 5) : Binding :=
  { entry := x.getX a, strand := st.toFin, priv := x.priv && !u, mode := x.mode, seed := x.seed, stealdom := x.stealdom,
    spillbase := x.spillbase, spilllim := x.spilllim, tvec := x.tvec, savebase := x.savebase, note := x.note }

def State.relHset (s : State) (c : CoreId) (t : Fin 4) (e : Entry) (tag : BitVec 6) (b : Option Binding) : State :=
  (s.modCore c fun k => { k with bindings := vset k.bindings tag.toNat b }).finish c t e.seq id

/-- R303: HMASK; in U mode bit 63 is left unchanged. -/
def State.relHmask (s : State) (c : CoreId) (t : Fin 4) (e : Entry) (d a : BitVec 5) : State :=
  let old := (s.core c).dmask
  let v := e.snap.getX a
  let new : Word := if e.snap.priv then v else BitVec.ofNat 64 (v.toNat % 2^63 + old.toNat / 2^63 * 2^63)
  (s.modCore c fun k => { k with dmask := new }).finish c t e.seq fun x => x.setX d old

/-- R299: strand t can take messages of a binding's tag. -/
def Core.canTake (k : Core) (t : Fin 4) (tag : BitVec 6) : Option Binding :=
  match vget k.bindings tag.toNat with
  | some b =>
    let x := k.strand t
    if b.strand == t && !k.dmask.getLsbD tag.toNat && (x.st == .free || (x.st == .retained && x.ctx.priv == b.priv)) then some b else none
  | none => none

/-- R299: the oldest queued message that starts a handler on strand t. -/
def Core.handled (k : Core) (t : Fin 4) : Option (Msg × Binding) :=
  k.recv.findSome? fun m => (k.canTake t m.tag).map fun b => (m, b)

/-- R300: the registers of a handler. -/
def Ctx.handler (c : Ctx) (m : Msg) (b : Binding) : Ctx :=
  let c := (((c.setX 10 (msgWord m.payload 0)).setX 11 (msgWord m.payload 1)).setX 12 (msgWord m.payload 2)).setX 13 (msgWord m.payload 3)
  let c := ((c.setX 14 (m.sender.setWidth 64)).setX 15 (m.tag.setWidth 64)).setV 31 m.payload
  { c with pc := b.entry, hnd := true }

/-- HANDLER_ENTRY: R299, R300: a strand takes a message of a tag bound to it and enters HANDLER; nothing starts while the core is stopped
or saved (R308). -/
def State.handlerEntry (s : State) (c : CoreId) (t : Fin 4) : State :=
  let k := s.core c
  if k.stopped || s.onHold c || s.amending c then s
  else
    match k.handled t with
    | none => s
    | some (m, b) =>
      let k := k.take m s.now
      let x := k.strand t
      let y : Strand :=
        if x.st == .free then
          { Strand.started ((Ctx.fresh t b.priv false b.mode b.seed b.stealdom b.spillbase b.spilllim b.tvec b.savebase b.note).handler m b)
              .handler k.seq with htag := some m.tag }
        else { x with st := .handler, ctx := x.ctx.handler m b, fromRetained := true, htag := some m.tag }
      s.putCore c (k.putStrand t y)

def execHandlerEntry (core strand : Nat) (s : State) : Out := .next (s.handlerEntry core (Fin.ofNat 4 strand))

end Sys2Proof.Machine
end

