-- ==== Sys2Proof/Machine/Barrier.lean ====
section
/-!
DEFINITION. Barrier channels (R304 to R307): groups, membership, arrival, waiting, and the completion of a phase.
-/
namespace Sys2Proof.Machine

/-- R304: the nearest cut at or below k, or 0. -/
def cutLow (m : BitVec 512) : Nat → Nat
  | 0 => 0
  | n + 1 => if m.getLsbD (n + 1) then n + 1 else cutLow m n

/-- R304: the last line before the nearest cut above k, within n lines. -/
def cutHigh (m : BitVec 512) (k n : Nat) : Nat :=
  match (List.range (n - 1 - k)).find? fun j => m.getLsbD (k + 1 + j) with
  | some j => k + j
  | none => n - 1

/-- A group: its first and last partition column, and first and last row. -/
abbrev Group := Nat × Nat × Nat × Nat

/-- R304: the group of a core between cuts, by its partition's width. -/
def groupBy (xcut ycut : BitVec 512) (w x y : Nat) : Group := (cutLow xcut x, cutHigh xcut x w, cutLow ycut y, cutHigh ycut y 512)

def Chan.group (ch : Chan) (w x y : Nat) : Group := groupBy ch.xcut ch.ycut w x y

/-- The change of cuts that made a group, by its free value; none if it has been a group since the partition was formed. -/
def madeBy (w : Nat) (g : Group) : List (Nat × BitVec 512 × BitVec 512) → Option Nat
  | [] => none
  | (d, x, y) :: rest => if groupBy x y w g.1 g.2.2.1 = g then madeBy w g rest else some d

/-- R305: G of a group, in a partition of a width; the spec gives a group that a change of cuts made no G until it completes a phase (log 9). -/
def Chan.gen (ch : Chan) (w : Nat) (g : Group) : BitVec 32 :=
  match ch.gens.find? fun p => p.1 == g with
  | some p => p.2
  | none =>
    match madeBy w g ch.recuts with
    | some d => BitVec.ofNat 32 (Config.barrierG d (g.1 + 512 * (g.2.1 + 512 * (g.2.2.1 + 512 * g.2.2.2))))
    | none => 0

def Chan.setGen (ch : Chan) (g : Group) (v : BitVec 32) : Chan := { ch with gens := (g, v) :: ch.gens.filter fun p => p.1 != g }

/-- The channel n that a core's partition has. -/
def State.chan (s : State) (c : CoreId) (n : Nat) : Chan := match s.ptnOf c with | some q => vget q.chans n | none => Chan.reset

def State.groupOf (s : State) (c : CoreId) (n : Nat) : Group := (s.chan c n).group (s.width c) (cX c - s.x0 c) (cY c)

/-- R305: G of channel n at a core. -/
def State.chanGen (s : State) (c : CoreId) (n : Nat) : BitVec 32 := (s.chan c n).gen (s.width c) (s.groupOf c n)

/-- R305: two cores are of one partition on one part. -/
def State.samePtn (s : State) (c d : CoreId) : Bool := cPart c == cPart d && (s.ptnOf c).map (·.slot) == (s.ptnOf d).map (·.slot)

/-- R305: the members of a core's group in a channel. -/
def State.members (s : State) (c : CoreId) (n : Nat) : List CoreId :=
  (s.cores.filter fun p => p.2.barmask.getLsbD n && s.samePtn c p.1 && s.groupOf p.1 n == s.groupOf c n).map Prod.fst

/-- R304: BUSY: some member core of the channel has an arrival pending. -/
def State.chanBusy (s : State) (c : CoreId) (n : Nat) : Bool :=
  s.cores.any fun p => p.2.barmask.getLsbD n && p.2.arrived.getLsbD n && s.samePtn c p.1

/-- R305: a member core at completion. -/
def Core.phased (k : Core) (n : Nat) : Core := { k with arrived := k.arrived &&& ~~~(BitVec.ofNat 16 (2^n)) }.signal 1 none

/-- BARRIER_PHASE: R305: the phase of a core's group completes when all, or under OR any, of its members have arrived; not while
it has a member that is saved (log 138). -/
def State.barrierPhase (s : State) (c : CoreId) (n : Nat) : State :=
  let ms := s.members c n
  let f (m : CoreId) : Bool := (s.core m).arrived.getLsbD n
  let done : Bool := if (s.chan c n).or then ms.any f else !ms.isEmpty && ms.all f
  if !done || ms.any (fun m => (s.core m).saved) then s
  else
    let g := s.groupOf c n
    let v := s.chanGen c n + 1
    let s := match s.ptnOf c with
      | some q => s.modPtn (cPart c) q.slot fun q => { q with chans := vset q.chans n ((vget q.chans n).setGen g v) }
      | none => s
    ms.foldl (fun s m => s.modCore m fun k => k.phased n) s

def execBarrierPhase (core channel : Nat) (s : State) : Out := .next (if channel < 16 then s.barrierPhase core channel else s)

/-! ## BMASK, BARV, BARW, BART (R307) -/

def execBmask (d a : BitVec 5) (s : State) : Out := .next (s.queue (.bmask d a) 4 false)
def execBarv (d c : BitVec 5) (r : Bool) (s : State) : Out := .next (s.queue (.barv d c r) 4 false)
def execBarw (c b : BitVec 5) (s : State) : Out := .next (s.queue (.barw c b) 4 true)
def execBart (d c b : BitVec 5) (s : State) : Out := .next (s.queue (.bart d c b) 4 true)

def State.relBmask (s : State) (c : CoreId) (t : Fin 4) (e : Entry) (d a : BitVec 5) : State :=
  let k := s.core c
  let new := (e.snap.getX a).setWidth 16
  if k.barmask &&& ~~~new &&& k.arrived ≠ 0 then s.faultAt c t e (msgCause 4 0) 0
  else (s.modCore c fun k => { k with barmask := new, arrived := k.arrived &&& new }).finish c t e.seq fun x => x.setX d (k.barmask.setWidth 64)

/-- R307: the trap of BARV, BARW and BART on a channel the core is no member of. -/
def State.notMember (s : State) (c : CoreId) (t : Fin 4) (e : Entry) : State := s.faultAt c t e (msgCause 5 0) 0

/-- R471: what STL, STFE, BARV.R and PBWAIT receive: deferred store faults. -/
def getsStore (f : PFault) : Bool := !f.cmd

def State.relBarv (s : State) (c : CoreId) (t : Fin 4) (e : Entry) (d n : BitVec 5) (r : Bool) : Option State :=
  let k := s.core c
  if !k.barmask.getLsbD n.toNat then some (s.notMember c t e)
  else if k.arrived.getLsbD n.toNat || (r && !s.released c t e.seq 2) then none
  else
    match (if r then s.takeFaults c t e getsStore else none) with
    | some s => some s
    | none =>
      let g := s.chanGen c n.toNat
      some ((s.modCore c fun k => { k with arrived := k.arrived ||| BitVec.ofNat 16 (2^n.toNat) }).finish c t e.seq fun x => x.setX d (g.setWidth 64))

/-- R307: (G − x) mod 2^32 lies from 1 to 2^31. -/
def genPassed (g : BitVec 32) (x : Word) : Bool :=
  let d := (g - x.setWidth 32).toNat
  1 ≤ d && d ≤ 2^31

def State.relBarw (s : State) (c : CoreId) (t : Fin 4) (e : Entry) (n b : BitVec 5) : Option State :=
  if !(s.core c).barmask.getLsbD n.toNat then some (s.notMember c t e)
  else if genPassed (s.chanGen c n.toNat) (e.snap.getX b) then some (s.finish c t e.seq id) else none

def State.relBart (s : State) (c : CoreId) (t : Fin 4) (e : Entry) (d n b : BitVec 5) : State :=
  if !(s.core c).barmask.getLsbD n.toNat then s.notMember c t e
  else
    let r := genPassed (s.chanGen c n.toNat) (e.snap.getX b)
    s.finish c t e.seq fun x => x.setX d (if r then 1 else 0)

/-! ## The channel blocks in CTRL space (R304) -/

/-- R304: the 64-bit word at an offset of channel n's block. -/
def State.chanRead (s : State) (c : CoreId) (n off : Nat) : Nat :=
  let ch := s.chan c n
  if off == 0 then (if ch.or then 1 else 0) + (if s.chanBusy c n then 2 else 0)
  else if 0x40 ≤ off && off < 0x80 then elem (ch.xcut.toNat % 2^(s.width c) / 2 * 2) 64 ((off - 0x40) / 8)
  else if 0x80 ≤ off && off < 0xC0 then elem (ch.ycut.toNat / 2 * 2) 64 ((off - 0x80) / 8)
  else 0

/-- A 64-bit word of a 512-bit field. -/
def put64 (m : BitVec 512) (n : Nat) (v : Word) : BitVec 512 :=
  BitVec.ofNat 512 (packElems 64 ((List.range 8).map fun i => if i == n then v.toNat else elem m.toNat 64 i))

/-- R304: a write of a channel's block; ignored while BUSY. The groups that new cuts make have an open G (log 9). -/
def State.chanWrite (s : State) (c : CoreId) (n off : Nat) (v : Word) : State :=
  if s.chanBusy c n then s
  else
    match s.ptnOf c with
    | none => s
    | some q =>
      let ch := vget q.chans n
      let x := if 0x40 ≤ off && off < 0x80 then put64 ch.xcut ((off - 0x40) / 8) v else ch.xcut
      let y := if 0x80 ≤ off && off < 0xC0 then put64 ch.ycut ((off - 0x80) / 8) v else ch.ycut
      let cut := x ≠ ch.xcut || y ≠ ch.ycut
      let ch := { ch with or := if off == 0 then v.getLsbD 0 else ch.or, xcut := x, ycut := y,
                          gens := if cut then ch.gens.filter fun p =>
                              ({ ch with xcut := x, ycut := y }.group (30 * q.count) p.1.1 p.1.2.2.1) == p.1 else ch.gens,
                          recuts := if cut then (s.draws + 1, ch.xcut, ch.ycut) :: ch.recuts else ch.recuts }
      { s.modPtn (cPart c) q.slot fun q => { q with chans := vset q.chans n ch } with draws := if cut then s.draws + 1 else s.draws }

end Sys2Proof.Machine
end

