-- ==== Sys2Proof/Machine/Task.lean ====
section
/-!
DEFINITION. Task deques and stealing (14_tasks): records, the deque and its spill ring, the steal lane, FORK, JOIN, TPOP, STEAL and TDONE.
-/
namespace Sys2Proof.Machine

/-! ## Records (R309, R310) -/

/-- R309, R319: the record FORK makes; a SELF join address is recorded with the core's own coordinates. -/
def forkRecord (self : Nat) (x : Ctx) (a b : BitVec 5) : Task :=
  let j := x.getX b
  let xy := if space j == 2 then bits j.toNat 56 3 * 2^18 + bits j.toNat 47 9 * 2^9 + bits j.toNat 38 9 else self
  let jv : Nat := if b = 0 then 0 else vaultOff j * 2^16 + xy * 2^35 + 2^56
  BitVec.ofNat 256 ((x.getX a).toNat % 2^16 + jv + (x.getX 10).toNat * 2^64 + (x.getX 11).toNat * 2^128
    + (x.getX 12).toNat % 2^32 * 2^192 + (x.getX 13).toNat % 2^32 * 2^224)

/-- R309: a record read back from the spill region is kept. -/
def taskOk (r : Task) : Bool := bits r.toNat 57 7 == 0 && (r.getLsbD 56 || bits r.toNat 16 40 == 0)

/-- R310: what a delivered task writes. -/
def deliverTask (d : BitVec 5) (r : Task) (x : Ctx) : Ctx :=
  let n := r.toNat
  let x := (x.setX 10 (BitVec.ofNat 64 (n / 2^64))).setX 11 (BitVec.ofNat 64 (n / 2^128))
  let x := (x.setX 12 (sx64 32 (bits n 192 32))).setX 13 (sx64 32 (bits n 224 32))
  (x.setX 14 (if r.getLsbD 56 then globalAddr (bits n 35 21) (bits n 16 19) else 0)).setX d (BitVec.ofNat 64 (bits n 0 16))

/-! ## The deque and its ring (R311 to R313) -/

/-- R312: slots of a window. -/
def ringSize (base lim : Word) : Nat := (lim.toNat - base.toNat) / 32

def Ring.slot (r : Ring) (i : Nat) : Nat := vaultOff r.base + 32 * ((r.head + i) % ringSize r.base r.lim)

/-- R312: the window in force for a spill: the latched one, or else the issuing strand's. -/
def Core.window (k : Core) (x : Ctx) : Ring :=
  match k.ring with
  | some r => if r.count = 0 then ⟨x.spillbase, x.spilllim, 0, 0⟩ else r
  | none => ⟨x.spillbase, x.spilllim, 0, 0⟩

/-- R311: spilled records. -/
def Core.spilled (k : Core) : Nat := match k.ring with | some r => r.count | none => 0

/-- R313: a push is possible after `more` others that are promised (log 116): the in-core deque has the room, or the window has it for as many
spills of 32 as it takes. -/
def Core.canPush (k : Core) (x : Ctx) (more : Nat) : Bool :=
  let need := k.deque.length + more + 1 - 64
  let r := k.window x
  need == 0 || r.count + (need + 31) / 32 * 32 ≤ ringSize r.base r.lim

/-- What keeps an operation of the task unit from being performed now (log 117). -/
inductive Stuck where
  /-- R313: the push needs a spill, and the window has no 32 free slots. -/
  | full
  /-- R53: the vault that it must reach is behind a broken causeway. -/
  | lost
  /-- R58: that vault is being moved. -/
  | moving

/-- R53, R58: the task unit cannot reach its core's vault. -/
def State.vaultStuck (s : State) (c : CoreId) : Option Stuck :=
  if (s.stops c c).isSome then some .lost else if s.moving c then some .moving else none

/-- R313: the same of a push, which reaches the vault only where it spills. -/
def State.pushStuck (s : State) (c : CoreId) (x : Ctx) : Option Stuck :=
  let k := s.core c
  if k.deque.length < 64 then none else if !k.canPush x 0 then some .full else s.vaultStuck c

/-- R313: and of a pop, which reaches it only where the in-core deque is empty. -/
def State.popStuck (s : State) (c : CoreId) : Option Stuck :=
  let k := s.core c
  if !k.deque.isEmpty || k.spilled = 0 then none else s.vaultStuck c

/-- The address in the vault that an operation of the task unit fails to reach: the ring's newest slot. -/
def State.spillAddr (s : State) (c : CoreId) (x : Ctx) : Word :=
  let r := (s.core c).window x
  globalAddr (s.coord c) (r.slot (r.count - 1))

/-- R313: the oldest 32 in-core records move to the ring's newest end, in one step (log 22). -/
def State.spill (s : State) (c : CoreId) (x : Ctx) : State :=
  let k := s.core c
  let r := k.window x
  let out := k.deque.take 32
  let s := (List.range 32).foldl (fun s i => s.engineWrite c (r.slot (r.count + i)) (leBytes (out.getD i 0).toNat 32) false) s
  s.modCore c fun k => { k with deque := k.deque.drop 32, ring := some { r with count := r.count + 32 } }

/-- R313: a record is pushed at the bottom. -/
def State.pushTask (s : State) (c : CoreId) (x : Ctx) (r : Task) : State :=
  let s := if 64 ≤ (s.core c).deque.length then s.spill c x else s
  s.modCore c fun k => { k with deque := k.deque ++ [r] }

/-- R311: records in the deque, in-core and spilled. -/
def Core.depth (k : Core) : Nat := k.deque.length + k.spilled

/-- The ring with n records left; an empty region releases its latch (R312). -/
def Ring.left (r : Ring) (head n : Nat) : Option Ring :=
  if n = 0 then none else some { r with head := head % ringSize r.base r.lim, count := n }

/-- R309, R313: a spilled record is read at slot i of the ring: nothing, with an error record, where it is discarded. -/
def State.readSpilled (s : State) (c : CoreId) (r : Ring) (i : Nat) : State × Option Task :=
  let k := s.core c
  let o := r.slot i
  let t : Task := BitVec.ofNat 256 (k.vault.le o 32)
  if k.poisonedIn o 32 then (s.record c (memCause 9 3) none 0 (globalAddr (s.coord c) o) 6, none)
  else if taskOk t then (s, some t)
  else (s.record c (msgCause 9 3) none 0 (globalAddr (s.coord c) o) 8, none)

/-- R313: the newest spilled record that is kept. -/
def State.popSpilled (s : State) (c : CoreId) : Nat → State × Option Task
  | 0 => (s, none)
  | n + 1 =>
    match (s.core c).ring with
    | none => (s, none)
    | some r =>
      let (s, t) := s.readSpilled c r (r.count - 1)
      let s := s.modCore c fun k => { k with ring := r.left r.head (r.count - 1) }
      match t with
      | some t => (s, some t)
      | none => s.popSpilled c n

/-- R313: the oldest spilled record that is kept. -/
def State.stealSpilled (s : State) (c : CoreId) : Nat → State × Option Task
  | 0 => (s, none)
  | n + 1 =>
    match (s.core c).ring with
    | none => (s, none)
    | some r =>
      let (s, t) := s.readSpilled c r 0
      let s := s.modCore c fun k => { k with ring := r.left (r.head + 1) (r.count - 1) }
      match t with
      | some t => (s, some t)
      | none => s.stealSpilled c n

/-- R313: a pop takes the newest record. -/
def State.popTask (s : State) (c : CoreId) : State × Option Task :=
  let k := s.core c
  match k.deque.getLast? with
  | some t => (s.putCore c { k with deque := k.deque.dropLast }, some t)
  | none => s.popSpilled c k.spilled

/-- R313: a steal takes the oldest spilled record, and where none remains the top in-core one. -/
def State.stealTask (s : State) (c : CoreId) : State × Option Task :=
  let (s, t) := s.stealSpilled c (s.core c).spilled
  match t with
  | some t => (s, some t)
  | none =>
    let k := s.core c
    match k.deque with
    | t :: ts => (s.putCore c { k with deque := ts }, some t)
    | [] => (s, none)

/-! ## FORK, JOIN, TPOP, TDONE (R319 to R323) -/

/-- R319: the check of a join address at issue; x0 names none. -/
def State.joinCheck (s : State) (b : BitVec 5) : Option Nat :=
  if b = 0 then none else s.check s.cur.1 s.ctx.priv accQuay (s.ctx.getX b) 8 8 true

def execFork (d a b : BitVec 5) (s : State) : Out :=
  .next (match s.joinCheck b with
    | some n => s.trap (memCause n 0) (s.ctx.getX b)
    | none =>
      if bits (s.ctx.getX a).toNat 16 48 ≠ 0 || (s.ctx.getX a).toNat % 4 ≠ 0 then s.trap (msgCause 7 0) 0
      else if s.pbcOver (.fork d a b) then s.trap (memCause 11 0) 0
      else s.queue (.fork d a b) 4 true)

/-- The vault a checked address names, and its offset. -/
def State.vaultAt (s : State) (c : CoreId) (ea : Word) : CoreId × Nat :=
  match s.place c ea with
  | .vault h o => (h, o)
  | _ => (c, vaultOff ea)

/-- R318: AMO.ADD.D with rd = x0 on a join counter leaves the strand. -/
def State.joinAdd (s : State) (c : CoreId) (t : Fin 4) (seq : Nat) (ea v : Word) : State :=
  let (h, o) := s.vaultAt c ea
  s.sendWrite c t (s.mkReq c t seq 0 ea h o 8 (.amo 0 3 v) false 8)

def setEntry (s : State) (c : CoreId) (t : Fin 4) (seq : Nat) (f : Entry → Entry) : State :=
  s.modStrand c t fun x => { x with sq := x.sq.map fun e => if e.seq == seq then f e else e }

/-- Pushes of the core that are promised: by a FORK that waits for its increment, and by a STEAL whose request is out (R322, log 116). -/
def Core.promised (k : Core) : Nat :=
  let f (x : Strand) : Nat := (x.sq.filter fun e => e.phase == 1 && (match e.instr with | .fork _ _ _ | .steal _ _ => true | _ => false)).length
  f (k.strand 0) + f (k.strand 1) + f (k.strand 2) + f (k.strand 3)

/-- R319: FORK at the head of the store queue: its increment first, then its push. A push that must spill into a vault that is not reached
traps, after the increment with the counter incremented (log 117). -/
def State.relFork (s : State) (c : CoreId) (t : Fin 4) (e : Entry) (d a b : BitVec 5) : Option State :=
  let overflow := some (s.faultAt c t e (msgCause 8 0) 0)
  let lost := some (s.faultAt c t e (memCause 10 0) (s.spillAddr c e.snap))
  let push : State :=
    let s := s.pushTask c e.snap (forkRecord (s.coord c) e.snap a b)
    let n := (s.core c).depth
    (s.signal c 3 (some t)).finish c t e.seq fun x => x.setX d (BitVec.ofNat 64 n)
  if e.phase == 0 then
    if !(s.core c).canPush e.snap (s.core c).promised then overflow
    else if b = 0 then
      match s.pushStuck c e.snap with
      | none => some push
      | some .full => overflow
      | some .lost => lost
      | some .moving => none
    else if (match s.pushStuck c e.snap with | some .lost => true | _ => false) then lost
    else some (setEntry (s.joinAdd c t e.seq (e.snap.getX b) 1) c t e.seq fun e => { e with phase := 1 })
  else
    match e.parts with
    | .fault n ea :: _ => some (s.faultAt c t e (memCause n 0) ea)
    | _ :: _ =>
      (match s.pushStuck c e.snap with
        | none => some push
        | some .full => overflow
        | some .lost => lost
        | some .moving => none)
    | [] => none

/-- R320: JOIN checks its counter's address at issue; x0 names address 0 there, for a JOIN without a counter has no effect to give (log 118). -/
def execJoin (a : BitVec 5) (s : State) : Out :=
  .next (match s.check s.cur.1 s.ctx.priv accQuay (s.ctx.getX a) 8 8 true with
    | some n => s.trap (memCause n 0) (s.ctx.getX a)
    | none => s.queue (.join a) 4 true)

/-- An entry at the head of the store queue leaves for a quay and stays outstanding as a load, with the PBC bytes it counts in `aux`. -/
def State.toLoads (s : State) (c : CoreId) (t : Fin 4) (e : Entry) (r : Req) : State :=
  let s := s.countOut c t r.home r.pbc
  let aux : Nat := r.pbc + (if r.spb && r.pbc ≠ 0 then 2^32 else 0) + (if r.xpb && r.pbc ≠ 0 then 2^33 else 0)
  (s.modStrand c t fun x =>
    { x with sq := x.sq.filter fun y => y.seq ≠ e.seq, loads := x.loads ++ [{ e with parts := [.pending], phase := 1, aux := BitVec.ofNat 64 aux }] }).send [r]

/-- R320: JOIN parks at its counter's quay. -/
def State.relJoin (s : State) (c : CoreId) (t : Fin 4) (e : Entry) (a : BitVec 5) : State :=
  let (h, o) := s.vaultAt c (e.snap.getX a)
  s.toLoads c t e (s.mkReq c t e.seq 0 (e.snap.getX a) h o 8 .join true 0)

def execTpop (d : BitVec 5) (s : State) : Out := .next (s.queue (.tpop d) 4 true)

/-- TPOP.S enters the queue with no EMPTY reply counted. -/
def execTpopS (d b : BitVec 5) (s : State) : Out :=
  let t := s.queue (.tpopS d b) 4 true
  .next (setEntry t s.cur.1 s.cur.2 s.me.seq fun e => { e with aux := 0 })

/-- R321: TPOP; nothing while it must read a vault that is being moved (log 117). -/
def State.relTpop (s : State) (c : CoreId) (t : Fin 4) (e : Entry) (d : BitVec 5) : Option State :=
  match s.popStuck c with
  | some .lost => some (s.faultAt c t e (memCause 10 0) (s.spillAddr c e.snap))
  | some _ => none
  | none =>
    match s.popTask c with
    | (s, some r) => some (s.finish c t e.seq (deliverTask d r))
    | (s, none) => some (s.finish c t e.seq fun x => x.setX d allOnes)

/-- R322: the core STEAL names; its TVAL is 0 where it is refused, for STEAL has no effective address (log 128). -/
def State.stealVictim (s : State) (x : Ctx) (c : CoreId) (a : BitVec 5) : Option CoreId :=
  let w := (x.getX a).toNat
  match s.coreAt c (bits w 18 3) (bits w 9 9) (bits w 0 9) with
  | some h => if h == c || cPart h ≠ cPart c then none else some h
  | none => none

def execSteal (d a : BitVec 5) (s : State) : Out :=
  .next (match s.stealVictim s.ctx s.cur.1 a with
    | none => s.trap (memCause 6 0) 0
    | some _ => s.queue (.steal d a) 4 true)

/-- R323: the checks of TDONE at issue, HALT_IN_HANDLER before that of the join address (log 115). -/
def State.tdoneIssue (s : State) (i : Instr) (a : BitVec 5) (halts : Bool) : State :=
  if halts && s.ctx.hnd then s.trap (msgCause 3 0) 0
  else match s.joinCheck a with
    | some n => s.trap (memCause n 0) (s.ctx.getX a)
    | none => if s.pbcOver i then s.trap (memCause 11 0) 0 else s.queue i 4 halts

def execTdone (a : BitVec 5) (s : State) : Out := .next (s.tdoneIssue (.tdone a) a true)
def execTdoneK (a : BitVec 5) (s : State) : Out := .next (s.tdoneIssue (.tdoneK a) a false)

/-- R323: the decrement of a TDONE leaves the strand. -/
def State.decrement (s : State) (c : CoreId) (t : Fin 4) (e : Entry) (a : BitVec 5) : State :=
  if a = 0 then s else s.joinAdd c t e.seq (e.snap.getX a) allOnes

/-- R323: TDONE.K. -/
def State.relTdoneK (s : State) (c : CoreId) (t : Fin 4) (e : Entry) (a : BitVec 5) : Option State :=
  if s.released c t e.seq 2 then some ((s.decrement c t e a).finish c t e.seq id) else none

/-! ## The steal lane (R314 to R316) -/

/-- R314: the rectangle of level k of core c: first column, width, first row, height, clipped to the partition. -/
def State.stealRect (s : State) (c : CoreId) (dom : Word) (k : Nat) : Nat × Nat × Nat × Nat :=
  let W := s.width c
  let x0 := s.x0 c
  let w := if bits dom.toNat (16 * k) 8 = 0 then W else bits dom.toNat (16 * k) 8
  let h := if bits dom.toNat (16 * k + 8) 8 = 0 then 512 else bits dom.toNat (16 * k + 8) 8
  let cx := x0 + (cX c - x0) / w * w
  let cy := cY c / h * h
  (cx, if cx + w ≤ x0 + W then w else x0 + W - cx, cy, if cy + h ≤ 512 then h else 512 - cy)

/-- R314: number of victims at a level, and the victim with a number. -/
def State.victims (s : State) (c : CoreId) (dom : Word) (k : Nat) : Nat :=
  let (_, w, _, h) := s.stealRect c dom k
  w * h - 1

def State.victim (s : State) (c : CoreId) (dom : Word) (k n : Nat) : CoreId :=
  let (cx, w, cy, _) := s.stealRect c dom k
  let own := (cY c - cy) * w + (cX c - cx)
  let i := if n < own then n else n + 1
  mkCore (cPart c) (cy + i / w) (cx + i % w)

/-- R315: one step of the LFSR. -/
def lfsrStep (v : BitVec 16) : BitVec 16 :=
  let b := v.getLsbD 15 ^^ v.getLsbD 13 ^^ v.getLsbD 12 ^^ v.getLsbD 10
  v <<< 1 ||| (if b then 1 else 0)

/-- R315: the level and attempt of the next request, from those of the next in turn; after the last level the search starts again. -/
def State.nextLevel (s : State) (c : CoreId) (dom : Word) : Nat → Nat → Nat → Option (Nat × Nat)
  | 0, _, _ => none
  | n + 1, k, a =>
    if 3 < k then s.nextLevel c dom n 0 0
    else if s.victims c dom k = 0 || (k < 3 && 4 ≤ a) then s.nextLevel c dom n (k + 1) 0
    else some (k, a)

/-- R316: instruction `seq` of strand t is the one that has waited longest for the steal lane; nothing is left of those that have ended. -/
def Core.stealTurn (k : Core) (t : Fin 4) (seq : Nat) : Bool :=
  match k.thieves.filter fun w => (k.strand w.1).sq.any fun e => e.seq == w.2 with
  | [] => true
  | w :: _ => w == (t, seq)

/-- R316: strand t begins to wait for the steal lane. -/
def Core.joinThieves (k : Core) (t : Fin 4) (seq : Nat) : Core :=
  if k.thieves.contains (t, seq) then k else { k with thieves := k.thieves.filter (fun w => w.1 != t) ++ [(t, seq)] }

/-- R316: strand t is served, or has no more to send. -/
def Core.leaveThieves (k : Core) (t : Fin 4) : Core := { k with thieves := k.thieves.filter fun w => w.1 != t }

/-- R321: TPOP.S when no request of it is outstanding (phase even): it pops, gives up, or goes on waiting, in its place among the core's
thieves (R316). One with no victim at any level waits for a record of its own core. Records that a pop discards are gone, whatever follows. -/
def State.relTpopS (s : State) (c : CoreId) (t : Fin 4) (e : Entry) (d b : BitVec 5) : Option State :=
  if e.phase % 2 == 1 then none
  else
  match s.popStuck c with
  | some .lost => some ((s.modCore c fun k => k.leaveThieves t).faultAt c t e (memCause 10 0) (s.spillAddr c e.snap))
  | some _ => none
  | none =>
    match s.popTask c with
    | (s, some r) => some ((s.modCore c fun k => k.leaveThieves t).finish c t e.seq (deliverTask d r))
    | (s', none) =>
      if (s.core c).depth ≠ 0 then some s'
      else if e.snap.getX b ≠ 0 && e.aux == e.snap.getX b then some (s.finish c t e.seq fun x => x.setX d allOnes)
      else if (s.nextLevel c e.snap.stealdom 10 (e.phase / 2 % 4) (e.phase / 8)).isNone || (s.core c).thieves.contains (t, e.seq) then none
      else some ((s.modCore c fun k => k.joinThieves t e.seq).modStrand c t fun x => x.setSt true)

/-- R322: STEAL at the head of the store queue: TASK_OVERFLOW where the own deque could not take one more record; else it waits in its place
among the core's thieves (R316). -/
def State.relSteal (s : State) (c : CoreId) (t : Fin 4) (e : Entry) : Option State :=
  if e.phase ≠ 0 then none
  else if !(s.core c).canPush e.snap (s.core c).promised then
    some ((s.modCore c fun k => k.leaveThieves t).faultAt c t e (msgCause 8 0) 0)
  else if (s.core c).thieves.contains (t, e.seq) then none
  else some ((s.modCore c fun k => k.joinThieves t e.seq).modStrand c t fun x => x.setSt true)

/-- STEAL_SEND: R315, R316: the next request of the strand that has waited longest sets out, at most one every 32 cycles of the core; while a
FORK or another STEAL holds the room that a STEAL needs, it waits. The entry's phase is odd while its request is outstanding, and holds the
level and attempt above that. -/
def State.stealSend (s : State) (c : CoreId) (t : Fin 4) : State :=
  let k := s.core c
  match (k.strand t).sq with
  | [] => s
  | e :: _ =>
    let ready : Bool := e.phase % 2 == 0 && k.thieves.contains (t, e.seq) && k.stealTurn t e.seq && !k.stopped && !s.amending c
      && (match k.stealAt with | some a => a + 32 ≤ s.now | none => true)
    let go (s : State) (v : CoreId) (ph : Nat) : State :=
      let s := setEntry s c t e.seq fun e => { e with phase := ph }
      let s := s.modCore c fun k => { k.leaveThieves t with stealAt := some s.now }
      { s with steals := s.steals ++ [{ id := s.ids, thief := c, strand := t, seq := e.seq, victim := v, reply := none }], ids := s.ids + 1 }
    if !ready then s
    else
      match e.instr with
      | .steal _ a =>
        (match s.stealVictim e.snap c a with
          | some v => if k.canPush e.snap k.promised then go s v 1 else s
          | none => s)
      | .tpopS _ _ =>
        if k.depth ≠ 0 then s
        else
          (match s.nextLevel c e.snap.stealdom 10 (e.phase / 2 % 4) (e.phase / 8) with
            | some (lv, a) =>
              let l := lfsrStep k.lfsr
              let s := s.modCore c fun k => { k with lfsr := l }
              go s (s.victim c e.snap.stealdom lv (l.toNat % s.victims c e.snap.stealdom lv)) (1 + 2 * lv + 8 * (if lv < 3 then a + 1 else 0))
            | none => s)
      | _ => s

def execStealSend (core strand : Nat) (s : State) : Out := .next (s.stealSend core (Fin.ofNat 4 strand))

/-- STEAL_REQUEST: R316: the victim's task unit answers with its oldest record or EMPTY; EMPTY while it is moving, or saved, or fails to read
what it has spilled (R53, log 117). -/
def execStealRequest (req : Nat) (s : State) : Out :=
  .next (match s.steals.find? fun r => r.id == req && r.reply.isNone with
    | some r =>
      let v := r.victim
      let k := s.core v
      let (s, t) :=
        if s.moving v || k.saved then (s, none)
        else
          match k.ring, s.stops v v with
          | some g, some n => if g.count = 0 then s.stealTask v else (s.unreached v n (globalAddr (s.coord v) (g.slot 0)), none)
          | _, _ => s.stealTask v
      { s with steals := s.steals.map fun q => if q.id == req then { q with reply := some t } else q }
    | none => s)

/-- R321, R138: the record of a TPOP.S that the stop of a hold has cancelled goes to the bottom of the deque; one that it has no room for
becomes an error record (log 89), as does one whose spill fails (log 117). -/
def State.mergeTask (s : State) (c : CoreId) (t : Fin 4) (r : Task) : State :=
  let x := (s.strand c t).ctx
  if !(s.core c).canPush x (s.core c).promised then s.record c (msgCause 8 3) none 0 0 0
  else if (s.pushStuck c x).isSome then s.unreached c 10 (s.spillAddr c x)
  else (s.pushTask c x r).signal c 3 none

/-- R58: a record in a reply must wait for the thief's vault, which is on the move: its push needs a spill there (log 117). -/
def State.replyWaits (s : State) (r : Steal) : Bool :=
  let x := s.strand r.thief r.strand
  let push (c : Ctx) : Bool := match s.pushStuck r.thief c with | some .moving => true | _ => false
  match r.reply with
  | some (some _) =>
    (match x.sq.find? fun e => e.seq == r.seq with
      | none => push x.ctx
      | some e => (match e.instr with | .steal _ _ => push e.snap | _ => false))
  | _ => false

/-- STEAL_REPLY: R316, R321, R322: the reply reaches the thief. A STEAL whose room has gone meanwhile traps TASK_OVERFLOW, and its record
becomes an error record (log 116); one whose spill cannot reach its vault traps HOME_UNREACHABLE so (log 117). -/
def State.stealReply (s : State) (id : Nat) : State :=
  match s.steals.find? fun r => r.id == id with
  | none => s
  | some r =>
    match r.reply with
    | none => s
    | some rec =>
      if s.replyWaits r then s else
      let s := { s with steals := s.steals.filter fun q => q.id ≠ id }
      let c := r.thief
      let t := r.strand
      match (s.strand c t).sq.find? fun e => e.seq == r.seq with
      | none => match rec with
        | some k => s.mergeTask c t k
        | none => s
      | some e =>
        match e.instr, rec with
        | .tpopS d _, some k => s.finish c t e.seq (deliverTask d k)
        | .tpopS _ _, none => setEntry s c t e.seq fun e => { e with phase := e.phase - 1, aux := e.aux + 1 }
        | .steal d _, some k =>
          (match s.pushStuck c e.snap with
            | none => ((s.pushTask c e.snap k).signal c 3 (some t)).finish c t e.seq fun x => x.setX d 1
            | some .lost => (s.unreached c 10 (s.spillAddr c e.snap)).faultAt c t e (memCause 10 0) (s.spillAddr c e.snap)
            | some _ => (s.record c (msgCause 8 3) none 0 0 0).faultAt c t e (msgCause 8 0) 0)
        | .steal d _, none => s.finish c t e.seq fun x => x.setX d 0
        | _, _ => s

def execStealReply (req : Nat) (s : State) : Out := .next (s.stealReply req)

end Sys2Proof.Machine
end

