-- ==== Sys2Proof/Machine/Stream.lean ====
section
/-!
DEFINITION. Streams (15_streams, R329 to R347): stream tables, flits and their credits, combining, failure, the endpoints with SATT, SDET,
SPUSH, SPULL and SMARK, vault sinks and the completion block.
-/
namespace Sys2Proof.Machine
open Sys2Proof.Num

/-! ## Tables and ports (R329 to R331) -/

def Core.stream (k : Core) (vs : Nat) : StreamEntry := tget StreamEntry.reset k.streams vs

def State.stream (s : State) (c : CoreId) (vs : Nat) : StreamEntry := (s.core c).stream vs

def State.putStream (s : State) (c : CoreId) (vs : Nat) (e : StreamEntry) : State :=
  s.modCore c fun k => { k with streams := tset e vs k.streams }

/-- R61, R355: the core's partition is held, or about to be. -/
def State.frozen (s : State) (c : CoreId) : Bool :=
  match s.ptnOf c with
  | some q => q.pre.saving || q.pre.held || q.amendHold.isSome
  | none => false

/-- R355, R385, R404: from when a timer of the core's partition that starts now is counted: now, or, in a hold, the start of the hold, whose
length its end adds. -/
def State.timerStart (s : State) (c : CoreId) : Nat :=
  match s.ptnOf c with
  | some q => ((if q.pre.saving || q.pre.held then [q.pre.since] else []) ++ q.amendHold.toList).foldl Nat.min s.now
  | none => s.now

/-- The listed cores of a partition. -/
def State.coresOf (s : State) (p : Nat) (q : Ptn) : List CoreId :=
  (s.cores.map Prod.fst).filter fun c => cPart c == p && 30 * q.first ≤ cX c && cX c < 30 * (q.first + q.count)

/-- R355: a sequencer has begun a chunk, reading it or writing it. -/
def RingRec.inChunk (r : RingRec) : Bool := r.out.isSome || !r.took.isEmpty

/-- R355, R385: an engine, a sequencer or a strait has begun a beat, a chunk or a line of the partition and not ended it. -/
def State.halfDone (s : State) (p : Nat) (q : Ptn) : Bool :=
  (s.fars.any fun m => cPart m.core == p && (s.ptnOf m.core).map (·.slot) == some q.slot && m.parts.any fun f => f.got.isSome)
    || (s.coresOf p q).any (fun c => (s.core c).bulk.any fun m => !m.inside.isEmpty) || q.rings.any fun r => r.2.run && r.2.inChunk

/-- R402, R403: the partition is held once every core but that of the exempt strand has reported, the other strands of that one have
stopped, and nothing is half done. -/
def State.checkHeld (s : State) (p slot : Nat) : State :=
  match (s.wafer p).ptnIn slot with
  | none => s
  | some q =>
    let n := ((s.coresOf p q).filter fun c => (s.core c).saved).length
    let rest : Bool := match q.pre.exempt with
      | some (c, t) => (s.core c).stopped && [(0 : Fin 4), 1, 2, 3].all fun u =>
          let x := s.strand c u
          u == t || !x.waits || x.reexec || x.sq.head?.any fun e => e.seq < x.firm
      | none => true
    if q.pre.saving && n == 15360 * q.count - (if q.pre.exempt.isSome then 1 else 0) && rest && !s.halfDone p q then
      s.modPtn p slot fun q => { q with pre := { q.pre with saving := false, held := true } }
    else s

/-- The partition of a core is held if nothing is left for it. -/
def State.heldNow (s : State) (c : CoreId) : State :=
  match s.ptnOf c with
  | some q => s.checkHeld (cPart c) q.slot
  | none => s

/-- R330: the ports of a set, in port order N E S W L XN XE XS XW. -/
def portsOf (m : Nat) : List Nat := (List.range 9).filter fun p => m.testBit p

def legIn (w : BitVec 32) : List Nat := portsOf (bits w.toNat 0 9)
def legOp (w : BitVec 32) : Nat := bits w.toNat 9 3
def legOut (w : BitVec 32) : List Nat := portsOf (bits w.toNat 12 9)

/-- R330: the logical distance a port leads. -/
def portStep (p : Nat) : Int × Int :=
  match p with
  | 0 => (0, -1) | 1 => (1, 0) | 2 => (0, 1) | 3 => (-1, 0)
  | 5 => (0, -16) | 6 => (16, 0) | 7 => (0, 16) | 8 => (-16, 0)
  | _ => (0, 0)

/-- R330: the input at which a flit of an output arrives. -/
def portBack (p : Nat) : Nat :=
  match p with
  | 0 => 2 | 1 => 3 | 2 => 0 | 3 => 1 | 5 => 7 | 6 => 8 | 7 => 5 | 8 => 6
  | n => n

/-- R330: the core whose router a port leads to; nothing outside the partition on this part. -/
def State.portTo (s : State) (c : CoreId) (p : Nat) : Option CoreId :=
  let x : Int := (cX c : Int) + (portStep p).1
  let y : Int := (cY c : Int) + (portStep p).2
  if (s.x0 c : Int) ≤ x && x < (s.x0 c + s.width c : Nat) && 0 ≤ y && y < 512 then some (mkCore (cPart c) y.toNat x.toNat) else none

/-- R331: the ports named in some IN of the legs in force. -/
def StreamEntry.ins (e : StreamEntry) : List Nat :=
  (List.range 9).filter fun p => (List.range (e.nleg + 1)).any fun n => (legIn (vget e.legs n)).contains p

def StreamEntry.outs (e : StreamEntry) : List Nat :=
  (List.range 9).filter fun p => (List.range (e.nleg + 1)).any fun n => (legOut (vget e.legs n)).contains p

/-- R331, R343: beat slots of the router's pool that are reserved. -/
def Core.poolUsed (k : Core) : Nat :=
  (k.streams.foldl (fun a p => if p.2.valid then a + (p.2.islots + 1) * p.2.ins.length else a) 0)
    + k.eps.foldl (fun a e => a + e.slots + 1) 0

/-- R331: a leg is in order. -/
def legOk (w : BitVec 32) : Bool :=
  let i := legIn w
  let o := legOut w
  !i.isEmpty && !o.isEmpty && legOp w ≤ 4 && (legOp w ≠ 0 || i.length == 1) && !(i.any fun p => p ≠ 4 && o.contains p)

/-! ## Flits and slots (R333, R334) -/

/-- R333: kinds that take the extra slot. -/
def Flit.extra : Flit → Bool
  | .marker _ _ | .fail _ | .bulkEnd _ _ _ _ => true
  | _ => false

/-- Beat slots a flit takes, and whether it (or its renormalise flit) takes the extra slot. -/
def Flit.cost : Flit → Nat × Bool
  | .block _ _ _ rn => (2, rn)
  | .marker _ _ | .fail _ | .bulkEnd _ _ _ _ => (0, true)
  | _ => (1, false)

/-- Beat slots and extra slots that flits take. -/
def costs (fs : List Flit) : Nat × Nat := fs.foldl (fun a f => (a.1 + f.cost.1, a.2 + (if f.cost.2 then 1 else 0))) (0, 0)

/-- A flit fits into n beat slots and one extra slot of which some are used; a block passes one slot beat by beat. -/
def slotFits (n : Nat) (used : Nat × Nat) (f : Flit) : Bool :=
  (f.cost.1 == 0 || used.1 + f.cost.1 ≤ n || (n == 1 && used.1 == 0)) && (!f.cost.2 || used.2 == 0)

/-- R334: slots of an input that hold a flit or whose notice has not returned. -/
def State.slotsUsed (s : State) (c : CoreId) (vs p : Nat) : Nat × Nat :=
  let b := costs (vget (s.stream c vs).bufs p)
  let ns := s.slotNotes.filter fun n => n.core == c && n.vs == vs && n.port == p
  (b.1 + (ns.filter fun n => !n.extra).length, b.2 + (ns.filter fun n => n.extra).length)

/-- R334: the slots of a flit at a port have emptied: their notices set out. -/
def State.freeSlots (s : State) (c : CoreId) (vs p : Nat) (f : Flit) : State :=
  if p == 4 then s
  else
    let ns : List Bool := List.replicate f.cost.1 false ++ (if f.cost.2 then [true] else [])
    { s with slotNotes := s.slotNotes ++ ns.mapIdx (fun i x => { id := s.ids + i, core := c, vs := vs, port := p, extra := x }),
             ids := s.ids + ns.length }

/-- SLOT_FREE_NOTICE: R334: a notice returns, and with it the credit. -/
def execSlotFreeNotice (notice : Nat) (s : State) : Out := .next { s with slotNotes := s.slotNotes.filter fun n => n.id ≠ notice }

/-- The sink endpoint of a core on a VS, its source endpoint, and a change of one endpoint. -/
def Core.sink (k : Core) (vs : Nat) : Option Endpoint := k.eps.find? fun e => e.vs.toNat == vs && e.role ≠ 0
def Core.source (k : Core) (vs : Nat) : Option Endpoint := k.eps.find? fun e => e.vs.toNat == vs && e.role == 0
def Core.modEp (k : Core) (vs : Nat) (role : BitVec 2) (f : Endpoint → Endpoint) : Core :=
  { k with eps := k.eps.map fun e => if e.vs.toNat == vs && e.role == role then f e else e }

/-- R345: a data flit or FAIL, and a marker. -/
def Flit.isMarker : Flit → Bool
  | .marker _ _ => true
  | _ => false

/-- R345: an input has delivered its part of the current position; what it still owes of a position that has failed is none of it. -/
def StreamEntry.delivered (e : StreamEntry) (p : Nat) : Bool :=
  match ((vget e.bufs p).drop (if e.skip.getLsbD p then 1 else 0)).head? with | some f => !f.isMarker | none => false

/-- R345: whether some live input of a combining leg has delivered its part of the current position and another has not. While the FAIL of a
position that has failed is still to be sent, that position is the current one. -/
def StreamEntry.partly (e : StreamEntry) : Bool :=
  let w := vget e.legs e.leg
  let live := (legIn w).filter fun p => !e.marked.getLsbD p
  e.failing.isNone && legOp w ≠ 0 && live.any e.delivered && !(live.all e.delivered)

/-- The watchdog starts when a position becomes partly delivered. -/
def StreamEntry.watch (e : StreamEntry) (now : Nat) : StreamEntry :=
  { e with since := if e.partly then (match e.since with | some t => some t | none => some now) else none }

/-- R334: whether a flit may leave by an output: a credit for the next router's slot, room at an attached sink, or the router itself for
addressed beats and bulk end flits. -/
def State.credit (s : State) (c : CoreId) (vs p : Nat) (f : Flit) : Bool :=
  if p == 4 then
    match f with
    | .addressed _ _ _ _ _ _ _ | .bulkEnd _ _ _ _ => true
    | _ =>
      match (s.core c).sink vs with
      | some ep => slotFits ep.slots (costs ep.queue) f
      | none => false
  else
    match s.portTo c p with
    | none => false
    | some d =>
      let e := s.stream d vs
      e.valid && e.ins.contains (portBack p) && slotFits e.islots (s.slotsUsed d vs (portBack p)) f

/-- A flit arrives at an input; a marked port discards it (R345). -/
def State.arrive (s : State) (c : CoreId) (vs p : Nat) (f : Flit) : State :=
  let e := s.stream c vs
  if e.marked.getLsbD p then s.freeSlots c vs p f
  else s.putStream c vs ({ e with bufs := vset e.bufs p (vget e.bufs p ++ [f]) }.watch (s.timerStart c))

/-- A flit leaves by an output. -/
def State.emitOne (s : State) (c : CoreId) (vs p : Nat) (f : Flit) : State :=
  if p == 4 then
    match f with
    | .addressed _ _ _ _ _ _ _ | .bulkEnd _ _ _ _ => s.modCore c fun k => { k with addrq := k.addrq ++ [f] }
    | _ =>
      s.modCore c fun k =>
        match k.sink vs with
        | some ep => k.modEp vs ep.role fun e => { e with queue := e.queue ++ [f] }
        | none => k
  else
    match s.portTo c p with
    | some d => s.arrive d vs (portBack p) f
    | none => s

/-- R334: a flit leaves by every output once each has its credit. -/
def State.emit (s : State) (c : CoreId) (vs : Nat) (outs : List Nat) (f : Flit) : Option State :=
  if outs.all fun p => s.credit c vs p f then some (outs.foldl (fun s p => s.emitOne c vs p f) s) else none

/-- R343, R345: flits of the source endpoint enter the router's L input while it has room; a marked L input discards them. -/
def State.fillL (s : State) (c : CoreId) (vs : Nat) : Nat → State
  | 0 => s
  | n + 1 =>
    let e := s.stream c vs
    match (s.core c).source vs with
    | none => s
    | some ep =>
      match ep.queue with
      | [] => s
      | f :: fs =>
        if e.valid && (e.marked.getLsbD 4 || (e.ins.contains 4 && slotFits e.islots (costs (vget e.bufs 4)) f)) then
          let s := s.modCore c fun k => k.modEp vs 0 fun e => { e with queue := fs }
          (s.arrive c vs 4 f).fillL c vs n
        else s

/-- As many steps as a source endpoint can hold flits; none in a hold (R355). -/
def State.fill (s : State) (c : CoreId) (vs : Nat) : State := if s.frozen c then s else s.fillL c vs 40

/-! ## Combining (R335 to R340) -/

/-- R335: a leg's operation accepts the kind of a flit. -/
def opTakes (op : Nat) : Flit → Bool
  | .marker _ _ | .fail _ => true
  | .laneF _ _ => op == 0 || op == 2 || op == 4
  | .laneI _ _ => op == 0 || op == 3
  | .block _ _ _ _ => op == 0 || op == 1
  | .addressed _ _ _ _ _ _ _ | .bulkEnd _ _ _ _ => op == 0

/-- R345: the kind of a position: 0 lane-F, 1 lane-I, 2 block. -/
def Flit.kind : Flit → Option Nat
  | .laneF _ _ => some 0
  | .laneI _ _ => some 1
  | .block _ _ _ _ => some 2
  | .fail k => some k
  | _ => none

def opKind (op : Nat) : Nat := if op == 1 then 2 else if op == 3 then 1 else 0

/-- R336: one lane of a combine. -/
def laneOp (op a b : Nat) : Res :=
  if op == 2 then fAdd F32 rcRNE 0 a b
  else if op == 4 then fMinMax F32 true a b
  else
    let v := sx 32 a + sx 32 b
    let t : ITy := ⟨32, true⟩
    if v < t.lo then (bitsOf 32 t.lo, excSat) else if t.hi < v then (bitsOf 32 t.hi, excSat) else (bitsOf 32 v, excNone)

/-- R336: two beats combine lane by lane: lanes and exceptions. -/
def laneBeat (op : Nat) (a b : BitVec 256) : BitVec 256 × BitVec 7 :=
  let rs := (List.range 8).map fun k => laneOp op (elem a.toNat 32 k) (elem b.toNat 32 k)
  (BitVec.ofNat 256 (packElems 32 (rs.map Prod.fst)), excFlags (rs.foldl (fun a r => a ||| r.2) excNone))

/-- R338: beat 0 of a sum as its router first sends it: exponent and eight mantissas. -/
def early (a b : Nat × List Int) : Nat × List Int :=
  if a.1 == 0x3FF then a else if b.1 == 0x3FF then b else if a.1 == 0 then b else if b.1 == 0 then a
  else
    let x := if a.1 < b.1 then b.1 else a.1
    let q := (List.range 8).map fun k => shrRne (a.2.getD k 0) (x - a.1) + shrRne (b.2.getD k 0) (x - b.1)
    let big : Int := ((2^31 : Nat) : Int)
    let grow := q.any fun v => big - 1 < v || v < -big
    let x := if grow then x + 1 else x
    if 1022 < x then (0x3FF, List.replicate 8 0) else (x, if grow then q.map (shrRne · 1) else q)

/-- The result of a combine: the flit, exceptions of this router's own, blocks poisoned, and renormalise flits sent. -/
structure Combined where
  flit : Flit
  own : BitVec 7
  poisoned : Nat
  renorm : Nat

/-- R336 to R340: the left fold of a position's flits, in port order; `self` is the origin of a block the router poisons. -/
def combine (op self : Nat) : List Flit → Combined
  | [] => ⟨.fail (opKind op), 0, 0, 0⟩
  | f :: fs =>
    match f with
    | .laneF d g =>
      let step (a : BitVec 256 × BitVec 7 × BitVec 7) (h : Flit) : BitVec 256 × BitVec 7 × BitVec 7 :=
        match h with
        | .laneF d g => let r := laneBeat op a.1 d; (r.1, a.2.1 ||| g ||| r.2, a.2.2 ||| r.2)
        | _ => a
      let r := fs.foldl step (d, g, 0)
      ⟨.laneF r.1 r.2.1, r.2.2, 0, 0⟩
    | .laneI d g =>
      let step (a : BitVec 256 × BitVec 7 × BitVec 7) (h : Flit) : BitVec 256 × BitVec 7 × BitVec 7 :=
        match h with
        | .laneI d g => let r := laneBeat op a.1 d; (r.1, a.2.1 ||| g ||| r.2, a.2.2 ||| r.2)
        | _ => a
      let r := fs.foldl step (d, g, 0)
      ⟨.laneI r.1 r.2.1, r.2.2, 0, 0⟩
    | .block x q wb rn =>
      if op == 0 then ⟨f, 0, 0, 0⟩ else
      let step (a : (Nat × List Int) × Wb × Bool × Nat) (h : Flit) : (Nat × List Int) × Wb × Bool × Nat :=
        match h with
        | .block x q wb rn =>
          let r := wbAdd self a.2.1 wb
          (early a.1 (x, q), r.1, a.2.2.1 || rn, a.2.2.2 + (if r.2.1 then 1 else 0))
        | _ => a
      let r := fs.foldl step ((x, q), wb, rn, 0)
      let same : Bool := r.1 == (r.2.1.x, r.2.1.q.take 8)
      let rn : Bool := !same && !(r.2.1.x == 0 && !r.2.2.1)
      ⟨.block r.1.1 r.1.2 r.2.1 rn, 0, r.2.2.2, if rn then 1 else 0⟩
    | f => ⟨f, 0, 0, 0⟩

/-- A count that saturates at 16 bits. -/
def sat16 (n : Nat) : Nat := if 65535 < n then 65535 else n

/-- The heads of some inputs leave their slots. -/
def State.popHeads (s : State) (c : CoreId) (vs : Nat) (ps : List Nat) : State :=
  ps.foldl (fun s p =>
    let e := s.stream c vs
    match vget e.bufs p with
    | f :: fs => (s.putStream c vs { e with bufs := vset e.bufs p fs }).freeSlots c vs p f
    | [] => s) s

/-- R345: a port is marked: what it has delivered is discarded. -/
def State.markPort (s : State) (c : CoreId) (vs p : Nat) : State :=
  let e := s.stream c vs
  let fs := vget e.bufs p
  let s := s.putStream c vs ({ e with marked := e.marked ||| BitVec.ofNat 9 (2^p), bufs := vset e.bufs p [] }.watch (s.timerStart c))
  (fs.foldl (fun s f => s.freeSlots c vs p f) s).fill c vs

/-- The entry after a step of its current leg, with its watchdog started afresh. -/
def State.afterStep (s : State) (c : CoreId) (vs : Nat) (ps : List Nat) (f : StreamEntry → StreamEntry) : State :=
  let s := s.popHeads c vs ps
  (s.putStream c vs ({ f (s.stream c vs) with since := none }.watch (s.timerStart c))).fill c vs

/-- R335: LEG after a marker. -/
def StreamEntry.stepLeg (e : StreamEntry) (isEnd : Bool) : StreamEntry :=
  { e with leg := if isEnd then 0 else (e.leg + 1) % (e.nleg + 1) }

/-- R345: a FWD leg has forwarded a position of a kind. -/
def StreamEntry.forwarded (e : StreamEntry) (k : Nat) : StreamEntry :=
  if legOp (vget e.legs e.leg) == 0 then { e with lastKinds := vset e.lastKinds e.leg k } else e

/-- R345: a leg all of whose inputs are marked sends one FAIL and one END. -/
def State.deadLeg (s : State) (c : CoreId) (vs : Nat) : State :=
  let e := s.stream c vs
  let w := vget e.legs e.leg
  let d := e.dead / 4^e.leg % 4
  let bump (e : StreamEntry) : StreamEntry := { e with dead := e.dead + 4^e.leg }
  if d == 0 then
    match s.emit c vs (legOut w) (.fail (if legOp w == 0 then vget e.lastKinds e.leg else opKind (legOp w))) with
    | some s => s.afterStep c vs [] fun e => { bump e with fails := sat16 (e.fails + 1) }
    | none => s
  else if d == 1 then
    match s.emit c vs (legOut w) (.marker true 0) with
    | some s => s.afterStep c vs [] fun e => (bump e).stepLeg true
    | none => s
  else s

/-- R345: the FAIL of a position that has failed sets out. -/
def State.owedFail (s : State) (c : CoreId) (vs : Nat) : State :=
  let e := s.stream c vs
  match e.failing with
  | none => s
  | some k =>
    match s.emit c vs (legOut (vget e.legs e.leg)) (.fail k) with
    | some s => s.afterStep c vs [] fun e => { e with failing := none, fails := sat16 (e.fails + 1) }
    | none => s

/-- R345: an input's flit of a position that has failed already is discarded; a marker there tells that it has none. -/
def State.skipHead (s : State) (c : CoreId) (vs p : Nat) (marker : Bool) : State :=
  let clear (e : StreamEntry) : StreamEntry := { e with skip := e.skip &&& ~~~ BitVec.ofNat 9 (2^p) }
  if marker then s.putStream c vs ((clear (s.stream c vs)).watch (s.timerStart c)) else s.afterStep c vs [p] clear

/-- R345: flits of a kind the leg refuses have arrived: their ports are marked, and the position fails with what the other inputs deliver
of it. Where no input is left, `deadLeg` sends the FAIL. -/
def State.refuseKind (s : State) (c : CoreId) (vs : Nat) (live : List Nat) (heads : List (Nat × Flit)) : State :=
  let e := s.stream c vs
  let op := legOp (vget e.legs e.leg)
  let bad := (heads.filter fun h => !opTakes op h.2).map Prod.fst
  let held := heads.filter fun h => opTakes op h.2 && !h.2.isMarker
  let rest := live.filter fun p => !bad.contains p
  let none_ := rest.filter fun p => !(heads.any fun h => h.1 == p)
  let k := (held.findSome? fun h => h.2.kind).getD (opKind op)
  let s := bad.foldl (fun s p => s.markPort c vs p) s
  if rest.isEmpty then s
  else s.afterStep c vs (held.map Prod.fst) fun e => { e with failing := some k, skip := none_.foldl (fun m p => m ||| BitVec.ofNat 9 (2^p)) e.skip }

/-- STREAM_POSITION: R335 to R340, R345: the current leg of an entry takes one step: it forwards or combines a position, ends the leg on
its markers, or marks a port that delivered a kind it refuses. -/
def State.streamPosition (s : State) (c : CoreId) (vs : Nat) : State :=
  let s := s.fill c vs
  let e := s.stream c vs
  let w := vget e.legs e.leg
  let op := legOp w
  let live := (legIn w).filter fun p => !e.marked.getLsbD p
  let heads := live.filterMap fun p => (vget e.bufs p).head?.map fun f => (p, f)
  if !e.valid || s.frozen c then s
  else if e.failing.isSome then s.owedFail c vs
  else if live.isEmpty then s.deadLeg c vs
  else if heads.any fun h => e.skip.getLsbD h.1 then
    heads.foldl (fun s h => if e.skip.getLsbD h.1 then s.skipHead c vs h.1 h.2.isMarker else s) s
  else if heads.any fun h => !opTakes op h.2 then s.refuseKind c vs live heads
  else if heads.length ≠ live.length then s
  else if heads.all fun h => h.2.isMarker then
    let isEnd := heads.any fun h => match h.2 with | .marker b _ => b | _ => false
    let user : BitVec 16 := match heads with | (_, .marker _ u) :: _ => u | _ => 0
    match s.emit c vs (legOut w) (.marker isEnd user) with
    | some s => s.afterStep c vs live fun e => e.stepLeg isEnd
    | none => s
  else if heads.any fun h => h.2.isMarker then s
  else
    let failKind := heads.findSome? fun h => match h.2 with | .fail k => some k | _ => none
    if failKind.isSome || live.length ≠ (legIn w).length then
      let k := match failKind with
        | some k => k
        | none => (heads.findSome? fun h => h.2.kind).getD (opKind op)
      match s.emit c vs (legOut w) (.fail k) with
      | some s => s.afterStep c vs live fun e => { e.forwarded k with fails := sat16 (e.fails + 1) }
      | none => s
    else
      let r := combine op (s.coord c) (heads.map Prod.snd)
      match s.emit c vs (legOut w) r.flit with
      | none => s
      | some s =>
        let s := s.afterStep c vs live fun e =>
          { (match r.flit.kind with | some k => e.forwarded k | none => e) with
              renorm := sat16 (e.renorm + r.renorm), poison := sat16 (e.poison + r.poisoned), flags := e.flags ||| r.own }
        if r.poisoned = 0 then s else s.record c (engCause 12 3) none 0 0 0

def execStreamPosition (core vs : Nat) (s : State) : Out := .next (if vs < 64 then s.streamPosition core vs else s)

/-- STREAM_WATCHDOG: R345: a position has been partly delivered for WDOG × 1,500 cycles: the inputs that have not delivered it fail. -/
def State.streamWatchdog (s : State) (c : CoreId) (vs : Nat) : State :=
  let e := s.stream c vs
  match e.since with
  | none => s
  | some t =>
    if e.valid && !s.frozen c && e.partly && t + 1500 * e.wdog ≤ s.now then
      let late := (legIn (vget e.legs e.leg)).filter fun p => !e.marked.getLsbD p && !e.delivered p
      late.foldl (fun s p => s.markPort c vs p) s
    else s

def execStreamWatchdog (core vs : Nat) (s : State) : Out := .next (if vs < 64 then s.streamWatchdog core vs else s)

/-! ## Writes of an entry (R329, R331) -/

/-- R329: word n of an entry. -/
def StreamEntry.word (e : StreamEntry) (n : Nat) : Nat :=
  match n with
  | 0 => (if e.valid then 1 else 0) + 2 * e.nleg + 8 * e.leg + 2^8 * e.islots + 2^12 * e.wdog
  | 1 => (vget e.legs 0).toNat + 2^32 * (vget e.legs 1).toNat
  | 2 => (vget e.legs 2).toNat + 2^32 * (vget e.legs 3).toNat
  | _ => e.renorm + 2^16 * e.poison + 2^32 * e.fails + 2^48 * e.flags.toNat

/-- STREAM_ENTRY_VALIDATE: R331: a write of W0 with VALID = 1 takes effect when every check holds. -/
def State.validateEntry (s : State) (c : CoreId) (vs : Nat) (w0 : Word) : State :=
  let e := s.stream c vs
  let n := { e with nleg := bits w0.toNat 1 2, islots := bits w0.toNat 8 4, wdog := bits w0.toNat 12 14 }
  let legs := (List.range (n.nleg + 1)).map fun i => vget n.legs i
  let ok := n.islots ≠ 0 && n.wdog ≠ 0 && n.wdog ≤ 10000 && legs.all legOk
    && ((n.ins ++ n.outs).all fun p => p == 4 || (s.portTo c p).isSome)
    && (s.core c).poolUsed + (n.islots + 1) * n.ins.length ≤ 192
  if e.valid || !ok then s else s.putStream c vs { n with valid := true, leg := 0 }

/-- STREAM_ENTRY_INVALIDATE: R331: a write of W0 with VALID = 0. -/
def State.invalidateEntry (s : State) (c : CoreId) (vs : Nat) (w0 : Word) : State :=
  let e := s.stream c vs
  let s := (List.range 9).foldl (fun s p => (vget e.bufs p).foldl (fun s f => s.freeSlots c vs p f) s) s
  let s := s.putStream c vs { StreamEntry.reset with nleg := bits w0.toNat 1 2, islots := bits w0.toNat 8 4, wdog := bits w0.toNat 12 14,
                                                     legs := e.legs }
  s.modCore c fun k => { k with eps := k.eps.filter fun ep => ep.vs.toNat ≠ vs }

/-- R14: a reserved OP leaves the field as it was. -/
def legKeep (old new : BitVec 32) : BitVec 32 :=
  if 4 < legOp new then BitVec.ofNat 32 (bits new.toNat 0 9 + legOp old * 2^9 + bits new.toNat 12 9 * 2^12) else new

/-- R329, R331: a write of word n of an entry. -/
def State.writeEntry (s : State) (c : CoreId) (vs n : Nat) (v : Word) : State :=
  let e := s.stream c vs
  let leg (n b : Nat) : BitVec 32 := legKeep (vget e.legs n) (BitVec.ofNat 32 (bits v.toNat b 21))
  match n with
  | 0 => if v.getLsbD 0 then s.validateEntry c vs v else s.invalidateEntry c vs v
  | 1 => if e.valid then s else s.putStream c vs { e with legs := vset (vset e.legs 0 (leg 0 0)) 1 (leg 1 32) }
  | 2 => if e.valid then s else s.putStream c vs { e with legs := vset (vset e.legs 2 (leg 2 0)) 3 (leg 3 32) }
  | _ => s

def execStreamEntryValidate (core vs w0 : Nat) (s : State) : Out :=
  .next (if vs < 64 && w0 % 2 == 1 then s.validateEntry core vs (BitVec.ofNat 64 w0) else s)
def execStreamEntryInvalidate (core vs w0 : Nat) (s : State) : Out :=
  .next (if vs < 64 && w0 % 2 == 0 then s.invalidateEntry core vs (BitVec.ofNat 64 w0) else s)

/-! ## SATT, SDET (R341 to R343) -/

/-- R341: fields of an attachment word. -/
def attVs (w : Word) : Nat := bits w.toNat 0 6
def attRole (w : Word) : BitVec 2 := BitVec.ofNat 2 (bits w.toNat 6 2)
def attFmt (w : Word) : Nat := bits w.toNat 8 4
def attRc (w : Word) : BitVec 3 := BitVec.ofNat 3 (bits w.toNat 12 3)
def attSlots (w : Word) : Nat := bits w.toNat 16 5

/-- R343: the field checks of an attachment word. -/
def attBad (w : Word) : Bool :=
  bits w.toNat 21 43 ≠ 0 || attRole w == 3 || attSlots w == 0 || 16 < attSlots w || attRc w == 7 || (w.getLsbD 15 && attRole w == 0)

def attFmtBad (w : Word) : Bool := !(attFmt w == 0 || attFmt w == 13 || (9 ≤ attFmt w && attFmt w ≤ 11))

/-- R342: the check of a sink record's address. -/
def State.recordCheck (s : State) (ea : Word) : Option Nat :=
  if space ea ≠ 1 then some 0 else s.check s.cur.1 s.ctx.priv accQuay ea 32 32 true

def execSatt (d a b : BitVec 5) (s : State) : Out :=
  let w := s.ctx.getX a
  let i : Instr := .satt d a b
  .next (
    if attBad w then s.illegal i cILL_FIELD
    else if attFmtBad w then s.trap (engCause 6 0) 0
    else
      match (if attRole w == 2 then s.recordCheck (s.ctx.getX b) else none) with
      | some n => s.trap (memCause n 0) (s.ctx.getX b)
      | none =>
        if attRole w ≠ 2 && b ≠ 0 then s.illegal i cILL_FIELD
        else
          let t := s.queue i 4 false
          t.putCtx (t.ctx.bumpStep (attRole w == 2 && rcOf s.ctx.mode (attRc w) == rcSR)))

def execSdet (d a : BitVec 5) (s : State) : Out :=
  let w := s.ctx.getX a
  .next (if attBad w then s.illegal (.sdet d a) cILL_FIELD else if attFmtBad w then s.trap (engCause 6 0) 0 else s.queue (.sdet d a) 4 false)

/-- R342: the sink reads its record; what stands in the record's reserved bits makes no difference (log 100). -/
def Core.readRecord (k : Core) (e : Endpoint) : Endpoint :=
  { e with w0 := BitVec.ofNat 64 (k.vault.le e.record 8), w1 := BitVec.ofNat 64 (k.vault.le (e.record + 8) 8), dptr := 0, hptr := 0 }

/-- R343: SATT. Its read of the record meets HOME_UNREACHABLE as any access does (R53). -/
def State.relSatt (s : State) (c : CoreId) (t : Fin 4) (e : Entry) (d a b : BitVec 5) : State :=
  let k := s.core c
  let w := e.snap.getX a
  let vs := attVs w
  let done (s : State) (n : Nat) : State := s.finish c t e.seq fun x => x.setX d (BitVec.ofNat 64 n)
  if !(k.stream vs).valid then done s 1
  else if k.eps.any fun p => p.vs.toNat == vs && p.role == attRole w then done s 2
  else if 8 ≤ k.eps.length then done s 3
  else if 192 < k.poolUsed + attSlots w + 1 then done s 4
  else if attRole w == 2 && (s.stops c c).isSome then s.faultAt c t e (memCause ((s.stops c c).getD 0) 0) (e.snap.getX b)
  else
    let ep : Endpoint :=
      { vs := BitVec.ofNat 6 vs, role := attRole w, fmt := BitVec.ofNat 4 (attFmt w), rc := attRc w, root := w.getLsbD 15, slots := attSlots w,
        strand := t, mode := e.snap.mode, seed := e.snap.seed, step := e.snap.stepc, record := vaultOff (e.snap.getX b), w0 := 0, w1 := 0,
        queue := [], written := 0, dptr := 0, hptr := 0, inc := false, pcnt := 0, rncnt := 0, xflags := 0, ended := false, beats := [] }
    done (s.putCore c { k with eps := k.eps ++ [if ep.role == 2 then k.readRecord ep else ep] }) 0

/-- R343: positions among the flits of an endpoint. -/
def positions (fs : List Flit) : Nat := (fs.filter fun f => f.kind.isSome).length

/-- R343: an endpoint is detached. -/
def Core.detach (k : Core) (ep : Endpoint) : Core := { k with eps := k.eps.filter fun e => !(e.vs == ep.vs && e.role == ep.role) }

/-- R343: SDET; a source waits until every pushed flit has left its queue. -/
def State.relSdet (s : State) (c : CoreId) (t : Fin 4) (e : Entry) (d a : BitVec 5) : Option State :=
  let w := e.snap.getX a
  let done (s : State) (v : Word) : State := s.finish c t e.seq fun x => x.setX d v
  match (s.core c).eps.find? fun p => p.vs.toNat == attVs w && p.role == attRole w && p.strand == t with
  | none => some (done s allOnes)
  | some ep =>
    if ep.role == 0 then
      if ep.queue.isEmpty then some (done (s.modCore c fun k => k.detach ep) 0) else none
    else some (done (s.modCore c fun k => k.detach ep) (BitVec.ofNat 64 (positions ep.queue)))

/-! ## SPUSH, SMARK, SPULL (R344) -/

def execSpush (d a : BitVec 5) (h : Bool) (s : State) : Out := .next (s.queue (.spush d a h) 4 false)
def execSpull (d a b : BitVec 5) (h : Bool) (s : State) : Out := .next (s.queue (.spull d a b h) 4 true)
def execSmark (a b : BitVec 5) (e : Bool) (s : State) : Out := .next (s.queue (.smark a b e) 4 false)

/-- R344: STREAM_NOT_ATTACHED. -/
def State.notAttached (s : State) (c : CoreId) (t : Fin 4) (e : Entry) : State := s.faultAt c t e (engCause 7 0) 0

/-- R73: ILL_FIELD at an instruction that has left its issue. -/
def State.fieldFault (s : State) (c : CoreId) (t : Fin 4) (e : Entry) : State := s.faultAt c t e cILL_FIELD (illTval e.instr)

/-- The strand's endpoint of a role on a VS. -/
def Core.mine (k : Core) (t : Fin 4) (vs : Nat) (role : BitVec 2) : Option Endpoint :=
  k.eps.find? fun p => p.vs.toNat == vs && p.role == role && p.strand == t

/-- A flit enters a source endpoint's queue when it has room. -/
def State.pushFlit (s : State) (c : CoreId) (t : Fin 4) (e : Entry) (ep : Endpoint) (f : Flit) : Option State :=
  if slotFits ep.slots (costs ep.queue) f then
    some (((s.modCore c fun k => k.modEp ep.vs.toNat 0 fun p => { p with queue := p.queue ++ [f] }).fill c ep.vs.toNat).finish c t e.seq id)
  else none

/-- R344: SPUSH. -/
def State.relSpush (s : State) (c : CoreId) (t : Fin 4) (e : Entry) (v a : BitVec 5) (h : Bool) : Option State :=
  match (s.core c).mine t (bits (e.snap.getX a).toNat 0 6) 0 with
  | none => some (s.notAttached c t e)
  | some ep =>
    let data := (e.snap.getV v).toNat
    let half : BitVec 256 := BitVec.ofNat 256 (elem data 256 (if h then 1 else 0))
    if ep.fmt == 0 then s.pushFlit c t e ep (.laneF half 0)
    else if ep.fmt == 13 then s.pushFlit c t e ep (.laneI half 0)
    else if h then some (s.fieldFault c t e)
    else
      let w := codeW ep.fmt.toNat
      let b := Wb.ofSbf w (Sbf.ofImage w data)
      s.pushFlit c t e ep (.block b.x (b.q.take 8) b false)

/-- R344: SMARK. -/
def State.relSmark (s : State) (c : CoreId) (t : Fin 4) (e : Entry) (a b : BitVec 5) (isEnd : Bool) : Option State :=
  match (s.core c).mine t (bits (e.snap.getX a).toNat 0 6) 0 with
  | none => some (s.notAttached c t e)
  | some ep => s.pushFlit c t e ep (.marker isEnd ((e.snap.getX b).setWidth 16))

/-- What a sink makes of a position: its data plane bytes, an SBF header, exceptions by element, and whether it is poisoned. -/
structure Position where
  data : List Byte
  hdr : Option Nat
  es : List Exc
  poisoned : Bool
  failed : Bool

/-- R346: a failed position of a kind at a sink of a format. -/
def failedPosition (fmt kind self : Nat) : Position :=
  let lanes (n : Nat) : List Byte := leBytes (packElems 32 (List.replicate n (poisonCode F32 self))) (4 * n)
  if fmt == 13 then ⟨List.replicate (if kind == 2 then 64 else 32) 0, none, [], true, true⟩
  else if fmt == 0 then ⟨lanes (if kind == 2 then 16 else 8), none, [], true, true⟩
  else if kind == 2 then ⟨leBytes self (2 * codeW fmt), some 255, [], true, true⟩
  else ⟨leBytes self 32, none, [], true, true⟩

/-- R341, R344, R346: a flit at a sink as a position; a kind the sink does not accept is a failed position. -/
def position (fmt rc : Nat) (sat : Bool) (rnd : Nat → Nat) (self : Nat) : Flit → Option Position
  | .laneF d g => if fmt == 0 then some ⟨leBytes d.toNat 32, none, [g.setWidth 11], false, false⟩ else some (failedPosition fmt 0 self)
  | .laneI d g => if fmt == 13 then some ⟨leBytes d.toNat 32, none, [g.setWidth 11], false, false⟩ else some (failedPosition fmt 1 self)
  | .fail k => some (failedPosition fmt k self)
  | .block _ _ wb _ =>
    if fmt == 13 then some (failedPosition fmt 2 self)
    else if fmt == 0 then
      let rs := wb.vals.mapIdx fun k v => packVal 0 rc sat (rnd k) v
      some ⟨leBytes (packElems 32 (rs.map Prod.fst)) 64, none, rs.map Prod.snd, wb.x == 0x3FF, false⟩
    else
      let w := codeW fmt
      let (b, es) := toSbf w rc rnd self wb.vals
      some ⟨leBytes (b.image w % 2^(16 * w)) (2 * w), some (b.image w / 2^496), es, b.e == 255, false⟩
  | _ => none

/-- R346: how a position, or a round, changes a sink's counts. -/
def Endpoint.counted (e : Endpoint) (p : Position) (rn : Bool) : Endpoint :=
  { e with inc := e.inc || p.failed, pcnt := sat16 (if p.poisoned then e.pcnt + 1 else e.pcnt), rncnt := sat16 (if rn then e.rncnt + 1 else e.rncnt),
           xflags := e.xflags ||| excFlags (p.es.foldl (· ||| ·) excNone) }

def Flit.rn : Flit → Bool
  | .block _ _ _ rn => rn
  | _ => false

/-- A round of an endpoint has ended. -/
def Endpoint.fresh (e : Endpoint) : Endpoint := { e with inc := false, pcnt := 0, rncnt := 0, xflags := 0, dptr := 0, hptr := 0 }

/-- R346: a sink with ROOT reports. -/
def State.report (s : State) (c : CoreId) (ep : Endpoint) : State :=
  if ep.root then { s with reports := s.reports ++ [{ id := s.ids, core := c, inc := ep.inc, pcnt := ep.pcnt }], ids := s.ids + 1 } else s

/-- R344: vd after SPULL of a position: whole for a block, else a half. -/
def pulled (p : Position) (h : Bool) (old : VReg) : VReg :=
  let v := leNat p.data
  match p.hdr with
  | some x => BitVec.ofNat 512 (v + x * 2^496)
  | none =>
    if p.data.length == 64 then BitVec.ofNat 512 v
    else if h then BitVec.ofNat 512 (elem old.toNat 256 0 + v * 2^256) else BitVec.ofNat 512 (v + elem old.toNat 256 1 * 2^256)

/-- R344: SPULL. -/
def State.relSpull (s : State) (c : CoreId) (t : Fin 4) (e : Entry) (v a d : BitVec 5) (h : Bool) : Option State :=
  let vs := bits (e.snap.getX a).toNat 0 6
  match (s.core c).mine t vs 1 with
  | none => some (s.notAttached c t e)
  | some ep =>
    let pop (s : State) (f : Endpoint → Endpoint) : State :=
      s.modCore c fun k => k.modEp vs 1 fun p => f { p with queue := p.queue.tail }
    match ep.queue with
    | [] => none
    | .marker isEnd u :: _ =>
      let s := pop s (fun p => if isEnd then p.fresh else p)
      let s := if isEnd then s.report c ep else s
      some (s.finish c t e.seq fun x => x.setX d (BitVec.ofNat 64 ((if isEnd then 2 else 1) + u.toNat * 2^32)))
    | f :: _ =>
      let rc := rcOf ep.mode ep.rc
      let x := e.snap
      match position ep.fmt.toNat rc (satOf x.mode) (fun k => rndWord x.seed x.stepc k 0 (s.c3 c)) (s.coord c) f with
      | none => none
      | some p =>
        let isBlock : Bool := f.kind == some 2
        if h && isBlock then some (s.fieldFault c t e)
        else
          let es := if isBlock then p.es.mapIdx fun k x => (k, x) else []
          match trapKind x.mode (excAll es) with
          | some k => some (s.faultAt c t e (arithCause k (codeGrp ep.fmt.toNat)) (excLanes k es))
          | none =>
            let conv : Bool := isBlock && !p.failed && rc == rcSR
            let s := pop s (fun q => q.counted p f.rn)
            some (s.finish c t e.seq fun x =>
              let x := (x.orFlags (excAll es)).bumpStep conv
              (x.setV v (pulled p h (x.getV v))).setX d (if p.failed then 3 else 0))

/-! ## Vault sinks and the completion block (R342, R346, R347) -/

/-- An engine's write event that also sets the poison bits of the blocks it touches (R256). -/
def State.poisonWrite (s : State) (h : CoreId) (off : Nat) (data : List Byte) (fe : Bool) : State :=
  let k := (s.core h).writeEvent off data
  let bs := (List.range ((off % 32 + data.length + 31) / 32)).map fun n => off / 32 + n
  let k := { k with poison := naddAll bs k.poison,
                    empty := if fe then k.empty.filter fun w => !(off / 8 ≤ w && 8 * w < off + data.length) else k.empty }
  (s.putCore h k).wake h

/-- The vault offset of a sink's next data bytes, and of its next header. -/
def Endpoint.dataAt (e : Endpoint) : Nat := bits e.w0.toNat 0 19 + e.dptr
def Endpoint.hdrAt (e : Endpoint) : Nat := (bits e.w0.toNat 32 19 + e.hptr) % 2^19

/-- R281: the write events of a position at a vault sink: offset and bytes. -/
def Endpoint.writes (e : Endpoint) (p : Position) : List (Nat × List Byte) :=
  ((events e.dataAt p.data.length 4).map fun (o, m) => (o, (p.data.drop (o - e.dataAt)).take m))
    ++ (match p.hdr with | some x => [(e.hdrAt, leBytes x 2)] | none => [])

/-- The oldest position of a vault sink is done: the pointers move on. -/
def Endpoint.past (e : Endpoint) (p : Position) (rn : Bool) : Endpoint :=
  { e.counted p rn with written := e.written + 1, dptr := e.dptr + p.data.length, hptr := if p.hdr.isSome then e.hptr + 2 else e.hptr
                        queue := e.queue.tail, beats := [] }

/-- R342, R346: a vault sink performs one of the write events of its oldest position, in a free order (log 22). One whose vault cannot be
reached stays unwritten, with a record, and its round is INCOMPLETE (log 99). -/
def State.sinkPosition (s : State) (c : CoreId) (ep : Endpoint) (f : Flit) : State :=
  let vs := ep.vs.toNat
  let rc := rcOf ep.mode ep.rc
  let rnd (k : Nat) : Nat := rndWord ep.seed ep.step k (ep.written % 2^32) (s.c3 c)
  let put (s : State) (g : Endpoint → Endpoint) : State := s.modCore c fun k => k.modEp vs 2 g
  match position ep.fmt.toNat rc (satOf ep.mode) rnd (s.coord c) f with
  | none => put s fun q => { q with queue := q.queue.tail }
  | some p =>
    if bits ep.w1.toNat 0 19 < ep.dataAt + p.data.length then put s fun q => { q with inc := true, queue := q.queue.tail }
    else
      let ws := ep.writes p
      let left := (List.range ws.length).filter fun n => !ep.beats.contains n
      let n := left.getD (Config.freeNat s.draws % left.length) 0
      let fe := ep.w1.getLsbD 37
      let s := { s with draws := s.draws + 1 }
      let s := match ws[n]? with
        | some (o, bs) =>
          (match s.stops c c with
            | some k => (s.unreached c k (globalAddr (s.coord c) o)).modCore c fun k => k.modEp vs 2 fun q => { q with inc := true }
            | none => if p.poisoned && ep.fmt == 13 then s.poisonWrite c o bs fe else s.engineWrite c o bs fe)
        | none => s
      put s fun q => if left.length ≤ 1 then q.past p f.rn else { q with beats := n :: q.beats }

/-- SINK_WRITE: the oldest flit of a vault sink, unless it is an END. A hold stops it (R404), and a move of the core makes it wait (R58). -/
def State.sinkWrite (s : State) (c : CoreId) (vs : Nat) : State :=
  match (s.core c).eps.find? fun e => e.vs.toNat == vs && e.role == 2 with
  | none => s
  | some ep =>
    if s.frozen c || s.away c c then s
    else
      match ep.queue with
      | [] => s
      | .marker true _ :: _ => s
      | f :: _ => s.sinkPosition c ep f

def execSinkWrite (core vs : Nat) (s : State) : Out := .next (s.sinkWrite core vs)

/-- R342: W2 of a sink record. -/
def Endpoint.w2 (e : Endpoint) : Nat := (if e.inc then 1 else 0) + 2^16 * e.pcnt + 2^32 * e.rncnt + 2^48 * e.xflags.toNat

/-- SINK_END: R342, R346: the END of a vault sink: W2 of its record, then SEM, then the report sets out; the record is read again. Where the
vault cannot be reached W2 stays unwritten, with a record, and the sink's record as it was read (log 99). -/
def State.sinkEnd (s : State) (c : CoreId) (vs : Nat) : State :=
  match (s.core c).eps.find? fun e => e.vs.toNat == vs && e.role == 2 with
  | none => s
  | some ep =>
    match ep.queue with
    | .marker true _ :: fs =>
      if s.frozen c || s.away c c then s
      else
        let reach : Bool := (s.stops c c).isNone
        let s := match s.stops c c with
          | some n => s.unreached c n (globalAddr (s.coord c) (ep.record + 16))
          | none => s.engineWrite c (ep.record + 16) (leBytes ep.w2 8) false
        let s := if ep.w1.getLsbD 36 then s.semGot c (bits ep.w1.toNat 32 4) else s
        let s := s.report c ep
        s.modCore c fun k => k.modEp vs 2 fun q =>
          let q := { q.fresh with queue := fs }
          if reach then k.readRecord q else q
    | _ => s

def execSinkEnd (core vs : Nat) (s : State) : Out := .next (s.sinkEnd core vs)

/-- R347: the completion word. -/
def Completion.word (q : Completion) : Nat := (if q.inc then 1 else 0) + 2^16 * q.pcnt

/-- R327, R347: the completion word is written at DONE; a vault that cannot be reached gives a record (R53, log 99). -/
def State.writeDone (s : State) (lead : CoreId) (done : Word) (v : Nat) : State :=
  match s.place lead done with
  | .vault h o => (match s.stops lead h with | some n => s.unreached lead n done | none => s.engineWrite h o (leBytes v 8) false)
  | _ => s

/-- R347: the last root writes the completion word at DONE and increments DSEM of the lead core. -/
def State.complete_launch (s : State) (lead : CoreId) (q : Completion) : State := (s.writeDone lead q.done q.word).semLater lead q.dsem

/-- R58: an engine's access of core c to the vault at an address is answered RETRY. -/
def State.placeAway (s : State) (c : CoreId) (ea : Word) : Bool := match s.place c ea with | .vault h _ => s.away c h | _ => false

/-- ROOT_REPORT: R347: a report reaches the completion block. -/
def State.rootReport (s : State) (id : Nat) : State :=
  match s.reports.find? fun r => r.id == id with
  | none => s
  | some r =>
    let on := s
    let s := { s with reports := s.reports.filter fun x => x.id ≠ id }
    match s.ptnOf r.core with
    | none => s
    | some q =>
      if on.frozen r.core || on.placeAway (leadCore (cPart r.core) q) q.comp.done then on
      else if q.comp.roots = 0 then s.record r.core (engCause 9 3) none 0 0 8
      else
        let m := { q.comp with roots := q.comp.roots - 1, inc := q.comp.inc || r.inc, pcnt := sat16 (q.comp.pcnt + r.pcnt) }
        let s := s.modPtn (cPart r.core) q.slot fun q => { q with comp := m }
        if m.roots = 0 then s.complete_launch (leadCore (cPart r.core) q) m else s

def execRootReport (report : Nat) (s : State) : Out := .next (s.rootReport report)

/-- R347: W0 of the completion block, and a write of it. -/
def Completion.w0 (q : Completion) : Nat := q.roots + 2^8 * q.dsem + (if q.inc then 2^12 else 0) + 2^16 * q.pcnt

def Completion.write (q : Completion) (w0 : Nat) : Completion := { q with roots := bits w0 0 8, dsem := bits w0 8 4, inc := false, pcnt := 0 }

/-- COMPLETION_BLOCK_WRITE: R347: the supervisor writes W0. -/
def execCompletionBlockWrite (part slot w0 : Nat) (s : State) : Out :=
  .next (s.modPtn part slot fun q => { q with comp := q.comp.write w0 })

end Sys2Proof.Machine
end

