-- ==== Sys2Proof/Machine/Bulk.lean ====
section
/-!
DEFINITION. Bulk copies (R348 to R351): BCOPY, BFILL, BSTRIDE, the bulk engine, and broadcast through a stream.
-/
namespace Sys2Proof.Machine

/-! ## Commands (R348, R349) -/

/-- R348: BSTRIDE's shape and pitches. -/
def rowBytes (shape : Word) : Nat := bits shape.toNat 0 16
def rowCount (shape : Word) : Nat := bits shape.toNat 16 16
def pitch (p : Word) (dst : Bool) : Word := sx64 32 (bits p.toNat (if dst then 32 else 0) 32)

/-- R348: rows of a command: one for BCOPY and BFILL. -/
def bulkRows (kind : Nat) (base len pitches : Word) (dst : Bool) : List (Word × Nat) :=
  if kind == 2 then (List.range (rowCount len)).map fun r => (base + BitVec.ofNat 64 r * pitch pitches dst, rowBytes len)
  else [(base, len.toNat)]

/-- R348: field limits. -/
def bulkFieldBad (kind : Nat) (len pitches : Word) (bc : Bool) (count : Nat) : Bool :=
  if kind == 2 then rowBytes len % 32 ≠ 0 || pitches.toNat % 32 ≠ 0 || bits pitches.toNat 32 32 % 32 ≠ 0
  else len.toNat % 32 ≠ 0 || 0x80000 < len.toNat || (bc && (count = 0 || 245760 < count))

/-- The failing byte of a row of bytes: the first past the near store or the vault, or the row's first. -/
def failByte (n : Nat) (ea : Word) : Word :=
  match n with
  | 3 => ea + BitVec.ofNat 64 (0x10000 - nearOff ea)
  | 4 => ea + BitVec.ofNat 64 (0x80000 - vaultOff ea)
  | _ => ea

/-- R348: the check of a destination's or source's address and of every byte of its rows. -/
def State.bulkCheck (s : State) (near self store : Bool) (base : Word) (rows : List (Word × Nat)) : Option (Nat × Word) :=
  let a : Acc := ⟨near, true, false, store⟩
  if self && space base == 2 then some (0, base)
  else (s.checkAll s.cur.1 s.ctx.priv a 32 ((base, 0) :: rows.filter fun r => r.2 ≠ 0)).map fun (n, ea) => (n, failByte n ea)

/-- R348: some source byte and some destination byte are one byte of one vault. -/
def State.bulkOverlap (s : State) (c : CoreId) (src dst : List (Word × Nat)) : Bool :=
  src.any fun (a, n) => dst.any fun (b, m) => (s.place c a).meets n (s.place c b) m

/-- R348: with `.B` the overlap is judged at the issuing core's own router. -/
def State.bcOverlap (s : State) (c : CoreId) (vs : Nat) (dst src len : Word) : Bool :=
  let e := s.stream c vs
  space dst == 1 && e.valid && (legOut (vget e.legs e.leg)).contains 4
    && (match s.place c src with | .vault h o => h == c && meets o len.toNat (vaultOff dst) len.toNat | _ => false)

/-- R348: the checks of a bulk command at issue. -/
def State.bulkIssue (s : State) (i : Instr) (kind : Nat) (d a b c : BitVec 5) (bc fe : Bool) (vs : Nat) : State :=
  let x := s.ctx
  let dst := x.getX d
  let src := x.getX a
  let len := x.getX b
  let p := x.getX c
  if bulkFieldBad kind len p bc p.toNat then s.illegal i cILL_FIELD
  else
    match s.bulkCheck (bc && x.priv) bc true dst (bulkRows kind dst len p true) with
    | some (n, ea) => s.trap (memCause n 0) ea
    | none =>
      if fe && space dst == 0 then s.illegal i cILL_FIELD
      else
        match (if kind == 1 then none else s.bulkCheck false false false src (bulkRows kind src len p false)) with
        | some (n, ea) => s.trap (memCause n 0) ea
        | none =>
          let overlaps : Bool :=
            if kind == 1 then false
            else if bc then s.bcOverlap s.cur.1 vs dst src len
            else s.bulkOverlap s.cur.1 (bulkRows kind src len p false) (bulkRows kind dst len p true)
          if overlaps then s.trap (engCause 10 0) 0 else s.queue i 8 false

def execBcopy (d a b : BitVec 5) (bc fe : Bool) (c : BitVec 5) (sem : BitVec 4) (sv : Bool) (vs : BitVec 6) (s : State) : Out :=
  .next (s.bulkIssue (.bcopy d a b bc fe c sem sv vs) 0 d a b c bc fe vs.toNat)
def execBfill (d a b : BitVec 5) (bc fe : Bool) (c : BitVec 5) (sem : BitVec 4) (sv : Bool) (vs : BitVec 6) (s : State) : Out :=
  .next (s.bulkIssue (.bfill d a b bc fe c sem sv vs) 1 d a b c bc fe vs.toNat)
def execBstride (d a b : BitVec 5) (fe : Bool) (c : BitVec 5) (sem : BitVec 4) (sv : Bool) (s : State) : Out :=
  .next (s.bulkIssue (.bstride d a b fe c sem sv) 2 d a b c false fe 0)

/-- R349: a command leaves the store queue when the engine's queue has room. -/
def State.relBulk (s : State) (c : CoreId) (t : Fin 4) (e : Entry) (kind : Nat) (d a b cc : BitVec 5) (bc fe : Bool) (sem : BitVec 4) (sv : Bool)
    (vs : BitVec 6) : Option State :=
  let x := e.snap
  if 8 ≤ (s.core c).bulk.length then none
  else
    let m : BulkCmd :=
      { strand := t, seq := e.seq, kind := kind, dst := x.getX d, src := x.getX a, len := x.getX b, pitches := x.getX cc, bc := bc, fe := fe,
        sem := sem, sv := sv, vs := vs, count := (x.getX cc).toNat, done := [], inside := [], ended := false, acks := 0, started := s.timerStart c, fault := none }
    some ((s.modCore c fun k => { k with bulk := k.bulk ++ [m] }).finish c t e.seq id)

/-! ## The engine (R349 to R351) -/

/-- Beats of a command, and the addresses of one. -/
def BulkCmd.beats (m : BulkCmd) : Nat := if m.kind == 2 then rowCount m.len * (rowBytes m.len / 32) else m.len.toNat / 32

def BulkCmd.at_ (m : BulkCmd) (n : Nat) (dst : Bool) : Word :=
  let base := if dst then m.dst else m.src
  if m.kind == 2 then
    let w := rowBytes m.len / 32
    base + BitVec.ofNat 64 (n / w) * pitch m.pitches dst + BitVec.ofNat 64 (32 * (n % w))
  else base + BitVec.ofNat 64 (32 * n)

/-- R471: a command's fault is latched for a wait of its strand, or recorded with ENGINE_NO_WAITER when the strand has been freed. -/
def State.latch (s : State) (c : CoreId) (f : PFault) (t : Fin 4) : State :=
  let x := s.strand c t
  if x.st == .free || x.st == .retained || f.seq < x.born then s.record c (engCause 11 3) none 0 f.addr 0
  else s.modStrand c t fun x => { x with faults := x.faults ++ [f] }

/-- A bulk command's number among all stores to near stores (R351). -/
def bulkTag (c : CoreId) (seq : Nat) : Nat := 4 + seq * 2^21 + c

/-- R349 to R351: the head command completes: its increment, its fault. -/
def State.bulkDone (s : State) (c : CoreId) (m : BulkCmd) : State :=
  let next : List BulkCmd := match (s.core c).bulk.tail with | n :: ns => { n with started := s.timerStart c } :: ns | [] => []
  let s := s.modCore c fun k => { k with bulk := next }
  let s := if m.bc then { s with cores := s.cores.map fun p => (p.1, p.2.settle (bulkTag c m.seq)) } else s
  let s := if m.sv && !m.bc then (match s.place c m.dst with | .vault h _ => s.semGot h m.sem.toNat | _ => s) else s
  match m.fault with
  | some (base, ea) => s.latch c ⟨m.seq, base, ea, true, false, false, m.sem, m.sv, false⟩ m.strand
  | none => s

/-- R281: an earlier local write of the command's strand is still on its way to its own vault, or to be made by the matrix unit (R238). -/
def State.localPending (s : State) (c : CoreId) (m : BulkCmd) : Bool :=
  (s.core c).writesLeft m.strand m.seq ||
  (s.net ++ s.parks).any fun r => r.core == c && r.strand == m.strand && r.home == c && r.seq < m.seq && !r.toLoad

/-- R349, R350: what the engine reads for a beat: its bytes and whether they are poisoned; nothing where it must wait, for a response that the
home sent before too (R29). -/
def State.bulkRead (s : State) (c : CoreId) (m : BulkCmd) (n : Nat) : Option (List Byte × Bool × Option (Nat × Word)) :=
  if m.kind == 1 then some ((List.replicate 4 (leBytes m.src.toNat 8)).flatten, false, none)
  else
    let ea := m.at_ n false
    match s.place c ea with
    | .vault h o =>
      if s.away c h || s.answers c h || (h == c && s.localPending c m) then none
      else
        match s.stops c h with
        | some k => some (List.replicate 32 0, false, some (k, ea))
        | none =>
          let k := s.core h
          some (k.vault.readN o 32, k.poisonedIn o 32, if k.poisonedIn o 32 then some (9, ea) else none)
    | _ => none

/-- The beat of the head command is done; its fault is kept if it is the first. -/
def State.bulkMark (s : State) (c : CoreId) (m : BulkCmd) (n : Nat) (f : Option (Nat × Word)) : State :=
  let m := { m with done := nadd n m.done, inside := m.inside.filter (·.n ≠ n), started := s.timerStart c,
                    fault := match m.fault, f with | none, some (k, ea) => some (memCause k 0, ea) | x, _ => x }
  s.modCore c fun k => { k with bulk := m :: k.bulk.tail }

/-- R350: a beat of a command without `.B` that has been read is written. -/
def State.bulkWrite (s : State) (c : CoreId) (m : BulkCmd) (b : BulkBeat) : State :=
  let ea := m.at_ b.n true
  match s.place c ea with
  | .vault h o =>
    let data := leBytes b.data.toNat 32
    if s.away c h || s.answers c h then s
    else
      match b.fault with
      | some (9, _) | none =>
        (match s.stops c h with
          | some k => s.bulkMark c m b.n (match b.fault with | some f => some f | none => some (k, ea))
          | none => (if b.bad then s.poisonWrite h o data m.fe else s.engineWrite h o data m.fe).bulkMark c m b.n b.fault)
      | some _ => s.bulkMark c m b.n b.fault
  | _ => s

/-- R281, R349: a step of a beat of a command without `.B`: it is read, or, once it has been, written; BFILL has nothing to read. -/
def State.bulkBeat (s : State) (c : CoreId) (m : BulkCmd) (n : Nat) : State :=
  match m.inside.find? fun b => b.n == n with
  | some b => s.bulkWrite c m b
  | none =>
    match s.bulkRead c m n with
    | none => s
    | some (data, bad, f) =>
      let b : BulkBeat := ⟨n, BitVec.ofNat 256 (leNat data), bad, f⟩
      if m.kind == 1 then s.bulkWrite c m b
      else s.modCore c fun k => { k with bulk := { m with inside := b :: m.inside } :: k.bulk.tail }

/-- R351: a beat, or at last the bulk end flit, enters the L input of the router when it has room. -/
def State.inject (s : State) (c : CoreId) (vs : Nat) (f : Flit) : Option State :=
  let e := s.stream c vs
  if e.valid && (e.marked.getLsbD 4 || (e.ins.contains 4 && slotFits e.islots (costs (vget e.bufs 4)) f)) then some (s.arrive c vs 4 f) else none

/-- BULK_EXECUTE: a step of one beat of the command at the head of the queue, or its end (R349, R351). A hold lets a beat that has been read be
written (R355). -/
def State.bulkExecute (s : State) (c : CoreId) (n : Nat) : State :=
  match (s.core c).bulk with
  | [] => s
  | m :: _ =>
    if s.frozen c && !(m.inside.any fun b => b.n == n) then s
    else if n < m.beats && !m.done.contains n then
      if m.bc then
        match s.bulkRead c m n with
        | none => s
        | some (data, poison, f) =>
          let ea := m.at_ n true
          let near : Bool := space ea == 0
          let flit : Flit := .addressed (BitVec.ofNat 256 (leNat data)) (if near then nearOff ea else vaultOff ea) near m.fe poison c m.seq
          match s.inject c m.vs.toNat flit with
          | some s => s.bulkMark c m n f
          | none => s
      else
        let s := s.bulkBeat c m n
        (match (s.core c).bulk with
          | m :: _ => if m.done.length == m.beats then s.bulkDone c m else s
          | [] => s).heldNow c
    else if m.done.length ≠ m.beats then s
    else if !m.bc then s.bulkDone c m
    else if m.ended then s
    else
      match s.inject c m.vs.toNat (.bulkEnd m.sem m.sv c m.seq) with
      | some s => s.modCore c fun k => { k with bulk := { m with ended := true, started := s.timerStart c } :: k.bulk.tail }
      | none => s

def execBulkExecute (core beat : Nat) (s : State) : Out := .next (s.bulkExecute core beat)

/-- ADDRESSED_BEAT: R351: a router's core writes an addressed beat that has reached it. In an orphan's vault that cannot be reached its bytes
stay unwritten, which is the command's fault if it is the first (R350). -/
def State.addressedBeat (s : State) (c : CoreId) (n : Nat) : State :=
  match (s.core c).addrq[n]? with
  | some (.addressed d off near fe poison src cmd) =>
    if s.frozen c || (!near && s.away c c) then s
    else
    let reach : Bool := (s.stops c c).isNone
    let s := s.modCore c fun k => { k with addrq := k.addrq.eraseIdx n }
    let data := leBytes d.toNat 32
    if near then
      let s := s.modCore c fun k => k.nearWrite off data (bulkTag src cmd)
      if poison then s.record c (memCause 9 3) none 0 (BitVec.ofNat 64 off) 6 else s
    else if !reach then
      s.modCore src fun k => { k with bulk := k.bulk.map fun m =>
        if m.bc && m.seq == cmd && m.fault.isNone then
          { m with fault := some (memCause 10 0, m.dst + BitVec.ofNat 64 (off - vaultOff m.dst)) }
        else m }
    else if poison then s.poisonWrite c off data fe
    else s.engineWrite c off data fe
  | _ => s

def execAddressedBeat (core beat : Nat) (s : State) : Out := .next (s.addressedBeat core beat)

/-- BULK_END_FLIT: R351: once the beats before it are written, a bulk end flit increments SEM and is acknowledged. -/
def State.bulkEndFlit (s : State) (c : CoreId) (n : Nat) : State :=
  let q := (s.core c).addrq
  let early : Bool := (q.take n).any fun f => match f with | .addressed _ _ _ _ _ _ _ => true | _ => false
  match q[n]? with
  | some (.bulkEnd sem sv src cmd) =>
    if early || s.frozen c then s
    else
      let s := s.modCore c fun k => { k with addrq := k.addrq.eraseIdx n }
      let s := if sv then s.semGot c sem.toNat else s
      { s with bulkAcks := s.bulkAcks ++ [{ id := s.ids, core := src, cmd := cmd, origin := c }], ids := s.ids + 1 }
  | _ => s

def execBulkEndFlit (core flit : Nat) (s : State) : Out := .next (s.bulkEndFlit core flit)

/-- BULK_ACK: R29, R351: an acknowledgement returns to the engine, after what its receiver's core sent before it; the command completes with as many as it has receivers. -/
def State.bulkAck (s : State) (c : CoreId) (id : Nat) : State :=
  match s.bulkAcks.find? fun a => a.id == id && a.core == c && !s.frozen c && !s.owes c a.origin id with
  | none => s
  | some a =>
    let s := { s with bulkAcks := s.bulkAcks.filter fun b => b.id ≠ id }
    match (s.core c).bulk with
    | m :: _ =>
      if m.seq == a.cmd && m.bc then
        let m := { m with acks := m.acks + 1, started := s.timerStart c }
        let s := s.modCore c fun k => { k with bulk := m :: k.bulk.tail }
        if m.ended && m.count ≤ m.acks then s.bulkDone c m else s
      else s
    | [] => s

def execBulkAck (core ack : Nat) (s : State) : Out := .next (s.bulkAck core ack)

/-- BULK_WATCHDOG: R351: the plan's watchdog expires at the source before the acknowledgements have come: STREAM_INCOMPLETE. -/
def State.bulkWatchdog (s : State) (c : CoreId) : State :=
  match (s.core c).bulk with
  | m :: _ =>
    if m.bc && !s.frozen c && m.started + 1500 * (s.stream c m.vs.toNat).wdog ≤ s.now then s.bulkDone c { m with fault := some (engCause 8 0, m.dst) }
    else s
  | [] => s

def execBulkWatchdog (core : Nat) (s : State) : Out := .next (s.bulkWatchdog core)

end Sys2Proof.Machine
end

