-- ==== Sys2Proof/Machine/Crypto.lean ====
section
/-!
DEFINITION. The published algorithms that the spec names and does not restate (log 4): SHA-384, HMAC and HKDF (R430, R431, R434), AES-256,
its key wrap and XTS (R381, R434), and P-384 with ECDSA and ECDH (R430 to R434).
-/
namespace Sys2Proof.Machine.Crypto
open Sys2Proof.Machine

/-- The big-endian value of bytes, and the n big-endian bytes of a value. -/
def beNat (bs : List Byte) : Nat := leNat bs.reverse
def beBytes (v n : Nat) : List Byte := (leBytes v n).reverse

/-- The first n groups of k elements. -/
def groups {α : Type} (k : Nat) (l : List α) : Nat → List (List α)
  | 0 => []
  | n + 1 => l.take k :: groups k (l.drop k) n

/-! ## SHA-384 -/

/-- The first 80 primes. -/
def primes : List Nat :=
  [2, 3, 5, 7, 11, 13, 17, 19, 23, 29, 31, 37, 41, 43, 47, 53, 59, 61, 67, 71]
  ++ [73, 79, 83, 89, 97, 101, 103, 107, 109, 113, 127, 131, 137, 139, 149, 151, 157, 163, 167, 173]
  ++ [179, 181, 191, 193, 197, 199, 211, 223, 227, 229, 233, 239, 241, 251, 257, 263, 269, 271, 277, 281]
  ++ [283, 293, 307, 311, 313, 317, 331, 337, 347, 349, 353, 359, 367, 373, 379, 383, 389, 397, 401, 409]

/-- The largest number below 2^n whose k-th power is at most v. -/
def root (k v : Nat) : Nat → Nat → Nat
  | 0, r => r
  | n + 1, r => root k v n (if (r + 2^n)^k ≤ v then r + 2^n else r)

/-- Round constants: the first 64 bits of the fractions of the cube roots of the primes. -/
def shaK : List Nat := primes.map fun p => root 3 (p * 2^192) 68 0 % 2^64

/-- Initial value: likewise of the square roots of the ninth to sixteenth prime. -/
def shaH : List Nat := ((primes.drop 8).take 8).map fun p => root 2 (p * 2^128) 69 0 % 2^64

def m64 (v : Nat) : Nat := v % 2^64
def rotr (v n : Nat) : Nat := m64 (v >>> n ||| v <<< (64 - n))
def big0 (x : Nat) : Nat := rotr x 28 ^^^ rotr x 34 ^^^ rotr x 39
def big1 (x : Nat) : Nat := rotr x 14 ^^^ rotr x 18 ^^^ rotr x 41
def small0 (x : Nat) : Nat := rotr x 1 ^^^ rotr x 8 ^^^ x >>> 7
def small1 (x : Nat) : Nat := rotr x 19 ^^^ rotr x 61 ^^^ x >>> 6

/-- The message schedule, latest word first. -/
def schedule : Nat → List Nat → List Nat
  | 0, w => w
  | n + 1, w => schedule n (m64 (small1 (w.getD 1 0) + w.getD 6 0 + small0 (w.getD 14 0) + w.getD 15 0) :: w)

def shaRound (h : List Nat) (kw : Nat × Nat) : List Nat :=
  let g (i : Nat) : Nat := h.getD i 0
  let ch := (g 4 &&& g 5) ^^^ ((2^64 - 1 - g 4) &&& g 6)
  let maj := (g 0 &&& g 1) ^^^ (g 0 &&& g 2) ^^^ (g 1 &&& g 2)
  let t := m64 (g 7 + big1 (g 4) + ch + kw.1 + kw.2)
  [m64 (t + big0 (g 0) + maj), g 0, g 1, g 2, m64 (g 3 + t), g 4, g 5, g 6]

def shaBlock (h : List Nat) (block : List Byte) : List Nat :=
  let w := schedule 64 ((groups 8 block 16).map beNat).reverse
  List.zipWith (fun a b => m64 (a + b)) h ((shaK.zip w.reverse).foldl shaRound h)

/-- SHA-384 of a message: 48 bytes. -/
def sha384 (m : List Byte) : List Byte :=
  let p := m ++ [0x80] ++ List.replicate ((239 - m.length % 128) % 128) 0 ++ beBytes (8 * m.length) 16
  (((groups 128 p (p.length / 128)).foldl shaBlock shaH).take 6).flatMap fun v => beBytes v 8

/-- HMAC-SHA-384 under a key of at most 128 bytes. -/
def hmac (key m : List Byte) : List Byte :=
  let pad (c : Byte) : List Byte := (key ++ List.replicate (128 - key.length) 0).map (· ^^^ c)
  sha384 (pad 0x5C ++ sha384 (pad 0x36 ++ m))

def hkdfExpand (prk info : List Byte) (last : List Byte) (i : Nat) : Nat → List Byte
  | 0 => []
  | n + 1 =>
    let t := hmac prk (last ++ info ++ [BitVec.ofNat 8 i])
    t ++ hkdfExpand prk info t (i + 1) n

/-- HKDF-SHA-384: n bytes; no salt is 48 zero bytes. -/
def hkdf (salt ikm info : List Byte) (n : Nat) : List Byte :=
  (hkdfExpand (hmac (if salt.isEmpty then List.replicate 48 0 else salt) ikm) info [] 1 (n / 48 + 1)).take n

/-! ## AES-256

A state is a number of 16 bytes, the first the lowest; a column is 4 bytes of it. -/

/-- The S-box of FIPS 197 and its inverse: what byte a goes to stands at bits 8a and up. -/
def sbox : Nat :=
  0x16bb54b00f2d99416842e6bf0d89a18cdf2855cee9871e9b948ed9691198f8e19e1dc186b95735610ef6034866b53e708a8bbd4b1f74dde8c6b4a61c2e2578ba08ae7a65eaf4566ca94ed58d6d37c8e779e4959162acd3c25c2406490a3a32e0db0b5ede14b8ee4688902a22dc4f816073195d643d7ea7c41744975fec130ccdd2f3ff1021dab6bcf5389d928f40a351a89f3c507f02f94585334d43fbaaefd0cf584c4a39becb6a5bb1fc20ed00d153842fe329b3d63b52a05a6e1b1a2c830975b227ebe28012079a059618c323c7041531d871f1e5a534ccf73f362693fdb7c072a49cafa2d4adf04759fa7dc982ca76abd7fe2b670130c56f6bf27b777c63

def invSbox : Nat :=
  0x7d0c2155631469e126d677ba7e042b17619953833cbbebc8b0f52aae4d3be0a0ef9cc9939f7ae52d0d4ab519a97f51605fec8027591012b131c7078833a8dd1ff45acd78fec0db9a2079d2c64b3e56fc1bbe18aa0e62b76f89c5291d711af1476edf751ce837f9e28535ade72274ac9673e6b4f0cecff297eadc674f4111913a6b8a130103bdafc1020f3fca8f1e2cd00645b3b80558e4f70ad3bc8c00abd890849d8da75746155edab9edfd5048706c92b6655dcc5ca4d41698688664f6f87225d18b6d49a25b76b224d92866a12e084ec3fa420b954cee3d23c2a632947b54cbe9dec444438e3487ff2f9b8239e37cfbd7f3819ea340bf38a53630d56a0952

def subByte (table a : Nat) : Nat := (table >>> (8 * a)) % 256

/-- Every byte of a state through a table, and row r of the columns turned by k·r places. -/
def subShift (table k s : Nat) : Nat :=
  (List.range 16).foldl (fun v i => v ||| subByte table ((s >>> (8 * ((i + 4 * k * (i % 4)) % 16))) % 256) <<< (8 * i)) 0

/-- Every byte of a state times 2 in the field of 256 elements. -/
def double (s : Nat) : Nat :=
  ((s &&& 0x7F7F7F7F7F7F7F7F7F7F7F7F7F7F7F7F) <<< 1) ^^^ (((s >>> 7) &&& 0x01010101010101010101010101010101) * 0x1B)

/-- Every byte of a state times c, of n bits. -/
def scale : Nat → Nat → Nat → Nat
  | 0, _, _ => 0
  | n + 1, c, s => (if c % 2 == 1 then s else 0) ^^^ scale n (c / 2) (double s)

/-- Every column turned by one byte. -/
def turn (s : Nat) : Nat :=
  ((s >>> 8) &&& 0x00FFFFFF00FFFFFF00FFFFFF00FFFFFF) ||| ((s &&& 0x000000FF000000FF000000FF000000FF) <<< 24)

/-- Every column times the circulant matrix of a first row. -/
def mixColumns : List Nat → Nat → Nat
  | [], _ => 0
  | c :: cs, s => scale 4 c s ^^^ mixColumns cs (turn s)

def subWord (w : Nat) : Nat := (List.range 4).foldl (fun v i => v ||| subByte sbox ((w >>> (8 * i)) % 256) <<< (8 * i)) 0

/-- The next words of the key schedule, latest first: how many, the number of the next, its round constant, the words so far. -/
def expand : Nat → Nat → Nat → List Nat → List Nat
  | 0, _, _, ws => ws
  | n + 1, i, rc, ws =>
    let t := ws.getD 0 0
    let t' := if i % 8 == 0 then subWord ((t >>> 8) ||| (t % 256) <<< 24) ^^^ rc else if i % 8 == 4 then subWord t else t
    expand n (i + 1) (if i % 8 == 0 then double rc else rc) ((ws.getD 7 0 ^^^ t') :: ws)

/-- The 15 round keys of a 32-byte key. -/
def roundKeys (key : List Byte) : List Nat :=
  (groups 4 (expand 52 8 1 ((groups 4 key 8).map leNat).reverse).reverse 15).map fun w => w.foldr (fun v r => v + 2^32 * r) 0

/-- The rounds of the cipher under the round keys left. -/
def encRounds : List Nat → Nat → Nat
  | [], s => s
  | [k], s => subShift sbox 1 s ^^^ k
  | k :: ks, s => encRounds ks (mixColumns [2, 3, 1, 1] (subShift sbox 1 s) ^^^ k)

def aesEnc (key block : List Byte) : List Byte :=
  let ks := roundKeys key
  leBytes (encRounds (ks.drop 1) (leNat block ^^^ ks.getD 0 0)) 16

/-- The inverse cipher: round keys last first. -/
def decRounds : List Nat → Nat → Nat
  | [], s => s
  | [k], s => subShift invSbox 3 s ^^^ k
  | k :: ks, s => decRounds ks (mixColumns [14, 11, 13, 9] (subShift invSbox 3 s ^^^ k))

/-- One block under the round keys, last first. -/
def decBlock (ks : List Nat) (s : Nat) : Nat := decRounds (ks.drop 1) (s ^^^ ks.getD 0 0)

def aesDec (key block : List Byte) : List Byte := leBytes (decBlock (roundKeys key).reverse (leNat block)) 16

/-- One step of the key unwrap of RFC 3394, on A and the eight registers, each a number of 8 bytes with the first the lowest; the count t, at
most 48, is xored to the last byte of A. -/
def unwrapStep (ks : List Nat) (st : Nat × List Nat) (t : Nat) : Nat × List Nat :=
  let i := (t - 1) % 8
  let b := decBlock ks ((st.1 ^^^ (t <<< 56)) + st.2.getD i 0 * 2^64)
  (b % 2^64, lset st.2 i (b >>> 64))

/-- The key unwrap of RFC 3394: 72 bytes give 64, where the integrity check holds. -/
def unwrap (kek wrapped : List Byte) : Option (List Byte) :=
  let g := (groups 8 wrapped 9).map leNat
  let r := ((List.range 48).map fun n => 48 - n).foldl (unwrapStep (roundKeys kek).reverse) (g.getD 0 0, g.drop 1)
  if r.1 == 0xA6A6A6A6A6A6A6A6 then some (r.2.flatMap fun v => leBytes v 8) else none

/-! ## XTS (R381) -/

/-- A tweak times α, as IEEE 1619 orders its bytes. -/
def alpha (t : Nat) : Nat := (2 * t % 2^128) ^^^ (if 2^127 ≤ t then 0x87 else 0)

def xtsBlocks (cipher : List Byte → List Byte → List Byte) (key1 : List Byte) : List (List Byte) → Nat → List Byte
  | [], _ => []
  | b :: bs, t => leBytes (leNat (cipher key1 (leBytes (leNat b ^^^ t) 16)) ^^^ t) 16 ++ xtsBlocks cipher key1 bs (alpha t)

/-- A 64-byte line under a 64-byte key, key 1 followed by key 2, with its line number as the tweak. -/
def xts (dec : Bool) (key : BitVec 512) (line data : Nat) : Nat :=
  let k := leBytes key.toNat 64
  let t := leNat (aesEnc (k.drop 32) (leBytes line 16))
  leNat (xtsBlocks (if dec then aesDec else aesEnc) (k.take 32) (groups 16 (leBytes data 64) 4) t)

/-! ## P-384 -/

def prime : Nat := 2^384 - 2^128 - 2^96 + 2^32 - 1
def order : Nat := 0xFFFFFFFFFFFFFFFFFFFFFFFFFFFFFFFFFFFFFFFFFFFFFFFFC7634D81F4372DDF581A0DB248B0A77AECEC196ACCC52973
def curveB : Nat := 0xB3312FA7E23EE7E4988E056BE3F82D19181D9C6EFE8141120314088F5013875AC656398D8A2ED19D2A85C8EDD3EC2AEF

/-- A point of the curve; nothing is the point at infinity. -/
abbrev Point := Option (Nat × Nat)

def base : Point :=
  some (0xAA87CA22BE8B05378EB1C71EF320AD746E1D3B628BA79B9859F741E082542A385502F25DBF55296C3A545E3872760AB7,
        0x3617DE4A96262C6F5D9E98BF9292DC29F8F41DBD289A147CE9DA3113B5F0B8C00A60B1CE1D7E819D7A431D7C90EA0E5F)

/-- b^e modulo m, for e below 2^n. -/
def powMod (m : Nat) : Nat → Nat → Nat → Nat
  | 0, _, _ => 1 % m
  | n + 1, b, e => (if e % 2 == 1 then b else 1) * powMod m n (b * b % m) (e / 2) % m

def inv (m a : Nat) : Nat := powMod m 384 (a % m) (m - 2)

def subMod (a b : Nat) : Nat := (a + prime - b % prime) % prime

def addPoint : Point → Point → Point
  | none, q => q
  | p, none => p
  | some (x1, y1), some (x2, y2) =>
    let out (l : Nat) : Point :=
      let x := subMod (subMod (l * l) x1) x2
      some (x, subMod (l * subMod x1 x) y1)
    if x1 == x2 then
      if (y1 + y2) % prime == 0 then none else out (subMod (3 * x1 * x1) 3 * inv prime (2 * y1) % prime)
    else out (subMod y2 y1 * inv prime (subMod x2 x1) % prime)

/-- The k-fold of a point, for k below 2^n. -/
def mulPoint : Nat → Nat → Point → Point
  | 0, _, _ => none
  | n + 1, k, p => addPoint (if k % 2 == 1 then p else none) (mulPoint n (k / 2) (addPoint p p))

def onCurve (x y : Nat) : Bool := x < prime && y < prime && y * y % prime == (subMod (x * x * x) (3 * x) + curveB) % prime

/-- SEC 1, uncompressed. -/
def pointBytes : Point → List Byte
  | none => List.replicate 97 0
  | some (x, y) => [0x04] ++ beBytes x 48 ++ beBytes y 48

def readPoint (bs : List Byte) : Point :=
  let x := beNat ((bs.drop 1).take 48)
  let y := beNat ((bs.drop 49).take 48)
  if bs.head? == some 0x04 && onCurve x y then some (x, y) else none

/-- A scalar from 56 bytes of key material (R431). -/
def scalarOf (okm : List Byte) : Nat := beNat okm % (order - 1) + 1

/-- ECDSA with SHA-384 and the nonce k: r then s, each 48 bytes. -/
def sign (d k : Nat) (m : List Byte) : List Byte :=
  let r := match mulPoint 384 k base with | some (x, _) => x % order | none => 0
  beBytes r 48 ++ beBytes (inv order k * (beNat (sha384 m) + r * d) % order) 48

/-- Whether a signature over a digest verifies under a public point. -/
def verify (q : Point) (digest sig : List Byte) : Bool :=
  let r := beNat (sig.take 48)
  let s := beNat (sig.drop 48)
  let w := inv order s
  q.isSome && 0 < r && r < order && 0 < s && s < order &&
    (match addPoint (mulPoint 384 (beNat digest * w % order) base) (mulPoint 384 (r * w % order) q) with
      | some (x, _) => x % order == r
      | none => false)

end Sys2Proof.Machine.Crypto
end

