-- ==== Sys2Proof/Machine/Far.lean ====
section
/-!
DEFINITION. Straits and far memory (16_far_memory): the FM instructions and VFLIP, admission, translation, line accesses, faults and parking,
the far control block, versions, poison and keys.
-/
namespace Sys2Proof.Machine

/-! ## Straits and far lines (R356, R357, R381) -/

/-- R356: a strait with nothing attached: its link is down. -/
def Strait.off : Strait :=
  { up := false, rate := false, width := 0, ide := false, devOk := false, devRate := false, devWidth := 0, devIde := false, extents := [],
    decoders := [], tlb := [], slots := [], faulty := [] }

def Wafer.strait (w : Wafer) (j : Nat) : Strait := tget Strait.off w.straits j
def Wafer.modStrait (w : Wafer) (j : Nat) (f : Strait → Strait) : Wafer := { w with straits := tset (f (w.strait j)) j w.straits }
def State.modStrait (s : State) (p j : Nat) (f : Strait → Strait) : State := s.modWafer p fun w => w.modStrait j f

/-- R358: the physical strait of a partition-relative index. -/
def Wafer.straitOf (w : Wafer) (q : Ptn) (j : Nat) : Option Nat :=
  if j < 4 * q.count then (w.chart.physIsle (q.first + j / 4)).map fun i => 4 * i + j % 4 else none

/-- The physical straits of a partition. -/
def Wafer.straitsOf (w : Wafer) (q : Ptn) : List Nat := (List.range (4 * q.count)).filterMap fun j => w.straitOf q j

/-- R381: the bytes of a far line as read under a key, and its data poison. -/
def farData (far : List FarLine) (line : Nat) (key : BitVec 512) : Nat × Bool :=
  match far.find? fun f => f.line == line with
  | some f => (if f.key == key then f.data.toNat else Crypto.xts true key line (Crypto.xts false f.key line f.data.toNat), f.poison)
  | none => (Crypto.xts true key line (Config.farDevice line % 2^512), false)

/-- R380, R381: a far line as read under a key. -/
def Wafer.farRead (w : Wafer) (line : Nat) (key : BitVec 512) : Nat × Bool :=
  let r := farData w.far line key
  (r.1, r.2 || w.farBad.contains line)

/-- R381: a far line written under a key. -/
def farPut (f : FarLine) : List FarLine → List FarLine
  | [] => [f]
  | g :: t => if f.line < g.line then f :: g :: t else if f.line == g.line then f :: t else g :: farPut f t

def State.farWrite (s : State) (p line : Nat) (key : BitVec 512) (data : Nat) (poison : Bool) : State :=
  s.modWafer p fun w => { w with far := farPut ⟨line, key, BitVec.ofNat 512 data, poison⟩ w.far, farBad := ndel line w.farBad }

/-- n bytes of a far line from byte o replaced. -/
def patch (line o n v : Nat) : Nat := line % 2^(8 * o) + v % 2^(8 * n) * 2^(8 * o) + line / 2^(8 * (o + n)) * 2^(8 * (o + n))

/-- n bytes at a far physical address written under a key, the rest of the line kept. -/
def State.farPoke (s : State) (p pa n : Nat) (key : BitVec 512) (v : Nat) (poison : Bool) : State :=
  let (old, bad) := (s.wafer p).farRead (pa / 64) key
  s.farWrite p (pa / 64) key (patch old (pa % 64) n v) (poison || (bad && n < 64))

def Ptn.key (q : Ptn) (k : Nat) : Key := vget q.keys k

/-- R357: a decoder of the strait covers a far physical address. -/
def Strait.decodes (t : Strait) (pa : Nat) : Bool := t.decoders.any fun d => d.1 ≤ pa && pa < d.1 + d.2

/-! ## Translation (R366 to R370) -/

/-- R367: a leaf: the far physical address of its slot, the page, and its two words. -/
structure Leaf where
  slot : Nat
  va : Nat
  big : Bool
  w0 : Nat
  w1 : Nat

def pageSize (big : Bool) : Nat := if big then 2^21 else 2^16
def Leaf.size (l : Leaf) : Nat := pageSize l.big

/-- R366: a non-leaf entry is malformed, at its level. -/
def nodeBad (level w0 w1 : Nat) : Bool :=
  bits w0 2 7 ≠ 0 || bits w0 52 12 ≠ 0 || w1 ≠ 0 || (level < 2 && bits w0 9 4 ≠ 0)

/-- R367, R369: a leaf is malformed. -/
def leafBad (big : Bool) (w0 : Nat) : Bool := bits w0 44 4 ≠ 0 || (bits w0 4 1 == 1 && bits w0 3 1 == 0) || (big && bits w0 8 5 ≠ 0)

/-- R366: where level n of the tables takes its index from, and its number of entries. -/
def levelShift (level : Nat) : Nat := match level with | 0 => 39 | 1 => 30 | 2 => 21 | _ => 16
def levelSize (level : Nat) : Nat := if level < 3 then 512 else 32

/-- R369: a read of a table entry by the walker of strait j, or its fault n of the strait class. -/
def State.walkRead (s : State) (p : Nat) (q : Ptn) (j pa : Nat) : Except Nat (Nat × Nat) :=
  let k := q.key 0
  let t := (s.wafer p).strait j
  match k.st with
  | .empty => .error 7
  | .revoked => .error 8
  | .loaded =>
    if !t.decodes pa then .error 9
    else if !t.up || t.faulty.contains (pa / 64) then .error 10
    else
      let (d, bad) := (s.wafer p).farRead (pa / 64) k.value
      if bad then .error 10 else .ok (elem d 64 (pa % 64 / 8), elem d 64 (pa % 64 / 8 + 1))

/-- R366, R369: the walk for a virtual address from a table of a level, whose entries `read` reads: the leaf, or the fault n (rows 1, 2, 5 to
7 of R369). -/
def walkFrom (read : Nat → Except Nat (Nat × Nat)) (va : Nat) : Nat → Nat → Nat → Except Nat Leaf
  | 0, _, _ => .error 4
  | n + 1, level, table =>
    let slot := table + 16 * (va / 2^levelShift level % levelSize level)
    match read slot with
    | .error e => .error e
    | .ok (w0, w1) =>
      let leaf : Bool := bits w0 1 1 == 1
      if bits w0 0 1 == 0 then .error 3
      else if leaf then
        if level < 2 || leafBad (level == 2) w0 then .error 4
        else .ok ⟨slot, va / pageSize (level == 2) * pageSize (level == 2), level == 2, w0, w1⟩
      else if level == 3 || nodeBad level w0 w1 then .error 4
      else walkFrom read va n (level + 1) (bits w0 9 43 * 2^9)

def State.walk (s : State) (p : Nat) (q : Ptn) (j va : Nat) : Except Nat Leaf :=
  if !q.far.en then .error 3 else walkFrom (s.walkRead p q j) va 4 0 q.far.root

/-- R373: the leaf that the tables of a moment have for a virtual address. -/
def FarTables.leaf (t : FarTables) (va : Nat) : Option Leaf :=
  let read (pa : Nat) : Except Nat (Nat × Nat) :=
    let d := (farData t.lines (pa / 64) t.key).1
    .ok (elem d 64 (pa % 64 / 8), elem d 64 (pa % 64 / 8 + 1))
  (walkFrom read va 4 0 t.root).toOption

/-- R373: the tables of a partition as they stand; where translation is off, or key 0 has never been loaded, no page is mapped. -/
def State.tables (s : State) (p : Nat) (q : Ptn) : Option FarTables :=
  if q.far.en && (q.key 0).st != .empty then some ⟨q.far.root, (q.key 0).value, (s.wafer p).far⟩ else none

/-- R370: a strait's cached leaf for a virtual address. -/
def Strait.hit (t : Strait) (va : Nat) : Option TlbEntry := t.tlb.find? fun e => e.va ≤ va && va < e.va + pageSize e.big

/-- A leaf as a TLB holds it. -/
def Leaf.cached (l : Leaf) : TlbEntry := ⟨l.slot, l.va, l.big, BitVec.ofNat 64 l.w0, BitVec.ofNat 64 l.w1, 0⟩

/-- The leaf that translates an address at a strait: the cached one, or, with `walk`, the one a walk would find. -/
def State.leafAt (s : State) (p : Nat) (q : Ptn) (j va : Nat) (walk : Bool) : Option TlbEntry :=
  match ((s.wafer p).strait j).hit va with
  | some e => some e
  | none => if walk then (match s.walk p q j va with | .ok l => some l.cached | .error _ => none) else none

/-- R368: the core is in a group of a mask. -/
def Ptn.inGroup (q : Ptn) (c : CoreId) (mask : Nat) : Bool :=
  (List.range 64).any fun g =>
    let w := (vget q.far.groups g).toNat
    mask.testBit g && w.testBit 36 && bits w 0 9 ≤ cX c && cX c < bits w 0 9 + bits w 18 9 && bits w 9 9 ≤ cY c
      && cY c < bits w 9 9 + bits w 27 9

/-! ## Commands (R358 to R365) -/

/-- R360: fields of an SPB. -/
def spbF (b : BitVec 512) (w lo n : Nat) : Nat := bits b.toNat (64 * w + lo) n
def spbWord (b : BitVec 512) (w : Nat) : Word := BitVec.ofNat 64 (spbF b w 0 64)
def spbI32 (b : BitVec 512) (w lo : Nat) : Word := sx64 32 (spbF b w lo 32)

/-- R360, R363. -/
def spbEs (b : BitVec 512) : Nat := 2^spbF b 7 8 3
def spbIw (b : BitVec 512) : Nat := if spbF b 7 11 1 = 1 then 8 else 4
def spbPhys (b : BitVec 512) : Bool := spbF b 7 22 1 == 1
def spbLim (b : BitVec 512) : Nat := if spbPhys b then 2^52 else 2^48

/-- R379: FMPUT and FMSCAT write far memory; FMGATH and FMSCAT go by elements. -/
def farWrites (kind : Nat) : Bool := kind == 1 || kind == 3
def farElems (kind : Nat) : Bool := kind == 2 || kind == 3

/-- Line accesses, or elements, of a command. -/
def farCount (kind : Nat) (b : BitVec 512) : Nat :=
  if farElems kind then spbF b 2 0 32 else if kind == 4 then 0 else spbF b 2 32 16 * (spbF b 2 0 32 / 64)

/-- R365: bytes a command counts in FPBC. -/
def farBytes (kind : Nat) (b : BitVec 512) : Nat :=
  if kind == 1 then spbF b 2 0 32 * spbF b 2 32 16 else if kind == 3 then spbF b 2 0 32 * spbEs b else 0

/-- R361: FAR form, or far physical under PHYS. -/
def farForm (phys : Bool) (a : Word) : Bool := space a == 4 && bits a.toNat (if phys then 52 else 48) (if phys then 8 else 12) == 0
def farAddr (a : Nat) : Word := BitVec.ofNat 64 (4 * 2^60 + a % 2^52)

/-- R361 row 1. -/
def spbReserved (kind : Nat) (b : BitVec 512) : Bool :=
  let depth := spbF b 7 12 2
  let es := spbF b 7 8 3
  let fe := spbF b 7 5 1 = 1
  spbF b 2 48 16 ≠ 0 || spbF b 7 7 1 ≠ 0 || spbF b 7 14 2 ≠ 0 || spbF b 7 25 39 ≠ 0
    || (if farElems kind then
          spbF b 2 32 16 ≠ 0 || es < 2 || 6 < es || depth == 3 || (fe && (kind == 3 || es < 3)) || (depth < 1 && spbWord b 5 ≠ 0)
            || (depth < 2 && spbWord b 6 ≠ 0)
        else es ≠ 0 || spbF b 7 11 1 ≠ 0 || depth ≠ 0 || spbWord b 4 ≠ 0 || spbWord b 5 ≠ 0 || spbWord b 6 ≠ 0 || (fe && kind == 1))

/-- R361 row 4. -/
def spbMisaligned (kind : Nat) (b : BitVec 512) : Bool :=
  if farElems kind then
    spbF b 0 0 64 % spbEs b ≠ 0 || spbF b 1 0 64 % 32 ≠ 0 || spbF b 4 0 64 % spbIw b ≠ 0 || spbF b 5 0 64 % spbIw b ≠ 0
      || spbF b 6 0 64 % spbIw b ≠ 0
  else spbF b 0 0 64 % 64 ≠ 0 || spbF b 3 0 32 % 64 ≠ 0 || spbF b 2 0 32 % 64 ≠ 0 || spbF b 1 0 64 % 32 ≠ 0 || spbF b 3 32 32 % 32 ≠ 0

/-- R361 row 5: the rows of the vault side, and the index list. -/
def vaultRows (kind : Nat) (b : BitVec 512) : List (Word × Nat) :=
  if farElems kind then [(spbWord b 1, spbF b 2 0 32 * spbEs b)]
  else (List.range (spbF b 2 32 16)).map fun r => (spbWord b 1 + BitVec.ofNat 64 r * spbI32 b 3 32, spbF b 2 0 32)
def indexRows (kind : Nat) (b : BitVec 512) : List (Word × Nat) := if farElems kind then [(spbWord b 4, spbF b 2 0 32 * spbIw b)] else []

/-- R361 row 8: a far row passes the end of the address space. -/
def rowsOut (kind : Nat) (b : BitVec 512) : Bool :=
  let rows := spbF b 2 32 16
  let base : Int := (spbF b 0 0 52 : Nat)
  let lim : Int := (spbLim b : Nat)
  let w : Int := (spbF b 2 0 32 : Nat)
  !farElems kind && w ≠ 0 && (List.range rows).any fun r =>
    let a : Int := base + (r : Int) * sx 32 (spbF b 3 0 32)
    a < 0 || lim < a + w

/-- R361: the first failing check: cause and TVAL. -/
def State.spbCheck (s : State) (c : CoreId) (t : Fin 4) (x : Ctx) (kind : Nat) (b : BitVec 512) (ea : Word) : Option (Nat × Word) :=
  let phys := spbPhys b
  let rows := (vaultRows kind b ++ indexRows kind b).filter fun r => r.2 ≠ 0
  if spbReserved kind b then some (farCause 0 0, ea)
  else if phys && !x.priv then some (memCause 1 0, ea)
  else if !farForm phys (spbWord b 0) || (1 ≤ spbF b 7 12 2 && !farForm phys (spbWord b 5)) || (2 ≤ spbF b 7 12 2 && !farForm phys (spbWord b 6)) then
    some (farCause 0 0, ea)
  else if spbMisaligned kind b then some (farCause 0 0, ea)
  else
    match s.checkAll c x.priv accQuay 1 rows with
    | some (n, a) => some (memCause n 0, failByte n a)
    | none =>
      match rows.find? fun r => (match s.place c r.1 with | .vault h _ => cPart h ≠ cPart c | _ => false) with
      | some _ => some (memCause 6 0, ea)
      | none =>
        let n := match s.ptnOf c with | some q => 4 * q.count | none => 0
        if n ≤ spbF b 7 16 6 then some (farCause 1 0, ea)
        else if rowsOut kind b then some (farCause 2 0, ea)
        else if 2^56 ≤ (s.strand c t).fpbc + farBytes kind b then some (memCause 11 0, 1)
        else none

/-- R382: the address of the SPB, and its check at issue; an SPB on another part is not reached (R360). -/
def spbAddr (x : Ctx) (a : BitVec 5) (o : BitVec 16) : Word := x.getX a + imm o <<< 6

def State.fmIssue (s : State) (i : Instr) (a : BitVec 5) (o : BitVec 16) : State :=
  let ea := spbAddr s.ctx a o
  match s.check s.cur.1 s.ctx.priv accLd ea 64 64 true with
  | some n => s.trap (memCause n 0) ea
  | none =>
    match s.place s.cur.1 ea with
    | .vault h _ => if cPart h ≠ cPart s.cur.1 then s.trap (memCause 6 0) ea else s.queue i 8 true
    | _ => s.queue i 8 true

def execFmget (a : BitVec 5) (o : BitVec 16) (s : State) : Out := .next (s.fmIssue (.fmget a o) a o)
def execFmput (a : BitVec 5) (o : BitVec 16) (s : State) : Out := .next (s.fmIssue (.fmput a o) a o)
def execFmgath (a : BitVec 5) (o : BitVec 16) (s : State) : Out := .next (s.fmIssue (.fmgath a o) a o)
def execFmscat (a : BitVec 5) (o : BitVec 16) (s : State) : Out := .next (s.fmIssue (.fmscat a o) a o)

/-- R359: a command asks for its slot credit. -/
def State.farAsk (s : State) (c : CoreId) (t : Fin 4) (seq kind : Nat) (b : BitVec 512) (strait : Nat) : State :=
  let m : FarCmd :=
    { id := s.ids, core := c, strand := t, seq := seq, kind := kind, spb := b, strait := strait, stage := .credit, tables := none, sels := [], done := [],
      waiting := [], parts := [], arrived := 0, fault := none, fpbc := farBytes kind b }
  { s with fars := s.fars ++ [m], ids := s.ids + 1 }

/-- R365, R385: a command waits for its credit in the store queue; in a hold its entry leaves the queue, its bytes counted from then. -/
def State.farLeave (s : State) (c : CoreId) (t : Fin 4) (e : Entry) : Option State :=
  if s.halted c t then
    let n := match s.fars.find? fun m => m.core == c && m.strand == t && m.seq == e.seq with | some m => m.fpbc | none => 0
    some ((s.modStrand c t fun x => { x with fpbc := x.fpbc + n }).finish c t e.seq id)
  else none

/-- R361: the SPB has been read: the instruction traps, or the strand goes on and the command asks for a credit. -/
def State.fmRead (s : State) (c : CoreId) (t : Fin 4) (e : Entry) (kind : Nat) (ea : Word) (bytes : List Byte) : State :=
  let b : BitVec 512 := BitVec.ofNat 512 (leNat bytes)
  match s.spbCheck c t e.snap kind b ea with
  | some (cause, v) => s.faultAt c t e cause v
  | none =>
    let j := match s.ptnOf c with | some q => ((s.wafer (cPart c)).straitOf q (spbF b 7 16 6)).getD 0 | none => 0
    let s := setEntry s c t e.seq fun e => { e with phase := 2 }
    (s.modStrand c t fun x => if x.hold == some e.seq then { x with hold := none }.setSt false else x).farAsk c t e.seq kind b j

/-- R382: an FM instruction at the head of the store queue: it reads its SPB, and stays there until its command holds a credit, or, where its core stops for
a hold, waits for it at the strait (R385). -/
def State.relFm (s : State) (c : CoreId) (t : Fin 4) (e : Entry) (kind : Nat) (a : BitVec 5) (o : BitVec 16) : Option State :=
  let ea := spbAddr e.snap a o
  if e.phase == 0 then
    match s.place c ea with
    | .near off =>
      let k := s.core c
      match k.nearUe.find? fun w => off < 8 * w + 8 && 8 * w < off + 64 with
      | some _ => some ((s.nearUeFound c).faultAt c t e (memCause 8 0) ea)
      | none => some (s.fmRead c t e kind ea (k.near.readN off 64))
    | .vault h off =>
      let s := setEntry s c t e.seq fun e => { e with phase := 1, parts := [.pending, .pending] }
      some (s.send [s.mkReq c t e.seq 0 ea h off 32 .load true 0, s.mkReq c t e.seq 1 ea h (off + 32) 32 .load true 0])
    | _ => none
  else if e.phase == 1 then
    if e.parts.contains .pending then none
    else
      match e.parts.findSome? fun p => match p with | .fault n ea => some (n, ea) | _ => none with
      | some (n, ea) => some (s.faultAt c t e (memCause n 0) ea)
      | none => some (s.fmRead c t e kind ea (e.parts.flatMap fun p => match p with | .done d => d | _ => []))
  else s.farLeave c t e

/-- R383: VFLIP's checks at issue. -/
def execVflip (a b : BitVec 5) (sem : BitVec 4) (sv : Bool) (s : State) : Out :=
  let x := s.ctx.getX a
  let len := (s.ctx.getX b).toNat
  .next (
    if space x ≠ 4 then s.trap (memCause 0 0) x
    else if bits x.toNat 48 12 ≠ 0 then s.trap (memCause 2 0) x
    else if bits x.toNat 0 16 ≠ 0 || len % 2^16 ≠ 0 then s.trap (memCause 5 0) x
    else if 2^48 < bits x.toNat 0 48 + len then s.trap (farCause 2 0) 0
    else s.queue (.vflip a b sem sv) 8 false)

/-- VFLIP asks for its credit. -/
def State.relVflip (s : State) (c : CoreId) (t : Fin 4) (e : Entry) (a b : BitVec 5) (sem : BitVec 4) (sv : Bool) : Option State :=
  if e.phase ≠ 0 then s.farLeave c t e
  else
    let spb : BitVec 512 := BitVec.ofNat 512
      (packElems 64 [(e.snap.getX a).toNat, (e.snap.getX b).toNat, 0, 0, 0, 0, 0, sem.toNat + flagN sv])
    let j := match s.ptnOf c with | some q => ((s.wafer (cPart c)).straitOf q 0).getD 0 | none => 0
    some ((setEntry s c t e.seq fun e => { e with phase := 1 }).farAsk c t e.seq 4 spb j)
where
  flagN (b : Bool) : Nat := if b then 16 else 0

/-- A change of a command. -/
def State.modFar (s : State) (id : Nat) (f : FarCmd → FarCmd) : State := { s with fars := s.fars.map fun m => if m.id == id then f m else m }

def State.farCmd (s : State) (id : Nat) : Option FarCmd := s.fars.find? fun m => m.id == id

/-- Two commands are at one strait. -/
def FarCmd.sameStrait (a b : FarCmd) : Bool := a.strait == b.strait && cPart a.core == cPart b.core

/-- R358, R359: the straits at which a command takes a slot: a VFLIP acts at every strait of its partition. -/
def State.straitsFor (s : State) (m : FarCmd) : List Nat :=
  if m.kind == 4 then (match s.ptnOf m.core with | some q => (s.wafer (cPart m.core)).straitsOf q | none => [m.strait]) else [m.strait]

def State.atStrait (s : State) (m n : FarCmd) (j : Nat) : Bool := cPart n.core == cPart m.core && (s.straitsFor n).contains j

/-- R377: a line access waits on a PARK page. -/
def FarCmd.waits (m : FarCmd) (n : Nat) : Bool := m.waiting.any fun w => w.line == n

/-- STRAIT_ADMIT: R359, R365, R373: the oldest request for a credit of a strait is granted while one of its 64 slots is free: the command
leaves the store queue, counts its bytes and fixes its selectors. -/
def State.straitAdmit (s : State) (id : Nat) : State :=
  match s.farCmd id with
  | none => s
  | some m =>
    let js := s.straitsFor m
    let full : Bool := js.any fun j => 64 ≤ (s.fars.filter fun n => n.stage != .credit && s.atStrait m n j).length
    let later : Bool := s.fars.any fun n => n.stage == .credit && n.id < id && js.any fun j => s.atStrait m n j
    if m.stage != .credit || full || later then s
    else
      let ts := if m.kind == 4 || spbPhys m.spb then none else (s.ptnOf m.core).bind fun q => s.tables (cPart m.core) q
      let s := { s with ids := s.ids + 1 }.modFar id fun n => { n with stage := .admitted, tables := ts, arrived := s.ids }
      if (s.strand m.core m.strand).sq.any fun e => e.seq == m.seq then
        (s.modStrand m.core m.strand fun x => { x with fpbc := x.fpbc + m.fpbc }).finish m.core m.strand m.seq fun x => x
      else s

def execStraitAdmit (cmd : Nat) (s : State) : Out := .next (s.straitAdmit cmd)

/-! ## Line accesses (R362 to R364, R369, R370) -/

/-- What an access to a far address meets: its physical address and key, a fault n, a wait on a PARK page, or a page the TLB lacks. -/
inductive Xlate where
  | ok (pa : Nat) (key : BitVec 512)
  | fault (n : Nat)
  | park
  | miss

/-- R373: the selector that a command fixed at its admission for the page of a far address, where the page was versioned. -/
def FarCmd.fixed (m : FarCmd) (va : Nat) : Option Bool :=
  match m.tables.bind fun t => t.leaf va with
  | some l => if l.w0.testBit 3 then some (l.w0.testBit 4) else none
  | none => none

/-- R373: the selector of a command for a versioned page: as fixed at its admission, or at its first access to the page since (log 126). -/
def FarCmd.selector (m : FarCmd) (e : TlbEntry) (va : Nat) : Bool :=
  ((m.fixed va).or ((m.sels.find? fun f => f.1 == e.va).map (·.2))).getD (e.w0.getLsbD 4)

/-- R369 rows 5 to 7: the key slot, the decoders and the port, which goes out of use on a DEAD tile (R22). -/
def State.lineAccess (s : State) (p : Nat) (q : Ptn) (j pa key : Nat) : Xlate :=
  let t := (s.wafer p).strait j
  match (q.key key).st with
  | .empty => .fault 7
  | .revoked => .fault 8
  | .loaded =>
    if !t.decodes pa then .fault 9
    else if ((s.wafer p).chart.tile (straitTile j)).cls == .dead then .fault 10
    else .ok pa (q.key key).value

/-- R367, R369: an access of a command to a far address; `walk` takes a page that the TLB lacks from the tables. -/
def State.xlate (s : State) (q : Ptn) (m : FarCmd) (va : Nat) (write walk : Bool) : Xlate :=
  let p := cPart m.core
  if spbLim m.spb ≤ va then .fault 2
  else if !q.far.en then .fault 3
  else if spbPhys m.spb then s.lineAccess p q m.strait va (spbF m.spb 7 23 2)
  else
    match s.leafAt p q m.strait va walk with
    | none => .miss
    | some e =>
      let w0 := e.w0.toNat
      if !q.inGroup m.core e.w1.toNat then .fault 5
      else if write && bits w0 2 1 == 0 then if bits w0 7 1 == 1 then .park else .fault 6
      else
        let sel := bits w0 3 1 == 1 && (m.selector e va != (spbF m.spb 7 6 1 == 1))
        s.lineAccess p q m.strait (bits w0 8 36 * 2^16 + (va - e.va) + (if sel then pageSize e.big else 0)) (bits w0 5 2)

/-- What stops a line access before it is performed. -/
inductive Stop where
  | fault (n : Nat) (va : Nat)
  | park (va : Nat)
  | miss (va : Nat)
  /-- A vault that it needs is being moved, an earlier local write of the strand has not been performed (R281), or an access that must come
  before it at the line (R359, R363). -/
  | later

/-- A vault read of the command's side: its bytes as a number, and what is wrong with it: 11 poison, 42 a vault that cannot be reached (R53),
of which nothing is known. -/
def State.sideRead (s : State) (m : FarCmd) (ea : Word) (n : Nat) : Except Stop (Nat × Option Nat) :=
  match s.place m.core ea with
  | .vault h o =>
    if (s.stops m.core h).isSome then .ok (Config.freeNat s.draws % 2^(8 * n), some 42)
    else if s.moving h || (h == m.core && ((s.core m.core).writesLeft m.strand m.seq || (s.net ++ s.parks).any fun r =>
        r.core == m.core && r.strand == m.strand && r.home == h && r.seq < m.seq && !r.toLoad)) then .error .later
    else .ok ((s.core h).vault.le o n, if (s.core h).poisonedIn o n then some 11 else none)
  | _ => .error .later

/-- R363, R380: an index that is poisoned goes on as it was read; of one that was read without data nothing is known. -/
def noData (bad : Option Nat) : Bool := bad == some 10 || bad == some 42

/-- The address of element n's index, its chase depth, and the bytes of a line access, or element. -/
def FarCmd.indexAt (m : FarCmd) (n : Nat) : Word := spbWord m.spb 4 + BitVec.ofNat 64 (n * spbIw m.spb)
def FarCmd.depth (m : FarCmd) : Nat := spbF m.spb 7 12 2
def FarCmd.len (m : FarCmd) : Nat := if farElems m.kind then spbEs m.spb else 64

/-- The vault side of line access, or element, n. -/
def FarCmd.side (m : FarCmd) (n : Nat) : Word :=
  if farElems m.kind then spbWord m.spb 1 + BitVec.ofNat 64 (n * spbEs m.spb)
  else
    let per := spbF m.spb 2 0 32 / 64
    spbWord m.spb 1 + BitVec.ofNat 64 (n / per) * spbI32 m.spb 3 32 + BitVec.ofNat 64 (64 * (n % per))

/-- The vault events of line access, or element, n. -/
def FarCmd.events (m : FarCmd) (n : Nat) : List (Nat × Nat) := Machine.events (vaultOff (m.side n)) m.len 4

/-- R362: the far address of line access n of FMGET and FMPUT. -/
def FarCmd.rowAt (m : FarCmd) (n : Nat) : Nat :=
  let per := spbF m.spb 2 0 32 / 64
  (((spbF m.spb 0 0 52 : Nat) : Int) + (n / per : Nat) * sx 32 (spbF m.spb 3 0 32) + (64 * (n % per) : Nat)).toNat

/-- R362, R363: the far address that an access reads or writes next: of its chase, or of its line; none while its index is not known. -/
def FarCmd.nextVa (m : FarCmd) (f : FarPart) : Option Nat :=
  if !farElems m.kind then some (m.rowAt f.line)
  else f.index.map fun i =>
    if f.chain.length < m.depth then spbF m.spb (5 + f.chain.length) 0 52 + i * spbIw m.spb else spbF m.spb 0 0 52 + i * spbEs m.spb

/-- R363: the index of an access and its chase have been read; a read without data ends the chase. -/
def FarCmd.chased (m : FarCmd) (f : FarPart) : Bool :=
  !farElems m.kind || noData f.wrong || (f.index.isSome && f.chain.length == m.depth)

/-- What a line access does in one step (log 22): it reads its index, or a link of its chase; reads its far line; performs a vault event; or
writes its far line. -/
inductive FarStep where
  | index
  | chase
  | line
  | beat (i : Nat)
  | write
deriving DecidableEq, Repr

/-- R362 to R364: the steps that an access can take next, in no promised order. A write of less than a line reads the line first; an element
to scatter whose index was read without data ends (log 51). -/
def FarCmd.steps (m : FarCmd) (f : FarPart) : List FarStep :=
  let beats := ((List.range (m.events f.line).length).filter fun i => !f.beats.contains i).map FarStep.beat
  let chain := if m.chased f then [] else [if f.index.isNone then FarStep.index else .chase]
  if farWrites m.kind then
    let line := if m.chased f && m.len < 64 && f.got.isNone then [FarStep.line] else []
    if noData f.wrong || (chain ++ line ++ beats).isEmpty then [.write] else chain ++ line ++ beats
  else if !m.chased f then chain
  else if f.got.isNone then [.line]
  else beats

/-- What is known of line access n: what it has done, or nothing yet. -/
def FarCmd.part (m : FarCmd) (n : Nat) : FarPart :=
  (m.parts.find? fun f => f.line == n).getD ⟨n, [], none, none, 0, false, [], none, false⟩

/-- R375, R385: an access has started: its far line has been read for it. A fault of its command and a hold let it complete. -/
def FarCmd.begun (m : FarCmd) (n : Nat) : Bool := (m.part n).got.isSome

/-- R359: the far physical lines that access k of a command has still to reach, those of pages the TLB lacks too; none where they cannot be
told yet. -/
def State.linesLeft (s : State) (q : Ptn) (x : FarCmd) (k : Nat) : Option (List Nat) :=
  let f := x.part k
  match f.got with
  | some g => some (if farWrites x.kind then [g.pa / 64] else [])
  | none =>
    if noData f.wrong then some []
    else if !x.chased f then none
    else match x.nextVa f with
      | none => none
      | some va => match s.xlate q x va false true with | .ok pa _ => some [pa / 64] | _ => none

/-- R359, R363: an access that must come first may touch a line before access n does: an earlier element of a scatter, or an access of a
command admitted earlier at the strait, that goes on or has started, counts where its lines cannot be told either (log 54); and another at the
strait is between its read and its write of the line. -/
def State.lineBlocked (s : State) (q : Ptn) (m : FarCmd) (n line : Nat) : Bool :=
  let goes (x : FarCmd) (k : Nat) (parked : Bool) : Bool :=
    !x.done.contains k && !x.waits k && (x.stage == .admitted || parked || x.begun k || (x.part k).going)
      && (match s.linesLeft q x k with | some ls => ls.contains line | none => true)
  (m.kind == 3 && (List.range n).any fun k => goes m k (m.stage == .parked))
    || s.fars.any fun x => x.sameStrait m
      && ((x.id < m.id && (List.range (farCount x.kind x.spb)).any fun k => goes x k false)
        || (farWrites x.kind && x.parts.any fun f => !(x.id == m.id && f.line == n)
              && (match f.got with | some g => g.pa / 64 == line | none => false)))

/-- R359, R369: an access reaches a far address: its physical address and key, or what stops it. -/
def State.reach (s : State) (q : Ptn) (m : FarCmd) (n va : Nat) (write : Bool) : Except Stop (Nat × BitVec 512) :=
  match s.xlate q m va write false with
  | .fault k => .error (.fault k va)
  | .park => .error (.park va)
  | .miss => .error (.miss va)
  | .ok pa key => if s.lineBlocked q m n (pa / 64) then .error .later else .ok (pa, key)

/-- R380: the device at a strait, or its link, fails an access to a far physical address. -/
def Strait.fails (t : Strait) (pa : Nat) : Bool := !t.up || t.faulty.contains (pa / 64)

/-- R380: a far line read for a command, and what is wrong with it as a fault n: 11 poison, 10 a read that fails without data. -/
def State.deviceRead (s : State) (m : FarCmd) (pa : Nat) (key : BitVec 512) : BitVec 512 × Option Nat :=
  let w := s.wafer (cPart m.core)
  if (w.strait m.strait).fails pa then (BitVec.ofNat 512 (Config.freeNat s.draws), some 10)
  else
    let (d, bad) := w.farRead (pa / 64) key
    (BitVec.ofNat 512 d, if bad then some 11 else none)

/-- R378: the TLB counts a line access. -/
def State.countLine (s : State) (p j va : Nat) : State :=
  s.modStrait p j fun t => { t with tlb := t.tlb.map fun e =>
    if e.va ≤ va && va < e.va + pageSize e.big then { e with count := if e.count < 65535 then e.count + 1 else e.count } else e }

/-- R373, R378: an access goes through a page: its TLB entry counts it, and the selector of a versioned page that the command has not fixed
yet is fixed. Those under PHYS have no leaf. -/
def State.touch (s : State) (m : FarCmd) (va : Nat) : State :=
  if spbPhys m.spb then s
  else
    let p := cPart m.core
    let s' := s.countLine p m.strait va
    match ((s.wafer p).strait m.strait).hit va with
    | none => s'
    | some e =>
      if !e.w0.getLsbD 3 || (m.fixed va).isSome || m.sels.any fun f => f.1 == e.va then s'
      else s'.modFar m.id fun x => { x with sels := (e.va, e.w0.getLsbD 4) :: x.sels }

/-- R375, R380: an error record about a command's access at an address. -/
def State.farRecord (s : State) (m : FarCmd) (n : Nat) (addr : Word) : State :=
  s.record m.core (farCause n 3) (some m.strand) (s.strand m.core m.strand).ctx.pc addr
    (if n == 7 || n == 8 then 9 else if n == 11 then 6 else if n == 10 then 0 else 10)

/-- The record of what is wrong with a read at an address: of the strait class, or a vault of the command's side that cannot be reached
(R53). -/
def State.farWrong (s : State) (m : FarCmd) (bad : Option Nat) (addr : Word) : State :=
  match bad with
  | none => s
  | some k => if k == 42 then s.record m.core (memCause 10 3) none 0 addr 0 else s.farRecord m k addr

/-- R364, R380: one event's bytes arrive at the command's vault side, poisoned or not. -/
def State.sideBeat (s : State) (m : FarCmd) (h : CoreId) (a : Nat) (d : List Byte) (bad : Bool) : State :=
  let fe := spbF m.spb 7 5 1 == 1
  if bad then s.poisonWrite h a d fe else s.engineWrite h a d fe

/-- R365: an access has been performed; its bytes leave FPBC. -/
def State.lineDone (s : State) (m : FarCmd) (n bytes : Nat) : State :=
  let s := s.modFar m.id fun x =>
    { x with done := nadd n x.done, waiting := x.waiting.filter (·.line ≠ n), parts := x.parts.filter (·.line ≠ n), fpbc := x.fpbc - bytes }
  if farWrites m.kind then s.modStrand m.core m.strand fun x => { x with fpbc := x.fpbc - bytes } else s

/-- What an access has done changes. -/
def State.setPart (s : State) (m : FarCmd) (f : FarPart) : State :=
  s.modFar m.id fun x => { x with parts := f :: x.parts.filter (·.line ≠ f.line) }

/-- R363: an access reads its index. -/
def State.farIndex (s : State) (m : FarCmd) (f : FarPart) : Except Stop State := do
  let ea := m.indexAt f.line
  let (v, bad) ← s.sideRead m ea (spbIw m.spb)
  pure ((s.farWrong m bad ea).setPart m { f with index := some v, wrong := bad })

/-- R363, R380: and follows it one step through its chase. -/
def State.farChase (s : State) (q : Ptn) (m : FarCmd) (f : FarPart) : Except Stop State := do
  let va := (m.nextVa f).getD 0
  let (pa, key) ← s.reach q m f.line va false
  let (d, bad) := s.deviceRead m pa key
  pure (((s.touch m va).farWrong m bad (farAddr va)).setPart m
    { f with chain := f.chain ++ [va], index := some (bits d.toNat (8 * (pa % 64)) (8 * spbIw m.spb)),
             wrong := if noData bad then bad else f.wrong.or bad })

/-- R362, R363, R380: an access reads its far line: what a read is for, and what a write of less than a line begins with. An element whose
index was read without data reads none, and is written poisoned (log 51). -/
def State.farGet (s : State) (q : Ptn) (m : FarCmd) (f : FarPart) : Except Stop State :=
  if noData f.wrong then .ok (s.setPart m { f with got := some ⟨0, 0, BitVec.ofNat 512 (Config.freeNat s.draws), true⟩ })
  else do
    let va := (m.nextVa f).getD 0
    let (pa, key) ← s.reach q m f.line va (farWrites m.kind)
    let (d, bad) := s.deviceRead m pa key
    pure (((s.touch m va).farWrong m bad (farAddr va)).setPart m { f with got := some ⟨pa, key, d, bad.isSome⟩ })

/-- R364, R380: a vault event of an access: its bytes are read from the vault, or written there; the last that a read writes ends it. -/
def State.farBeat (s : State) (m : FarCmd) (f : FarPart) (i : Nat) : Except Stop State :=
  let side := m.side f.line
  let (b, k) := (m.events f.line).getD i (0, 0)
  let ea := side + BitVec.ofNat 64 (b - vaultOff side)
  let after : FarPart := { f with beats := i :: f.beats }
  if farWrites m.kind then do
    let (v, bad) ← s.sideRead m ea k
    pure ((if bad == some 42 then s.farWrong m bad ea else s).setPart m
      { after with data := f.data ||| BitVec.ofNat 512 (v * 2^(8 * (b - vaultOff side))), bad := f.bad || bad.isSome })
  else
    match s.place m.core ea, f.got with
    | .vault h o, some g =>
      if s.away m.core h then .error .later
      else
        let v := g.data.toNat / 2^(8 * (g.pa % 64 + (b - vaultOff side)))
        let s := if (s.stops m.core h).isSome then s.farWrong m (some 42) ea
                 else s.sideBeat m h o (leBytes v k) (g.bad || f.wrong.isSome)
        .ok (if (m.events f.line).length ≤ after.beats.length then s.lineDone m f.line 0 else s.setPart m after)
    | _, _ => .error .later

/-- R362, R363: the far line that a write access whose bytes have been read writes: its address, its physical address and key, the line, and
whether it is poisoned (R380). -/
def State.lineOut (s : State) (q : Ptn) (m : FarCmd) (f : FarPart) : Except Stop (Nat × Nat × BitVec 512 × Nat × Bool) :=
  let va := (m.nextVa f).getD 0
  match f.got with
  | some g => .ok (va, g.pa, g.key, patch g.data.toNat (g.pa % 64) m.len f.data.toNat, g.bad || f.bad || f.wrong.isSome)
  | none => (s.reach q m f.line va true).map fun r => (va, r.1, r.2, f.data.toNat, f.bad || f.wrong.isSome)

/-- R362, R363, R380: an access writes its far line, which the device acknowledges, or fails (FAR_DEVICE). -/
def State.farPut (s : State) (q : Ptn) (m : FarCmd) (f : FarPart) : Except Stop State :=
  if noData f.wrong then .ok (s.lineDone m f.line m.len)
  else do
    let (va, pa, key, v, bad) ← s.lineOut q m f
    let p := cPart m.core
    if ((s.wafer p).strait m.strait).fails pa then .error (.fault 10 va)
    else
      let s := (if f.got.isNone then s.touch m va else s).farWrite p (pa / 64) key v bad
      pure ((if f.bad then s.farRecord m 11 (farAddr va) else s).lineDone m f.line m.len)

/-- One step of an access. -/
def State.farStep (s : State) (q : Ptn) (m : FarCmd) (f : FarPart) : FarStep → Except Stop State
  | .index => s.farIndex m f
  | .chase => s.farChase q m f
  | .line => s.farGet q m f
  | .beat i => s.farBeat m f i
  | .write => s.farPut q m f

/-- R375, R377: a free fault slot of a strait. -/
def Strait.freeSlot (t : Strait) : Option Nat := (List.range 16).find? fun i => !(t.slots.any fun f => f.idx == i)

def insertWait (a : FarCmd × Waiting) : List (FarCmd × Waiting) → List (FarCmd × Waiting)
  | [] => [a]
  | b :: l => if a.2.order < b.2.order then a :: b :: l else b :: insertWait a l

/-- The waits of some commands, in the order in which they began. -/
def waitOrder (ms : List FarCmd) : List (FarCmd × Waiting) :=
  (ms.flatMap fun m => m.waiting.map fun w => (m, w)).foldl (fun l a => insertWait a l) []

/-- R377: waiting writes without a slot take one as slots become free, oldest first. -/
def State.fillSlots (s : State) (p j : Nat) : State :=
  (waitOrder (s.fars.filter fun m => cPart m.core == p && m.strait == j)).foldl (fun s (m, w) =>
    let t := (s.wafer p).strait j
    if t.slots.any fun f => f.cmd == m.id && f.line == w.line then s
    else
      match t.freeSlot with
      | none => s
      | some i => s.modStrait p j fun t => { t with slots := t.slots ++ [⟨i, m.id, w.line, true, farCause 6 0, farAddr w.va, 0⟩] }) s

/-- R377: a write begins to wait on a PARK page. -/
def State.farPark (s : State) (m : FarCmd) (n va : Nat) : State :=
  let s := (s.setPart m { m.part n with going := false }).modFar m.id fun x => { x with waiting := x.waiting ++ [⟨n, s.ids, va⟩] }
  { s with ids := s.ids + 1 }.fillSlots (cPart m.core) m.strait

/-- R375, R377: a command fails: it performs none of its remaining accesses; a write that waits on a PARK page is none of them (log 127). -/
def State.farFail (s : State) (id : Nat) (cause : Nat) (addr : Word) : State :=
  match s.farCmd id with
  | none => s
  | some m =>
    let s := s.modFar id fun x => { x with stage := .failed, fault := some (cause, addr) }
    let s := s.modStrait (cPart m.core) m.strait fun t => { t with slots := t.slots.filter fun f => f.cmd ≠ id || f.wpark }
    s.fillSlots (cPart m.core) m.strait

/-- R375: a line access has faulted: a record, and the command is parked or fails, unless it already is. The access keeps its index and what it
has read of its vault side; a far line that it has read it will read again. -/
def State.farFault (s : State) (q : Ptn) (m : FarCmd) (n k va : Nat) : State :=
  let s := (s.farRecord m k (farAddr va)).setPart m { m.part n with got := none, going := false }
  let t := (s.wafer (cPart m.core)).strait m.strait
  if m.stage != .admitted then s
  else
  match (if q.far.pwait = 0 then none else t.freeSlot) with
  | none => s.farFail m.id (farCause k 0) (farAddr va)
  | some i =>
    let f : FaultSlot := ⟨i, m.id, n, false, farCause k 0, farAddr va, s.timerStart m.core + 1500 * q.far.pwait⟩
    (s.modStrait (cPart m.core) m.strait fun t => { t with slots := t.slots ++ [f] }).modFar m.id fun x => { x with stage := .parked }

/-- R375, R377, R385: access n of a command can take a step: one of a command that goes on, outside a hold; one that has started; a write that
is replayed. -/
def State.canStep (s : State) (m : FarCmd) (n : Nat) : Bool :=
  !m.done.contains n && !m.waits n && n < farCount m.kind m.spb
    && (m.begun n || (!s.frozen m.core && (m.stage == .admitted || (m.part n).going)))

/-- FAR_LINE_COMPLETE: a step of one line access, or element, one of those it can take next, by a free value (log 22); in a hold the last that
completes lets the hold stand (R385, R403). -/
def State.farLine (s : State) (id n : Nat) : State :=
  match s.farCmd id with
  | none => s
  | some m =>
    match s.ptnOf m.core with
    | none => s
    | some q =>
      if !s.canStep m n then s
      else
        let f := m.part n
        let steps := m.steps f
        let s := match s.farStep q m f (steps.getD (Config.freeNat s.draws % steps.length) .write) with
          | .ok t => { t with draws := t.draws + 1 }
          | .error (.fault k va) => s.farFault q m n k va
          | .error (.park va) => s.farPark m n va
          | .error (.miss _) => s
          | .error .later => s
        s.heldNow m.core

def execFarLineComplete (cmd line : Nat) (s : State) : Out := .next (s.farLine cmd line)

/-- R378: a count is added to ACNT of a leaf, saturating. -/
def State.addCount (s : State) (p : Nat) (q : Ptn) (e : TlbEntry) : State :=
  let k := q.key 0
  if e.count = 0 || k.st != .loaded then s
  else
    let w0 := elem ((s.wafer p).farRead (e.slot / 64) k.value).1 64 (e.slot % 64 / 8)
    let a := bits w0 48 16 + e.count
    s.farPoke p e.slot 8 k.value (w0 % 2^48 + (if 65535 < a then 65535 else a) * 2^48) false

/-- R370: entries that meet [va, va + size) leave the TLBs of a partition's straits, with their counts. -/
def State.dropTlb (s : State) (p : Nat) (q : Ptn) (va size : Nat) : State :=
  ((s.wafer p).straitsOf q).foldl (fun s j =>
    let meets (e : TlbEntry) : Bool := e.va < va + size && va < e.va + pageSize e.big
    let out := ((s.wafer p).strait j).tlb.filter meets
    let s := s.modStrait p j fun t => { t with tlb := t.tlb.filter fun e => !meets e }
    out.foldl (fun s e => s.addCount p q e) s) s

/-- R370: a leaf enters the TLB of a strait, the oldest entry leaving when it is full. -/
def State.fillTlb (s : State) (p : Nat) (q : Ptn) (j : Nat) (l : Leaf) : State :=
  let t := (s.wafer p).strait j
  let s := match t.tlb with
    | e :: rest => if 4096 ≤ t.tlb.length then (s.modStrait p j fun t => { t with tlb := rest }).addCount p q e else s
    | [] => s
  s.modStrait p j fun t => { t with tlb := t.tlb ++ [l.cached] }

/-- The page that access n needs next and the TLB lacks. -/
def State.missing (s : State) (q : Ptn) (m : FarCmd) (n : Nat) : Option Nat :=
  let f := m.part n
  if f.got.isSome || noData f.wrong then none
  else (m.nextVa f).bind fun va =>
    match s.xlate q m va (farWrites m.kind && m.chased f) false with
    | .miss => some va
    | _ => none

/-- TABLE_WALK: R366, R369, R370: the walker of a command's strait walks for the page that stops one of its accesses; a fault of the walk is
the access's fault. -/
def State.tableWalk (s : State) (id n : Nat) : State :=
  match s.farCmd id with
  | none => s
  | some m =>
    match s.ptnOf m.core with
    | none => s
    | some q =>
      if !s.canStep m n then s
      else
        match s.missing q m n with
        | none => s
        | some va =>
          match s.walk (cPart m.core) q m.strait va with
          | .error k => (s.farFault q m n k va).heldNow m.core
          | .ok l => s.fillTlb (cPart m.core) q m.strait l

def execTableWalk (cmd line : Nat) (s : State) : Out := .next (s.tableWalk cmd line)

/-! ## Fault slots (R375 to R377) -/

/-- A used slot of a strait. -/
def State.slotAt (s : State) (p j i : Nat) : Option FaultSlot := ((s.wafer p).strait j).slots.find? fun f => f.idx == i

/-- R375: the wait of a parked command ends; it resumes, or fails with its cause. -/
def State.unpark (s : State) (p j : Nat) (f : FaultSlot) (resume : Bool) : State :=
  if f.wpark then s
  else if resume then
    ((s.modStrait p j fun t => { t with slots := t.slots.filter fun g => g.idx ≠ f.idx }).modFar f.cmd fun x => { x with stage := .admitted }).fillSlots p j
  else s.farFail f.cmd f.cause f.addr

/-- FAULT_PWAIT_EXPIRE. -/
def execFaultPwaitExpire (part strait idx : Nat) (s : State) : Out :=
  .next (match s.slotAt part strait idx with
    | some f =>
      let held := match s.farCmd f.cmd with | some m => s.frozen m.core | none => false
      if !held && f.deadline ≤ s.now then s.unpark part strait f false else s
    | none => s)

/-- ACT_RESUME: the supervisor writes ACT = 1. -/
def execActResume (part strait idx : Nat) (s : State) : Out :=
  .next (match s.slotAt part strait idx with | some f => s.unpark part strait f true | none => s)

/-- ACT_FAIL: the supervisor writes ACT = 2. -/
def execActFail (part strait idx : Nat) (s : State) : Out :=
  .next (match s.slotAt part strait idx with | some f => s.unpark part strait f false | none => s)

/-! ## VFLIP (R374) and completion (R364, R379) -/

/-- R374: the leaves, and walk faults, of [a, b) under a table. -/
def State.leavesIn (s : State) (p : Nat) (q : Ptn) (j a b : Nat) : Nat → Nat → Nat → Nat → List (Except (Nat × Nat) Leaf)
  | 0, _, _, _ => []
  | n + 1, level, table, base =>
    (List.range (levelSize level)).flatMap fun i =>
      let lo := base + i * 2^levelShift level
      if b ≤ lo || lo + 2^levelShift level ≤ a then []
      else
        match s.walkRead p q j (table + 16 * i) with
        | .error k => [.error (k, lo)]
        | .ok (w0, w1) =>
          if bits w0 0 1 == 0 then []
          else if bits w0 1 1 == 1 then
            if level == 2 && (lo < a || b < lo + 2^levelShift level) then [.error (2, lo)]
            else if level < 2 || leafBad (level == 2) w0 then [.error (4, lo)]
            else [.ok ⟨table + 16 * i, lo, level == 2, w0, w1⟩]
          else if level == 3 || nodeBad level w0 w1 then [.error (4, lo)]
          else s.leavesIn p q j a b n (level + 1) (bits w0 9 43 * 2^9) lo

/-- R374 step 2: the checks of a leaf. -/
def Ptn.flipBad (q : Ptn) (c : CoreId) (l : Leaf) : Option Nat :=
  if !q.inGroup c l.w1 then some 5
  else if bits l.w0 2 1 == 0 || bits l.w0 7 1 == 1 then some 6
  else match (q.key (bits l.w0 5 2)).st with
    | .empty => some 7
    | .revoked => some 8
    | .loaded => none

/-- R374: VFLIP acts at every strait: its fault, or nothing: a leaf that it covers in part (step 1), else what comes first in address order. Where translation is off no page is mapped, and it skips them all. -/
def State.vflip (s : State) (q : Ptn) (m : FarCmd) : State × Option (Nat × Nat) :=
  let p := cPart m.core
  let a := spbF m.spb 0 0 48
  let len := spbF m.spb 1 0 64
  if len = 0 || !q.far.en then (s, none)
  else
    let ls := s.leavesIn p q m.strait a (a + len) 4 0 q.far.root 0
    let bad := ls.filterMap fun l => match l with | .error e => some e | .ok l => (q.flipBad m.core l).map fun k => (k, l.va)
    match (bad.find? fun e => e.1 == 2).or bad.head? with
    | some e => (s, some e)
    | none =>
      let flips := ls.filterMap fun l => match l with | .ok l => if bits l.w0 3 1 == 1 then some l else none | .error _ => none
      let s := flips.foldl (fun s l =>
        s.farPoke p l.slot 8 (q.key 0).value (if bits l.w0 4 1 == 1 then l.w0 - 16 else l.w0 + 16) false) s
      (flips.foldl (fun s l => s.dropTlb p q l.va l.size) s, none)

/-- R364, R379: a command completes: its increment, and its fault latched in the issuing strand. -/
def State.farEnd (s : State) (m : FarCmd) (fault : Option (Nat × Word)) : State :=
  let s := { s with fars := s.fars.filter fun x => x.id ≠ m.id }
  let s := if farWrites m.kind then s.modStrand m.core m.strand fun x => { x with fpbc := x.fpbc - m.fpbc } else s
  let sem := spbF m.spb 7 0 4
  let sv := spbF m.spb 7 4 1 == 1
  let at_ : CoreId := if m.kind == 0 || m.kind == 2 then (match s.place m.core (spbWord m.spb 1) with | .vault h _ => h | _ => m.core) else m.core
  let s := match fault with
    | some (base, addr) => s.latch m.core ⟨m.seq, base, addr, true, farWrites m.kind, true, BitVec.ofNat 4 sem, sv, at_ == m.core⟩ m.strand
    | none => s
  if sv then s.semGot at_ sem else s

/-- R371: a VFLIP of the partition that arrived earlier is still to act. -/
def State.flipBefore (s : State) (p : Nat) (q : Ptn) (arrived : Nat) : Bool :=
  s.fars.any fun x =>
    x.kind == 4 && x.stage == .admitted && x.arrived < arrived && cPart x.core == p && (s.ptnOf x.core).map (·.slot) == some q.slot

/-- FAR_COMMAND_COMPLETE: every access has been performed, or the command has failed and what had started has been; a VFLIP, when its turn has come (R371), acts. -/
def State.farComplete (s : State) (id : Nat) : State :=
  match s.farCmd id with
  | none => s
  | some m =>
    match s.ptnOf m.core with
    | none => s
    | some q =>
      if s.frozen m.core then s
      else if m.kind == 4 then
        if m.stage != .admitted || s.flipBefore (cPart m.core) q m.arrived || (q.far.op.isSome && q.far.opAt < m.arrived) then s
        else
          let (s, f) := s.vflip q m
          s.farEnd m (f.map fun (k, va) => (farCause k 0, farAddr va))
      else if m.stage == .failed then (if m.waiting.isEmpty && !m.parts.any fun f => f.got.isSome || f.going then s.farEnd m m.fault else s)
      else if m.stage == .admitted && m.done.length == farCount m.kind m.spb then s.farEnd m none
      else s

def execFarCommandComplete (cmd : Nat) (s : State) : Out := .next (s.farComplete cmd)

/-! ## The far control block (R371, R372, R378) -/

/-- R372 step 4: a waiting write is tried again: its slot is free, and it goes on by steps of its own. -/
def State.replay (s : State) (p : Nat) (m : FarCmd) (n : Nat) : State :=
  let s := s.modStrait p m.strait fun t => { t with slots := t.slots.filter fun g => !(g.wpark && g.cmd == m.id && g.line == n) }
  let s := (s.setPart m { m.part n with going := true }).modFar m.id fun x => { x with waiting := x.waiting.filter (·.line ≠ n) }
  s.fillSlots p m.strait

/-- R372 step 1: the leaf slot that a page names, from a table of a level. -/
def State.leafSlot (s : State) (p : Nat) (q : Ptn) (j va : Nat) (big : Bool) : Nat → Nat → Nat → Option Nat
  | 0, _, _ => none
  | n + 1, level, table =>
    let slot := table + 16 * (va / 2^levelShift level % levelSize level)
    if level == (if big then 2 else 3) then some slot
    else
      match s.walkRead p q j slot with
      | .error _ => none
      | .ok (w0, w1) => if bits w0 0 1 == 0 || bits w0 1 1 == 1 || nodeBad level w0 w1 then none
                        else s.leafSlot p q j va big n (level + 1) (bits w0 9 43 * 2^9)

/-- R372 step 3: the accesses of a partition on a part that have been made and not performed whole: command and access. -/
def State.accessesBegun (s : State) (p slot : Nat) : List (Nat × Nat) :=
  (s.fars.filter fun m => cPart m.core == p && (s.ptnOf m.core).map (·.slot) == some slot).flatMap fun m =>
    (m.parts.filter fun f => f.got.isSome).map fun f => (m.id, f.line)

/-- R372 step 3: an access of these has not been performed. -/
def State.accessesLeft (s : State) (old : List (Nat × Nat)) : Bool :=
  s.fars.any fun m => m.parts.any fun f => f.got.isSome && old.contains (m.id, f.line)

/-- R372 step 4: a write that is replayed has not been performed, has not faulted and has not begun to wait again. -/
def State.replaying (s : State) (id n : Nat) : Bool :=
  match s.farCmd id with
  | some m => (m.part n).going
  | none => false

/-- R372 steps 4 and 5: the next of the page's waiting writes is replayed, outside a hold (R385), once the one before has been; after the last
BUSY is cleared. -/
def State.leafReplay (s : State) (p slot : Nat) (cur : Option (Nat × Nat)) (rest : List (Nat × Nat)) : State :=
  let op (s : State) (o : Option FarOp) : State := s.modPtn p slot fun q => { q with far := { q.far with op := o } }
  if cur.any fun a => s.replaying a.1 a.2 then s
  else
    match rest with
    | [] => op s none
    | (id, n) :: rest =>
      match s.farCmd id with
      | some m => if s.frozen m.core then op s (some (.leafReplay none ((id, n) :: rest)))
                  else if m.waits n then op (s.replay p m n) (some (.leafReplay (some (id, n)) rest))
                  else op s (some (.leafReplay none rest))
      | none => op s (some (.leafReplay none rest))

/-- R372 steps 3 to 5: once the accesses made under the old translation have been performed, the page's waiting writes, with or without a
slot, are replayed in the order in which they began to wait. -/
def State.leafEnd (s : State) (p slot : Nat) (old : List (Nat × Nat)) : State :=
  match (s.wafer p).ptnIn slot with
  | none => s
  | some q =>
    if s.accessesLeft old then s.modPtn p slot fun q => { q with far := { q.far with op := some (.leafWait old) } }
    else
      let va := q.far.leafva
      let mine := s.fars.filter fun m => cPart m.core == p && (s.ptnOf m.core).map (·.slot) == some slot
      let waits := (waitOrder mine).filter fun (_, w) => va ≤ w.va && w.va < va + pageSize q.far.size
      s.leafReplay p slot none (waits.map fun (m, w) => (m.id, w.line))

/-- LEAF_COMMIT: R372. -/
def State.leafCommit (s : State) (p slot : Nat) : State :=
  match (s.wafer p).ptnIn slot with
  | none => s
  | some q =>
    match q.far.op, ((s.wafer p).straitOf q 0) with
    | some (.leafWait old), _ => s.leafEnd p slot old
    | some (.leafReplay cur rest), _ => s.leafReplay p slot cur rest
    | some (.leaf w0), some j =>
      let fail (s : State) : State := s.modPtn p slot fun q => { q with far := { q.far with op := none, err := true } }
      if s.flipBefore p q q.far.opAt then s else
      (match s.leafSlot p q j q.far.leafva q.far.size 4 0 q.far.root with
        | none => fail s
        | some at_ =>
          match s.walkRead p q j at_ with
          | .error _ => fail s
          | .ok (old, _) =>
            let new := w0.toNat % 2^48 + bits old 48 16 * 2^48
            let s := s.farPoke p at_ 16 (q.key 0).value (new + q.far.leafw1.toNat * 2^64) false
            let s := s.modPtn p slot fun q => { q with far := { q.far with leafw0 := w0, err := false } }
            (s.dropTlb p q q.far.leafva (pageSize q.far.size)).leafEnd p slot (s.accessesBegun p slot))
    | _, _ => s

def execLeafCommit (part slot : Nat) (s : State) : Out := .next (s.leafCommit part slot)

/-- R371: FLUSH waits as step 3 of R372. -/
def State.flushEnd (s : State) (p slot : Nat) (old : List (Nat × Nat)) : State :=
  s.modPtn p slot fun q => { q with far := { q.far with op := if s.accessesLeft old then some (.flushWait old) else none } }

/-- FLUSH: R371: every strait of the partition drops its TLB. -/
def State.flush (s : State) (p slot : Nat) : State :=
  match (s.wafer p).ptnIn slot with
  | none => s
  | some q =>
    match q.far.op with
    | some .flush => if s.flipBefore p q q.far.opAt then s else (s.dropTlb p q 0 (2^48)).flushEnd p slot (s.accessesBegun p slot)
    | some (.flushWait old) => s.flushEnd p slot old
    | _ => s

def execFlush (part slot : Nat) (s : State) : Out := .next (s.flush part slot)

/-- CNTOP: R378. -/
def State.cntop (s : State) (p slot : Nat) : State :=
  match (s.wafer p).ptnIn slot with
  | none => s
  | some q =>
    match q.far.op with
    | some (.count n) =>
      let va := q.far.cntva
      let js := (s.wafer p).straitsOf q
      let here (e : TlbEntry) : Bool := e.va ≤ va && va < e.va + pageSize e.big
      let sum := js.foldl (fun a j => (((s.wafer p).strait j).tlb.filter here).foldl (fun a e => a + e.count) a) 0
      let clear (s : State) : State :=
        js.foldl (fun s j => s.modStrait p j fun t => { t with tlb := t.tlb.map fun e => if here e then { e with count := 0 } else e }) s
      let fin (s : State) (v : Nat) : State := s.modPtn p slot fun q => { q with far := { q.far with op := none, cntval := v } }
      if s.flipBefore p q q.far.opAt then s else
      (match s.walk p q (js.headD 0) va with
        | .error _ => fin s 0
        | .ok l =>
          let a := bits l.w0 48 16 + sum
          let v := (if 65535 < a then 65535 else a) / 2^n
          fin ((clear s).farPoke p l.slot 8 (q.key 0).value (l.w0 % 2^48 + v * 2^48) false) v)
    | _ => s

def execCntop (part slot : Nat) (s : State) : Out := .next (s.cntop part slot)

/-- R371: the word at an offset of the far control block. -/
def FarBlock.read (b : FarBlock) (off : Nat) : Nat :=
  let f (x : Bool) (n : Nat) : Nat := if x then 2^n else 0
  match off with
  | 0x00 => f b.en 0 + b.root
  | 0x08 => b.pwait
  | 0x10 => f b.size 0 + b.leafva
  | 0x18 => b.leafw1.toNat
  | 0x20 => b.leafw0.toNat
  | 0x28 => f b.op.isSome 0 + f b.err 1
  | 0x38 => b.cntva
  | 0x48 => b.cntval
  | n => if 0x200 ≤ n && n < 0x400 then (vget b.groups ((n - 0x200) / 8)).toNat else 0

/-- R371: a write of the far control block; an operation that it starts is numbered `id`. -/
def FarBlock.write (b : FarBlock) (off : Nat) (v : Word) (id : Nat) : FarBlock :=
  let busy := b.op.isSome
  match off with
  | 0x00 => { b with en := v.getLsbD 0, root := bits v.toNat 13 39 * 2^13 }
  | 0x08 => { b with pwait := bits v.toNat 0 16 }
  | 0x10 => if busy then b else { b with size := v.getLsbD 0, leafva := if v.getLsbD 0 then bits v.toNat 21 27 * 2^21 else bits v.toNat 16 32 * 2^16 }
  | 0x18 => if busy then b else { b with leafw1 := v }
  | 0x20 => if busy then b else { b with op := some (.leaf v), opAt := id, err := false }
  | 0x30 => if busy || !v.getLsbD 0 then b else { b with op := some .flush, opAt := id }
  | 0x38 => { b with cntva := bits v.toNat 16 32 * 2^16 }
  | 0x40 => if busy then b else { b with op := some (.count (bits v.toNat 0 4)), opAt := id }
  | n => if 0x200 ≤ n && n < 0x400 then { b with groups := vset b.groups ((n - 0x200) / 8) (BitVec.ofNat 64 (bits v.toNat 0 37)) } else b

/-! ## The strait blocks (R376) -/

def KeyState.code : KeyState → Nat
  | .empty => 0
  | .loaded => 1
  | .revoked => 2

/-- R376: the word at an offset of strait j's block. -/
def State.straitRead (s : State) (c : CoreId) (j off : Nat) : Nat :=
  match s.ptnOf c with
  | none => 0
  | some q =>
    match (s.wafer (cPart c)).straitOf q j with
    | none => 0
    | some pj =>
      let t := (s.wafer (cPart c)).strait pj
      let f (x : Bool) (n : Nat) : Nat := if x then 2^n else 0
      if off == 0 then f t.up 0 + f t.rate 1 + t.width * 4 + f t.ide 7
      else if off == 8 then (List.range 4).foldl (fun a k => a + (q.key k).st.code * 4^k) 0
      else if 0x100 ≤ off && off < 0x200 then
        match t.slots.find? fun g => g.idx == (off - 0x100) / 16 with
        | none => 0
        | some g =>
          if off % 16 == 8 then g.addr.toNat
          else
            match s.farCmd g.cmd with
            | some m => 1 + f g.wpark 1 + g.cause * 4 + m.strand.1 * 2^11 + s.coord m.core * 2^13
            | none => 1 + f g.wpark 1 + g.cause * 4
      else 0

/-- R376: a write of strait j's block: ACT. -/
def State.straitWrite (s : State) (c : CoreId) (j off : Nat) (v : Word) : State :=
  match s.ptnOf c with
  | none => s
  | some q =>
    match (s.wafer (cPart c)).straitOf q j with
    | none => s
    | some pj =>
      if 0x100 ≤ off && off < 0x200 && off % 16 == 0 then
        match s.slotAt (cPart c) pj ((off - 0x100) / 16) with
        | none => s
        | some f =>
          match bits v.toNat 34 2 with
          | 1 => s.unpark (cPart c) pj f true
          | 2 => s.unpark (cPart c) pj f false
          | _ => s
      else s

/-! ## The link (R356, R380, R396) -/

/-- R396: a record about a strait, in the partition that owns it. -/
def State.straitRecord (s : State) (p j n synd : Nat) : State :=
  let w := s.wafer p
  match w.ptns.find? fun q => (w.straitsOf q).contains j with
  | some q => s.record (leadCore p q) (farCause n 3) none 0 0 synd
  | none => s.modWafer p fun w =>
      { w with errq := w.errq ++ [⟨farCause n 3, none, synd, none, none, 0, 0, 0, 0, s.now⟩] }

/-- FAR_LINK_DOWN: the link of a strait drops: its accesses fault FAR_DEVICE from now on. -/
def execFarLinkDown (part strait : Nat) (s : State) : Out :=
  .next (if ((s.wafer part).strait strait).up then
      (s.modStrait part strait fun t => { t with up := false }).straitRecord part strait 12 0
    else s)

/-- FAR_IDE: an integrity check of the link fails; under containment the link carries nothing more (R356). -/
def execFarIde (part strait : Nat) (s : State) : Out :=
  .next (let t := (s.wafer part).strait strait
    if t.up && t.ide then (s.modStrait part strait fun t => { t with up := false, ide := false }).straitRecord part strait 13 0 else s)

/-- R356: what is attached to a strait can train. -/
def Strait.trains (t : Strait) : Bool := t.devOk && (t.devWidth == 16 || t.devWidth == 8 || t.devWidth == 4)

/-- R430: the boot is over once every strait that can train has trained (log 132). -/
def Wafer.booted (w : Wafer) : Wafer :=
  { w with ready := w.ready || (w.power == .run && w.straits.all fun t => t.2.up || !t.2.trains || !w.tileRuns (straitTile t.1)) }

/-- STRAIT_LINK_TRAINING: R356: a link of a part that runs trains with a supported device, at the rate, width and security both ends have;
not at a DEAD tile (R22). -/
def execStraitLinkTraining (part strait : Nat) (s : State) : Out :=
  .next (if strait < 64 && (s.wafer part).tileRuns (straitTile strait) then
      (s.modStrait part strait fun t =>
        if t.trains then { t with up := true, rate := t.devRate, width := t.devWidth, ide := t.devIde } else t).modWafer part Wafer.booted
    else s)

/-- R357: two decoded ranges share an address. -/
def rangesMeet (a b : Nat × Nat) : Bool := a.1 < b.1 + b.2 && b.1 < a.1 + a.2

/-- R357: the controller programs some straits alike: with what the devices at those of them whose links are up offer, but for what a strait
outside them decodes, and at most eight ranges (log 102). -/
def State.decodeAll (s : State) (p : Nat) (js : List Nat) : State :=
  let w := s.wafer p
  let others := (w.straits.filter fun t => !js.contains t.1).flatMap fun t => t.2.decoders
  let offered := (js.flatMap fun j => if (w.strait j).up then (w.strait j).extents else []).eraseDups
  let ranges := (offered.filter fun r => !others.any fun o => rangesMeet r o).take 8
  js.foldl (fun s j => s.modStrait p j fun t => { t with decoders := ranges }) s

/-- R357, R424: the straits of a partition are programmed. -/
def State.decodeRun (s : State) (p : Nat) (q : Ptn) : State := s.decodeAll p ((s.wafer p).straitsOf q)

/-- DYNAMIC_CAPACITY_EXTENT: R356, R357: the controller accepts or releases what the device at a strait offers: it programs every strait of the
partition that has the strait, or, where none has it, that one. -/
def execDynamicCapacityExtent (part strait : Nat) (s : State) : Out :=
  let w := s.wafer part
  .next (if w.power != .run || !(w.strait strait).up then s
    else match w.ptns.find? fun q => (w.straitsOf q).contains strait with
      | some q => s.decodeRun part q
      | none => s.decodeAll part [strait])

end Sys2Proof.Machine
end

