-- ==== Sys2Proof/Machine/ChartRead.lean ====
section
/-!
DEFINITION. The expanded chart (R39 to R45): grades, spares, routes of at most four links, and the words CHART reads.
-/
namespace Sys2Proof.Machine

/-- Number of set bits among the 16 isles. -/
def isles (m : BitVec 16) : Nat := ((List.range 16).filter fun j => m.getLsbD j).length

/-- R55: CGRADE. -/
def Chart.cgrade (ch : Chart) : Nat :=
  let good := 16 - isles (ch.failisle ||| ch.lostisle)
  if 14 ≤ good then good else 0

/-- R37, R38. -/
def Tile.coreBearing (t : Tile) : Bool := t.cls == .compute || t.cls == .complete

/-- R44: a free home. An unnamed COMPLETE tile that is no home is always a spare. -/
def Tile.freeHome (t : Tile) : Bool := t.cls == .memory && !t.home

/-- The tiles one mesh link away within the isle, over links that are not missing, with the direction. -/
def Chart.near1 (ch : Chart) (i : Nat) : List (Nat × BitVec 2) :=
  [0, 1, 2, 3].filterMap fun n =>
    let j := meshStep i n
    if (ch.tile i).link n == 3 || j % 512 / 32 ≠ i % 512 / 32 then none else some (j, BitVec.ofNat 2 n)

/-- Tiles within n more links of those found, each with one shortest route, nearest first; of several shortest routes to a tile the first
in the order N, E, S, W (log 107). -/
def Chart.spread (ch : Chart) (found edge : List (Nat × List (BitVec 2))) : Nat → List (Nat × List (BitVec 2))
  | 0 => found
  | n + 1 =>
    let next := edge.foldl (fun acc (i, r) =>
      (ch.near1 i).foldl (fun acc (j, d) => if (found ++ acc).any fun p => p.1 == j then acc else acc ++ [(j, r ++ [d])]) acc) []
    ch.spread (found ++ next) next n

/-- R45: routes of one to four links from a tile. -/
def Chart.routes (ch : Chart) (i : Nat) : List (Nat × List (BitVec 2)) := (ch.spread [(i, [])] [(i, [])] 4).drop 1

/-- R44: an available spare. -/
def Chart.spare (ch : Chart) (i : Nat) : Bool :=
  let t := ch.tile i
  !t.named && !t.home && (t.cls == .complete || (t.cls == .compute && (ch.routes i).any fun p => (ch.tile p.1).freeHome))

/-- R41: GENSET of every entry that has changed since the chart was `was`, its SPARE among the rest, becomes GEN. -/
def Chart.stamp (was ch : Chart) : Chart :=
  let same (i : Nat) (t : Tile) : Bool := decide (was.tile i = t) && was.spare i == ch.spare i
  let f (p : Nat × Tile) : Nat × Tile := (p.1, if same p.1 p.2 then p.2 else { p.2 with genset := ch.gen })
  { ch with tiles := ch.tiles.map f }

def Class.code : Class → Nat
  | .dead => 0
  | .relay => 1
  | .memory => 2
  | .compute => 3
  | .complete => 4

def flag (b : Bool) (n : Nat) : Nat := if b then 2^n else 0

/-- R41: an entry's 128 bits. -/
def Chart.entry (ch : Chart) (i : Nat) : Nat :=
  let t := ch.tile i
  let dirs := (t.cw.mapIdx fun k d => d.toNat * 4^k).foldl (· + ·) 0
  t.cls.code + flag t.named 3 + flag t.moving 4 + flag t.retired 5 + flag t.home 6 + flag (ch.spare i) 7 + t.lx * 2^8 + t.ly * 2^17
    + t.peerx * 2^31 + t.peery * 2^40 + t.cw.length * 2^49 + dirs * 2^52 + t.links.toNat * 2^64 + t.genset.toNat * 2^96

/-- R40: the header's 256 bits. -/
def Chart.header (ch : Chart) : Nat :=
  1 + ch.fgrade * 2^8 + ch.cgrade * 2^13 + flag (ch.cgrade < ch.fgrade) 18 + ch.failisle.toNat * 2^20 + ch.lostisle.toNat * 2^36
    + ch.passisle.toNat * 2^52 + ch.gen.toNat * 2^96 + ch.amends * 2^128

/-- R419: the 8 bytes at offset o of the expanded chart. -/
def Chart.word (ch : Chart) (o : Nat) : Nat :=
  if o < 32 then elem ch.header 64 (o / 8) else elem (ch.entry ((o - 32) / 16)) 64 (o / 8 % 2)

/-- R129: CLASSINFO of a core. -/
def State.classinfo (s : State) (c : CoreId) : Nat :=
  let ch := s.chart c
  let t := s.tileOf c
  t.cls.code + flag (s.orphan c) 3 + t.cw.length * 2^4 + ch.cgrade * 2^7 + ch.fgrade * 2^12 + ch.gen.toNat * 2^32

end Sys2Proof.Machine
end

