-- ==== Sys2Proof/Machine/System.lean ====
section
/-!
DEFINITION. Strand control (05_strands: SPAWN, HALT, YIELD, WAITEV, control registers), handler return and LOOPQ's end (R302, R166), TDONE
acting as HALT (R323), and the system instructions of R414 to R419 but for those that resume a partition.
-/
namespace Sys2Proof.Machine

/-! ## SPAWN (R135) -/

/-- R135: some tag is bound to strand t. -/
def Core.strandBound (k : Core) (t : Fin 4) : Bool :=
  k.bindings.toList.any fun b => match b with | some b => b.strand == t | none => false

/-- R315: the LFSR when the START handler's SPAWN starts strand 0. -/
def lfsrSeed (seed : Word) (cidx : Nat) : BitVec 16 :=
  let v : BitVec 16 := seed.setWidth 16 ^^^ BitVec.ofNat 16 cidx
  if v = 0 then 1 else v

/-- R135: the registers of a strand spawned by one with registers c. -/
def Ctx.spawn (c : Ctx) (n : Fin 4) (entry arg : Word) (bg user : Bool) : Ctx :=
  { Ctx.fresh n (c.priv && !user) bg c.mode c.seed c.stealdom c.spillbase c.spilllim c.tvec c.savebase c.note with
    pc := entry, x := (Vector.replicate 32 0).set 10 arg }

/-- R135: a strand that is FREE, and that no HALT has freed in this cycle. -/
def Strand.spawnable (x : Strand) : Bool := x.st == .free && x.wake.isNone

/-- R315, R325: strand t runs the handler of START. -/
def Core.starts (k : Core) (t : Fin 4) : Bool := t == 3 && (k.strand 3).ctx.hnd && (k.strand 3).htag == some 63

def execSpawn (d a b : BitVec 5) (bg user : Bool) (s : State) : Out :=
  let k := s.me
  let c := s.ctx
  .next (match [(0 : Fin 4), 1, 2, 3].find? fun t => (k.strand t).spawnable && !k.strandBound t with
    | none => s.retire 4 (c.setX d allOnes)
    | some n =>
      let t := s.retire 4 (c.setX d (BitVec.ofNat 64 n.1))
      t.modCore s.cur.1 fun k =>
        let x := Strand.started (c.spawn n (c.getX a) (c.getX b) bg user) .ready k.seq
        let k := k.putStrand n { x with wake := some (s.now + 4) }
        if n == 0 && k.starts s.cur.2 then { k with lfsr := lfsrSeed c.seed (s.cidx s.cur.1) } else k)

/-! ## HALT and what acts as HALT (R136, R302, R323) -/

/-- R222, R343: nothing of the strand is left in the matrix unit's queue and in its sources' queues. -/
def State.unitLeft (s : State) (c : CoreId) (t : Fin 4) : Bool :=
  let k := s.core c
  !(k.unitq.any fun u => u.strand == t) && k.eps.all fun e => e.strand != t || e.role != 0 || e.queue.isEmpty

/-- R136, R252, R343: nothing the strand has issued is left: its loads, its store queue (but for an entry `seq` that acts as HALT), its
pending counts, its unit instructions and its sources' queues. -/
def State.drained (s : State) (c : CoreId) (t : Fin 4) (seq : Nat) : Bool :=
  let x := s.strand c t
  x.loads.isEmpty && x.sq.all (fun e => e.seq == seq) && x.pbc == 0 && x.fpbc == 0 && s.localDone c t && s.unitLeft c t

/-- R136: the strand is freed, or retained. A FREE strand's registers keep what they held, which nothing reads (R122). -/
def State.freeStrand (s : State) (c : CoreId) (t : Fin 4) (retain : Bool) (x : Ctx) : State :=
  let k := s.core c
  let y := k.strand t
  let s := (y.faults.filter fun f => f.cmd).foldl (fun s f => s.record c (engCause 11 3) none 0 f.addr 0) s
  let k := s.core c
  let out : Strand :=
    if retain then { y with st := .retained, ctx := { x.dropLoops with hnd := false }, faults := [], wait := none, hold := none, htag := none, sq := [], born := k.seq }
    else { Strand.idle with ctx := { x.dropLoops with hnd := false }, wake := some (s.now + 1), born := k.seq }
  let holder := k.holder.toList.map fun h => if h == some t then none else h
  let free (n : Nat) : Option (Fin 4) := holder.getD n none
  let k := { k.putStrand t out with holder := #v[free 0, free 1, free 2, free 3, free 4, free 5, free 6, free 7],
                                    eps := k.eps.filter fun e => e.strand != t }
  s.putCore c (k.signal 4 (some t))

/-- R389: the deferred faults of a strand that takes no trap become records. -/
def State.reportFaults (s : State) (c : CoreId) (t : Fin 4) : State :=
  let x := s.strand c t
  let s := (x.faults.filter getsStore).foldl (fun s f => s.record c (f.base + 3) (some t) x.ctx.pc f.addr 0) s
  s.modStrand c t fun x => { x with faults := x.faults.filter fun f => !getsStore f }

/-- HALT completes when nothing is left, or traps with a deferred fault (R471); the one of R389 takes no trap. -/
def State.haltStep (s : State) (c : CoreId) (t : Fin 4) (e : Entry) (retain done : Bool) : Option State :=
  if !s.drained c t e.seq then none
  else if e.instr == .halt && e.phase == 1 then
    let s := s.reportFaults c t
    some (s.freeStrand c t false (s.strand c t).ctx)
  else
    match s.takeFaults c t e getsStore with
    | some s => some s
    | none =>
      let x := (s.strand c t).ctx
      some (s.freeStrand c t retain (if done then x else { x.count with pc := x.pc + 4 }))

/-- R323: plain TDONE: it releases at .D, decrements, and then halts. -/
def State.relTdone (s : State) (c : CoreId) (t : Fin 4) (e : Entry) (a : BitVec 5) : Option State :=
  if e.phase == 0 then
    if !s.released c t e.seq 2 then none
    else match s.takeFaults c t e getsStore with
      | some s => some s
      | none =>
        let done := (s.strand c t).joined
        let s := s.modStrand c t fun x => { x with joined := false }
        some (setEntry (if done then s else s.decrement c t e a) c t e.seq fun e => { e with phase := 1, parts := if done then [.done []] else [] })
  else
    match e.parts with
    | .fault n ea :: _ =>
      (setEntry (s.modStrand c t fun x => { x with faults := x.faults ++ [⟨e.seq, memCause n 0, ea, false, false, false, 0, false, false⟩] })
        c t e.seq fun e => { e with parts := [] }).haltStep c t e false true
    | _ => s.haltStep c t e false true

/-! ## Waits of the scalar pipe -/

/-- R139: the events WAITEV finds. -/
def waitevHit (x : Strand) (m : Word) : Nat :=
  (x.evpend &&& m.setWidth 5).toNat + (if m.getLsbD 5 && x.pbc == 0 && x.fpbc == 0 then 32 else 0)

/-- R139: WAITEV returns. -/
def State.waitevDone (s : State) (c : CoreId) (t : Fin 4) (e : Entry) (d : BitVec 5) (hit : Nat) : State :=
  (s.modStrand c t fun x => { (x.supersede e.instr e.seq).settle e.seq with evpend := x.evpend &&& ~~~(BitVec.ofNat 5 hit) }).finish c t e.seq fun x =>
    (x.setX d (BitVec.ofNat 64 hit)).retire 4

/-- What an instruction that waits in the scalar pipe does when its wait has ended; nothing while it has not. -/
def State.waitEnd (s : State) (c : CoreId) (t : Fin 4) (e : Entry) : Option State :=
  let x := s.strand c t
  if !x.loadsBack e.seq then none
  else
    match e.instr with
    | .waitev d a b =>
      let m := e.snap.getX a
      let hit := if e.phase == 1 then 64 else waitevHit x m
      if !x.sure e.seq then none
      else if hit ≠ 0 || (bits m.toNat 0 6 == 0 && e.snap.getX b == 0) then some (s.waitevDone c t e d hit) else none
    | .halt => s.haltStep c t e false false
    | .haltR => s.haltStep c t e true false
    | .hret => s.haltStep c t e x.fromRetained false
    | .loopq n a b len tag =>
      if !x.sq.isEmpty then none
      else
        match (s.core c).receive tag e.seq with
        | none => none
        | some m =>
          some ((s.modCore c fun k => k.take m s.now).finish c t e.seq fun x =>
            ((x.setX a (msgWord m.payload 1)).setX b (msgWord m.payload 2)).startLoop n.toNat (msgWord m.payload 0) len.toNat)
    | _ => none

/-- STRAND_WAKE: R122: a wait of the scalar pipe ends once its condition holds; until then the strand is waiting. -/
def State.strandWake (s : State) (c : CoreId) (t : Fin 4) : State :=
  let k := s.core c
  match (k.strand t).wait with
  | none => s
  | some e =>
    if s.halted c t then s
    else
      match s.waitEnd c t e with
      | some s => s
      | none => s.modStrand c t fun x => x.setSt true

def execStrandWake (core strand : Nat) (s : State) : Out := .next (s.strandWake core (Fin.ofNat 4 strand))

/-- An instruction of the scalar pipe that may wait: it ends now or waits. -/
def State.waits (s : State) (i : Instr) : State := (s.await i).strandWake s.cur.1 s.cur.2

def execWaitev (d a b : BitVec 5) (s : State) : Out := .next (s.waits (.waitev d a b))

/-- R139: a waiting WAITEV of strand (c, t) has passed its timeout with no event: phase 1 marks it. -/
def State.expired (s : State) (c : CoreId) (t : Fin 4) : Bool :=
  let x := s.strand c t
  match x.wait with
  | some e =>
    (match e.instr with
      | .waitev _ a b =>
        let n := (e.snap.getX b).toNat
        n ≠ 0 && e.phase == 0 && waitevHit x (e.snap.getX a) == 0 && e.aux.toNat + n ≤ s.now && !s.halted c t
      | _ => false)
  | none => false

def State.expire (s : State) (c : CoreId) (t : Fin 4) : State :=
  if s.expired c t then s.modStrand c t fun x => { x with wait := x.wait.map fun e => { e with phase := 1 } } else s

/-- WAITEV_TIMEOUT: R139. -/
def execWaitevTimeout (core strand : Nat) (s : State) : Out :=
  let t := Fin.ofNat 4 strand
  .next (let s := s.expire core t
    if (match (s.strand core t).wait with | some e => e.phase == 1 | none => false) then s.strandWake core t else s)

/-- R136: HALT in a handler traps. -/
def execHalt (s : State) : Out := .next (if s.ctx.hnd then s.trap (msgCause 3 0) 0 else s.waits .halt)
def execHaltR (s : State) : Out := .next (if s.ctx.hnd then s.trap (msgCause 3 0) 0 else s.waits .haltR)

/-- R302: HRET outside a handler traps. -/
def execHret (s : State) : Out := .next (if s.ctx.hnd then s.waits .hret else s.trap (msgCause 2 0) 0)

/-- R137: YIELD: the round-robin order of R132 moves past the strand, which is not eligible in the next cycle. -/
def execYield (s : State) : Out :=
  .next ((s.retire 4 s.ctx).modCore s.cur.1 fun k => { k.putStrand s.cur.2 { k.strand s.cur.2 with wake := some (s.now + 2) } with last := s.cur.2 })

/-! ## Control registers (R126 to R129, R140) -/

/-- R128: STRANDID. -/
def State.strandid (s : State) (c : CoreId) (t : Fin 4) : Nat := t.1 + s.coord c * 2^8 + s.cidx c * 2^32

/-- R312: the field of SPILLBASE, SPILLLIM; R390: of SAVEBASE. -/
def field (v : Word) (lo w : Nat) : Word := BitVec.ofNat 64 (bits v.toNat lo w * 2^lo)

/-- R126: a control register of the running strand. -/
def State.csrRead (s : State) (n : Nat) : Option Word :=
  let c := s.ctx
  let x := s.strand s.cur.1 s.cur.2
  let nat (v : Nat) : Option Word := some (BitVec.ofNat 64 v)
  match n with
  | 0x000 => nat (flag c.priv 0 + flag c.ppriv 1 + flag c.bg 2 + flag c.hnd 3)
  | 0x001 => nat c.mode.toNat
  | 0x002 => nat c.flags.toNat
  | 0x003 => some c.seed
  | 0x004 => nat x.pbc
  | 0x005 => nat x.fpbc
  | 0x006 => nat (s.cycle s.cur.1)
  | 0x007 => some c.instret
  | 0x008 => nat (s.strandid s.cur.1 s.cur.2)
  | 0x009 => nat s.me.launchid.toNat
  | 0x00A => nat s.me.barmask.toNat
  | 0x00B => some c.stealdom
  | 0x00C => some c.spillbase
  | 0x00D => some c.spilllim
  | 0x00E => some c.stepc
  | 0x010 => some c.tvec
  | 0x011 => some c.epc
  | 0x012 => nat c.cause.toNat
  | 0x013 => some c.tval
  | 0x014 => some c.tscratch
  | 0x015 => some c.savebase
  | 0x016 => nat (flag c.note 0)
  | 0x018 => nat (s.classinfo s.cur.1)
  | _ => none

/-- R115: MODE as written; RM values 6 and 7 are ignored. -/
def modeOf (old : BitVec 9) (v : Word) : BitVec 9 :=
  BitVec.ofNat 9 (bits v.toNat 3 6 * 8 + (if 6 ≤ bits v.toNat 0 3 then bits old.toNat 0 3 else bits v.toNat 0 3))

/-- R126, R127, R140: a write of a control register, field by field. -/
def Ctx.csrWrite (c : Ctx) (n : Nat) (v : Word) : Ctx :=
  let c := { c with bad := c.whole 11 n }
  match n with
  | 0x000 => { c with bg := v.getLsbD 2, ppriv := if c.priv then v.getLsbD 1 else c.ppriv }
  | 0x001 => { c with mode := modeOf c.mode v }
  | 0x002 => { c with flags := v.setWidth 7 }
  | 0x003 => { c with seed := v }
  | 0x00B => { c with stealdom := v }
  | 0x00C => { c with spillbase := field v 5 14 }
  | 0x00D => { c with spilllim := field v 5 14 }
  | 0x00E => { c with stepc := v }
  | 0x010 => { c with tvec := field v 0 16 }
  | 0x011 => { c with epc := v }
  | 0x012 => { c with cause := v.setWidth 9 }
  | 0x013 => { c with tval := v }
  | 0x014 => { c with tscratch := v }
  | 0x015 => { c with savebase := field v 12 7 }
  | 0x016 => { c with note := v.getLsbD 0 }
  | _ => c

/-- R140: ILL_PRIV of a U-mode write at or above 0x010, then ILL_CSR, then the effect: an optional write, and an optional result. -/
def State.csrOp (s : State) (i : Instr) (n : Nat) (d : Option (BitVec 5)) (a : Option (BitVec 5)) : State :=
  if a.isSome && !s.ctx.priv && 0x010 ≤ n then s.illegal i cILL_PRIV
  else
    match s.csrRead n with
    | none => s.illegal i cILL_CSR
    | some old =>
      let c := match a with | some a => s.ctx.csrWrite n (s.ctx.getX a) | none => s.ctx
      s.retire 4 (match d with | some d => c.setX d old | none => c)

def execCsrrd (d : BitVec 5) (n : BitVec 12) (s : State) : Out := .next (s.csrOp (.csrrd d n) n.toNat (some d) none)
def execCsrwr (a : BitVec 5) (n : BitVec 12) (s : State) : Out := .next (s.csrOp (.csrwr a n) n.toNat none (some a))
def execCsrxch (d a : BitVec 5) (n : BitVec 12) (s : State) : Out := .next (s.csrOp (.csrxch d a n) n.toNat (some d) (some a))

/-! ## System instructions (R414 to R417, R419) -/

def execNop (s : State) : Out := .next (s.retire 4 s.ctx)

/-- R415: TRAP completes and then traps, with EPC at the next PC. -/
def execTrap (a : BitVec 5) (n : BitVec 4) (s : State) : Out :=
  let c := s.ctx.retire 4
  .next (s.putCtx (c.trap (0x010 + n.toNat) c.pc (s.ctx.getX a)))

/-- R416. -/
def execBrk (n : BitVec 5) (s : State) : Out := .next (s.trap (0x020 + n.toNat) (illTval (.brk n)))

/-- R417. -/
def execEret (s : State) : Out := .next (if s.ctx.priv then s.putCtx s.ctx.eret else s.illegal .eret cILL_PRIV)

/-- R419: CHART waits in the store queue for the Grefiest controller. -/
def execChart (d a : BitVec 5) (s : State) : Out :=
  let o := (s.ctx.getX a).toNat
  .next (
    if !s.ctx.priv then s.illegal (.chart d a) cILL_PRIV
    else if o % 8 ≠ 0 || 0x400020 ≤ o then s.trap (sysCause 4 0) (s.ctx.getX a)
    else s.queue (.chart d a) 4 true)

/-- R419: CHART asks the Grefiest controller, and waits until it answers, between two amendments. One that the stop of its core finds is
cancelled. -/
def State.relChart (s : State) (c : CoreId) (t : Fin 4) (e : Entry) (d a : BitVec 5) : Option State :=
  if s.halted c t then none
  else if e.phase == 0 then some ((setEntry s c t e.seq fun e => { e with phase := 1 }).modStrand c t fun x => x.setSt true)
  else if (s.wafer (cPart c)).moves.isEmpty then
    some (s.finish c t e.seq fun x => x.setX d (BitVec.ofNat 64 ((s.chart c).word (e.snap.getX a).toNat)))
  else none

end Sys2Proof.Machine
end

