-- ==== Sys2Proof/Machine/Frame.lean ====
section
/-!
DEFINITION. The saved frame of a core (R405 to R409, R473, R474): its bytes, the check of R411, and the core it restores.
-/
namespace Sys2Proof.Machine

/-- Bytes filled up with zeros to a length. -/
def padTo (n : Nat) (l : List Byte) : List Byte := l ++ List.replicate (n - l.length) 0

/-- Numbers as little-endian words of 8 bytes. -/
def words (l : List Nat) : List Byte := l.flatMap fun v => leBytes v 8

def frameMagic : Nat := 0x46524D45
def frameLen : Nat := 0x10700

/-- The vault offset of a core's frame. -/
def Core.frameAt (k : Core) : Nat := k.frameOff.toNat * 4096

/-! ## Writing -/

/-- R408. -/
def State.frameHeader (s : State) (c : CoreId) : List Byte :=
  padTo 64 (words [frameMagic + 2^32, (s.core c).launchid.toNat + (s.chart c).gen.toNat * 2^32, s.cycle c, s.coord c])

/-- R473: the core words. -/
def Core.coreWords (k : Core) : List Byte :=
  let r : Ring := k.ring.getD ⟨0, 0, 0, 0⟩
  padTo 128 (words [k.dmask.toNat, k.barmask.toNat + k.arrived.toNat * 2^16] ++
    k.holder.toList.map (fun h => match h with | some t => BitVec.ofNat 8 (1 + t.1) | none => 0) ++
    words [k.lfsr.toNat, k.deque.length + flag k.ring.isSome 7, r.base.toNat, r.lim.toNat, r.head + r.count * 2^16, k.sendq.length,
      k.recv.length + k.nextArr.toNat * 2^32, k.unitq.length])

/-- R407. -/
def UnitEntry.bytes (u : UnitEntry) : List Byte :=
  let x := u.snap
  let rc : Word := match u.instr with | .mdrain _ _ b _ _ _ _ _ _ => x.getX b | _ => 0
  let pc : Word := match u.instr with | .mxpq _ _ a _ => x.getX a | _ => 0
  let oct (a : BitVec 5) : List Byte := if selOctet a then leBytes (x.octet (a.toNat % 4)) 512 else List.replicate 512 0
  let ab : List Byte := match u.instr with | .mma _ a b _ _ _ => oct a ++ oct b | _ => List.replicate 1024 0
  padTo 0x500 (words [(illTval u.instr).toNat, u.strand.1 + 4 + flag u.executing 3 + u.ksteps * 16, x.mode.toNat, x.seed.toNat, x.stepc.toNat,
    rc.toNat, pc.toNat, u.flags.toNat] ++ x.d.toList.flatMap (fun d => leBytes d.toNat 16) ++ ab)

/-- R473: a send-queue entry of core c. -/
def State.sendMeta (s : State) (c : CoreId) (m : SendEntry) : List Byte :=
  words [s.nameFor c m.dest + m.tag.toNat * 2^21 + flag (match m.st with | .refused _ => true | _ => false) 27 + 2^28, 0]

/-- R473: a receive-buffer entry. -/
def Msg.meta (m : Msg) : List Byte := words [m.tag.toNat + 2^6 + m.sender.toNat * 2^7 + m.arr.toNat * 2^32]

/-- R473: a tag's binding. -/
def bindingBytes : Option Binding → List Byte
  | none => List.replicate 128 0
  | some b =>
    padTo 128 (words [b.entry.toNat % 2^16 + b.strand.1 * 2^16 + flag b.priv 18 + 2^19, b.mode.toNat, b.seed.toNat, b.stealdom.toNat,
      b.spillbase.toNat, b.spilllim.toNat, b.tvec.toNat, b.savebase.toNat, flag b.note 0])

/-- R474. -/
def stagerBytes : Option Stager → List Byte
  | none => List.replicate 0x240 0
  | some g =>
    padTo 0x240 (g.lines.flatMap (fun l => leBytes l.toNat 32) ++ g.hdrs.flatMap (fun h => leBytes h.toNat 2) ++
      g.scales.flatMap (fun v => leBytes v.toNat 1) ++ leBytes (g.fmt.toNat + flag g.mx 4 + 32) 2 ++ leBytes g.poisoned.toNat 2)

/-- R162: a loop counter in 128 bits. -/
def Loop.bytes (l : Loop) : List Byte :=
  leBytes (l.count.toNat + l.start.toNat * 2^64 + l.stop.toNat * 2^80 + l.rank.toNat * 2^97 + flag l.active 99) 16

/-- R409: a pending fault. -/
def PFault.bytes (f : PFault) : List Byte :=
  words [f.base + (if f.cmd then 2 else 1) + 2^9 + flag f.cmd 10 + flag f.farw 11 + flag f.strt 12 + f.sem.toNat * 2^13 + flag f.sv 17 +
    flag f.here 18, f.addr.toNat]

def SState.code : SState → Nat
  | .free => 0
  | .ready => 1
  | .waiting => 2
  | .retained => 3
  | .handler => 4
  | .handlerWaiting => 5

/-- R409: a strand record. -/
def State.strandRecord (s : State) (c : CoreId) (t : Fin 4) : List Byte :=
  let x := s.strand c t
  let y := x.ctx
  let csr (n : Nat) : Nat := match { s with cur := (c, t) }.csrRead n with | some v => v.toNat | none => 0
  words [x.st.code + flag x.reexec 3 + x.evpend.toNat * 16, y.pc.toNat, x.spb, x.xpb, 0, 0, 0, 0] ++
  words ((List.range 32).map csr) ++
  words (0 :: (y.x.toList.drop 1).map BitVec.toNat) ++
  (0xFFFF :: (y.p.toList.drop 1).map BitVec.toNat).flatMap (fun v => leBytes v 2) ++
  y.lc.toList.flatMap Loop.bytes ++
  y.d.toList.flatMap (fun d => leBytes d.toNat 16) ++
  padTo 64 (x.faults.flatMap PFault.bytes) ++
  y.v.toList.flatMap (fun v => leBytes v.toNat 64) ++
  x.slots.toList.flatMap stagerBytes

/-- R406: the frame. -/
def State.frame (s : State) (c : CoreId) : List Byte :=
  let k := s.core c
  s.frameHeader c ++ k.sems.toList.flatMap (fun v => leBytes v.toNat 4) ++ k.coreWords ++
  padTo 0xF00 (k.unitq.flatMap UnitEntry.bytes) ++
  padTo 0x800 (k.deque.flatMap fun d => leBytes d.toNat 32) ++
  padTo 0x200 (k.sendq.flatMap (s.sendMeta c)) ++
  padTo 0x800 (k.sendq.flatMap fun m => leBytes m.payload.toNat 64) ++
  padTo 0x400 (k.recv.flatMap Msg.meta) ++
  padTo 0x2000 (k.recv.flatMap fun m => leBytes m.payload.toNat 64) ++
  k.bindings.toList.flatMap bindingBytes ++
  k.acc.toList.flatMap (fun a => a.toList.flatMap fun v => leBytes v.toNat 10) ++
  List.replicate 0x100 0 ++
  s.strandRecord c 0 ++ s.strandRecord c 1 ++ s.strandRecord c 2 ++ s.strandRecord c 3

/-- Pending faults in program order. -/
def insertFault (f : PFault) : List PFault → List PFault
  | [] => [f]
  | g :: gs => if g.seq ≤ f.seq then g :: insertFault f gs else f :: g :: gs

/-- R409: of the pending faults the frame takes the oldest deferred store fault and the three oldest command faults, in program order; the
others become records. -/
def Strand.trimFaults (x : Strand) : List PFault × List PFault :=
  let all := x.faults.foldl (fun a f => insertFault f a) []
  let stores := all.filter fun f => !f.cmd
  let cmds := all.filter (·.cmd)
  ((stores.take 1).foldl (fun a f => insertFault f a) (cmds.take 3), stores.drop 1 ++ cmds.drop 3)

/-! ## Reading -/

/-- A frame in a vault: the number of n bytes at an offset of it. -/
abbrev FrameRd := Nat → Nat → Nat

def Core.frameRd (k : Core) : FrameRd := fun o n => k.vault.le (k.frameAt + o) n

/-- R411, R473: the frame of a core fails its check. Of the header only the fields R411 names count. -/
def State.frameBad (s : State) (c : CoreId) : Bool :=
  let k := s.core c
  let r := k.frameRd
  let z (o n lo w : Nat) : Bool := bits (r o n) lo w ≠ 0
  let ring := ringSize (BitVec.ofNat 64 (r 0xA8 8)) (BitVec.ofNat 64 (r 0xB0 8))
  r 0 4 ≠ frameMagic || r 4 2 ≠ 1 || bits (r 24 8) 0 21 ≠ s.coord c || r 8 4 ≠ k.launchid.toNat
    || k.poisonedIn k.frameAt frameLen
    || (List.range 4).any (fun t => 6 ≤ r (0xB700 + 0x1400 * t) 1 % 8)
    || z 0x88 8 32 32 || z 0x98 8 16 48 || z 0xA0 8 8 56 || z 0xA8 8 19 45 || z 0xB0 8 19 45 || z 0xB8 8 32 32 || z 0xC0 8 6 58 || z 0xC8 8 8 24 || z 0xD0 8 2 62
    || (List.range 5).any (fun i => z (0xD8 + 8 * i) 8 0 64)
    || (List.range 8).any (fun i => 4 < r (0x90 + i) 1)
    || 64 < r 0xA0 1 % 128 || 32 < r 0xC0 1 % 64 || 128 < r 0xC8 1
    || (z 0xA0 1 7 1 && (ring < r 0xBA 2 || ring ≤ r 0xB8 2))
    || (List.range 32).any (fun i => z (0x1800 + 16 * i) 8 29 35 || z (0x1808 + 16 * i) 8 0 64)
    || (List.range 128).any (fun i => z (0x2200 + 8 * i) 8 28 4)
    || (List.range 64).any (fun i => z (0x4600 + 128 * i) 8 20 44 || (List.range 7).any fun j => z (0x4600 + 128 * i + 72 + 8 * j) 8 0 64)

/-- R407: a unit-queue entry restored over the one the core held. -/
def restoreUnit (r : FrameRd) (o : Nat) (live : Option UnitEntry) (seq : Nat) (base : Ctx) : Option UnitEntry :=
  let m := r (o + 8) 8
  match identify (r o 4) (r (o + 4) 4) with
  | .error _ => none
  | .ok i =>
    let x := match live with | some u => u.snap | none => base
    let x := { x with mode := BitVec.ofNat 9 (r (o + 16) 8), seed := BitVec.ofNat 64 (r (o + 24) 8), stepc := BitVec.ofNat 64 (r (o + 32) 8),
                      d := #v[BitVec.ofNat 128 (r (o + 0x40) 16), BitVec.ofNat 128 (r (o + 0x50) 16), BitVec.ofNat 128 (r (o + 0x60) 16),
                              BitVec.ofNat 128 (r (o + 0x70) 16)] }
    let oct (x : Ctx) (a : BitVec 5) (p : Nat) : Ctx :=
      if selOctet a then (List.range 8).foldl (fun x n => x.setV (BitVec.ofNat 5 (8 * (a.toNat % 4) + n)) (BitVec.ofNat 512 (r (p + 64 * n) 64))) x
      else x
    let x := match i with
      | .mma _ a b _ _ _ => oct (oct x a (o + 0x80)) b (o + 0x280)
      | .mdrain _ _ b _ _ _ _ _ _ => x.setX b (BitVec.ofNat 64 (r (o + 0x28) 8))
      | .mxpq _ _ a _ => x.setX a (BitVec.ofNat 64 (r (o + 0x30) 8))
      | _ => x
    let unit : Bool := match i with
      | .mzero _ | .mld _ | .mma _ _ _ _ _ _ | .mdrain _ _ _ _ _ _ _ _ _ | .mxpq _ _ _ _ => true
      | _ => false
    if unit && bits m 2 1 == 1 then
      some { strand := Fin.ofNat 4 m, seq := match live with | some u => u.seq | none => seq, instr := i, snap := x,
             executing := bits m 3 1 == 1, ksteps := bits m 4 5, flags := BitVec.ofNat 7 (r (o + 0x38) 8), lost := [], beats := [], struck := [] }
    else none

/-- R474. -/
def restoreStager (r : FrameRd) (o : Nat) : Option Stager :=
  let m := r (o + 0x230) 2
  if bits m 5 1 == 0 then none
  else some { fmt := BitVec.ofNat 4 m, mx := bits m 4 1 == 1, lines := (List.range 16).map fun i => BitVec.ofNat 256 (r (o + 32 * i) 32),
              hdrs := (List.range 16).map fun i => BitVec.ofNat 16 (r (o + 0x200 + 2 * i) 2),
              scales := (List.range 16).map fun i => BitVec.ofNat 8 (r (o + 0x220 + i) 1), poisoned := BitVec.ofNat 16 (r (o + 0x232) 2) }

/-- R162. -/
def restoreLoop (v : Nat) : Loop :=
  { count := BitVec.ofNat 64 v, start := BitVec.ofNat 16 (v / 2^64), stop := BitVec.ofNat 17 (v / 2^80), rank := BitVec.ofNat 2 (v / 2^97),
    active := bits v 99 1 == 1 }

/-- R409: the pending faults of a record; `kept` are their program order numbers. -/
def restoreFaults (r : FrameRd) (o : Nat) (kept : List Nat) : List PFault :=
  (List.range 4).filterMap fun i =>
    let w := r (o + 16 * i) 8
    if bits w 9 1 == 0 then none
    else some { seq := kept.getD i 0, base := bits w 2 7 * 4, addr := BitVec.ofNat 64 (r (o + 16 * i + 8) 8), cmd := bits w 10 1 == 1,
                farw := bits w 11 1 == 1, strt := bits w 12 1 == 1, sem := BitVec.ofNat 4 (w / 2^13), sv := bits w 17 1 == 1,
                here := bits w 18 1 == 1 }

/-- R409, R410: the strand a record restores; a strand that waited re-issues as READY or in its handler. What stayed in place over the hold
(log 93) goes on, unless the frame frees the strand. -/
def restoreStrand (r : FrameRd) (o : Nat) (x : Strand) : Strand :=
  let csr (n : Nat) : Word := BitVec.ofNat 64 (r (o + 0x40 + 8 * n) 8)
  let st : SState := match r o 1 % 8 with | 0 => .free | 1 => .ready | 2 => .ready | 3 => .retained | _ => .handler
  let keep {α : Type} (l : List α) : List α := if st == .free then [] else l
  let f (c : Ctx) (n : Nat) : Ctx := c.csrWrite n (csr n)
  let c : Ctx := [0x001, 0x002, 0x003, 0x00B, 0x00C, 0x00D, 0x00E, 0x010, 0x011, 0x012, 0x013, 0x014, 0x015, 0x016].foldl f x.ctx
  let c := { c with priv := (csr 0).getLsbD 0, ppriv := (csr 0).getLsbD 1, bg := (csr 0).getLsbD 2, hnd := (csr 0).getLsbD 3,
                    instret := csr 7, pc := BitVec.ofNat 64 (r (o + 8) 8), p := #v[0, 0, 0, 0, 0, 0, 0, 0],
                    lc := #v[restoreLoop (r (o + 0x250) 16), restoreLoop (r (o + 0x260) 16), restoreLoop (r (o + 0x270) 16)] }
  let c := (List.range 32).foldl (fun c n => c.setX (BitVec.ofNat 5 n) (BitVec.ofNat 64 (r (o + 0x140 + 8 * n) 8))) c
  let c := (List.range 8).foldl (fun c n => c.setP (BitVec.ofNat 3 n) (BitVec.ofNat 16 (r (o + 0x240 + 2 * n) 2))) c
  let c := (List.range 4).foldl (fun c n => c.setD (BitVec.ofNat 5 n) (BitVec.ofNat 128 (r (o + 0x280 + 16 * n) 16))) c
  let c := (List.range 32).foldl (fun c n => c.setV (BitVec.ofNat 5 n) (BitVec.ofNat 512 (r (o + 0x300 + 64 * n) 64))) c
  { x with st := st, ctx := c, evpend := BitVec.ofNat 5 (r o 2 / 16), loads := keep x.loads, sq := keep x.sq, wait := none, lost := keep x.lost,
           faults := restoreFaults r (o + 0x2C0) x.kept ++ x.faults, kept := [],
           slots := #v[restoreStager r (o + 0xB00), restoreStager r (o + 0xD40), restoreStager r (o + 0xF80), restoreStager r (o + 0x11C0)],
           reexec := bits (r o 1) 3 1 == 1 }

/-- R473: a binding. -/
def restoreBinding (r : FrameRd) (o : Nat) : Option Binding :=
  let w (n : Nat) : Word := BitVec.ofNat 64 (r (o + 8 * n) 8)
  if bits (r o 8) 19 1 == 0 then none
  else some { entry := BitVec.ofNat 64 (r o 2), strand := Fin.ofNat 4 (r (o + 2) 1 % 4), priv := (w 0).getLsbD 18, mode := modeOf 0 (w 1), seed := w 2,
              stealdom := w 3, spillbase := field (w 4) 5 14, spilllim := field (w 5) 5 14, tvec := field (w 6) 0 16,
              savebase := field (w 7) 12 7, note := (w 8).getLsbD 0 }

/-- The core that a frame's send-queue entry names; one that lies outside the partition is beyond every part (log 130). -/
def State.destOf (s : State) (c : CoreId) (w : Nat) : CoreId :=
  (s.coreAt c (bits w 18 3) (bits w 9 9) (bits w 0 9)).getD (mkCore (8 + bits w 18 3) (bits w 9 9) (bits w 0 9))

/-- R473: a message in its place among older and newer ones: the oldest is the one furthest before NEXTARR. -/
def insertMsg (next : BitVec 32) (m : Msg) : List Msg → List Msg
  | [] => [m]
  | n :: ns => if (next - m.arr).toNat ≤ (next - n.arr).toNat then n :: insertMsg next m ns else m :: n :: ns

/-- R410, R473: a core takes what its frame holds. -/
def State.restoreCore (s : State) (c : CoreId) : Core :=
  let k := s.core c
  let r := k.frameRd
  let rec32 (o : Nat) : Nat := r o 8
  let strand (t : Fin 4) : Strand := restoreStrand r (0xB700 + 0x1400 * t.1) (k.strand t)
  let units := (List.range (r 0xD0 1 % 4)).filterMap fun n => restoreUnit r (0x100 + 0x500 * n) k.unitq[n]? (k.seq + n) Ctx.zero
  let held (x : Strand) : Strand := { x with hold := match x.hold with | some n => if units.any (fun u => u.seq == n) || x.sq.any (fun e => e.seq == n) then some n else none | none => none }
  let nrecv := r 0xC8 1
  let recv := ((List.range nrecv).map fun n => (0x2200 + 8 * n, n)).filterMap fun (o, n) =>
    if bits (rec32 o) 6 1 == 1 then
      some { tag := BitVec.ofNat 6 (rec32 o), payload := BitVec.ofNat 512 (r (0x2600 + 64 * n) 64), sender := BitVec.ofNat 21 (rec32 o / 2^7),
             arr := BitVec.ofNat 32 (rec32 o / 2^32), top := false : Msg }
    else none
  let recv := recv.foldl (fun a m => insertMsg (BitVec.ofNat 32 (r 0xCC 4)) m a) []
  let top := if recv.length == 128 then (recv.reverse.find? fun m => m.tag == 63).map (·.arr) else none
  { k with
    strands := #v[held (strand 0), held (strand 1), held (strand 2), held (strand 3)], seq := k.seq + 4
    sems := (List.range 16).foldl (fun v n => vset v n (BitVec.ofNat 32 (r (0x40 + 4 * n) 4))) k.sems
    dmask := BitVec.ofNat 64 (r 0x80 8), barmask := BitVec.ofNat 16 (r 0x88 2), arrived := BitVec.ofNat 16 (r 0x8A 2)
    holder := (List.range 8).foldl (fun v n => vset v n (match r (0x90 + n) 1 with | 0 => none | h + 1 => some (Fin.ofNat 4 h))) k.holder
    lfsr := BitVec.ofNat 16 (r 0x98 2)
    ring := if bits (r 0xA0 1) 7 1 == 1 then
        some ⟨field (BitVec.ofNat 64 (r 0xA8 8)) 5 14, field (BitVec.ofNat 64 (r 0xB0 8)) 5 14, r 0xB8 2, r 0xBA 2⟩ else none
    deque := (List.range (r 0xA0 1 % 128)).map fun n => BitVec.ofNat 256 (r (0x1000 + 32 * n) 32)
    sendq := ((List.range (r 0xC0 1 % 64)).filter fun n => bits (rec32 (0x1800 + 16 * n)) 28 1 == 1).map fun n =>
      let w := rec32 (0x1800 + 16 * n)
      { id := k.sendId + n, strand := (match k.sendq[n]? with | some e => e.strand | none => 0), dest := s.destOf c (w % 2^21), tag := BitVec.ofNat 6 (w / 2^21), payload := BitVec.ofNat 512 (r (0x1A00 + 64 * n) 64),
        st := if bits w 27 1 == 1 then .refused s.now else .queued }
    sendId := k.sendId + 32
    recv := recv.map fun m => if top == some m.arr then { m with top := true } else m
    nextArr := BitVec.ofNat 32 (r 0xCC 4)
    bindings := (List.range 64).foldl (fun v n => vset v n (restoreBinding r (0x4600 + 128 * n))) k.bindings
    acc := (List.range 8).foldl (fun v n => vset v n ((List.range 256).foldl (fun a i =>
      vset a i (BitVec.ofNat 80 (r (0x6600 + 2560 * n + 10 * i) 10))) (vget v n))) k.acc
    unitq := units, stopped := false, saved := false, incs := [], saveFailed := false }

end Sys2Proof.Machine
end

