-- ==== Sys2Proof/Machine/RingSeq.lean ====
section
/-!
DEFINITION. Halif ring sequencers (R352, R353): the record, reduce-scatter, all-gather and all-reduce step by step, failure and stall.
-/
namespace Sys2Proof.Machine
open Sys2Proof.Num

/-! ## The record (R352) -/

def RingRec.rop (r : RingRec) : Nat := bits r.w0.toNat 0 2
def RingRec.comb (r : RingRec) : Nat := bits r.w0.toNat 2 3
def RingRec.fmt (r : RingRec) : Nat := bits r.w0.toNat 5 4
def RingRec.np (r : RingRec) : Nat := bits r.w0.toNat 9 3 + 1
def RingRec.rc (r : RingRec) : Nat := bits r.w0.toNat 12 3
def RingRec.rank (r : RingRec) : Nat := bits r.w0.toNat 16 3

def Ptn.ringRec (q : Ptn) (k : Nat) : RingRec := tget RingRec.reset q.rings k
def Ptn.setRing (q : Ptn) (k : Nat) (r : RingRec) : Ptn := { q with rings := tset r k q.rings }

/-- R22, R352: the logical isle of a Halif port k of a partition: the one that physical isle k / 4 carries. -/
def Wafer.portIsle (w : Wafer) (q : Ptn) (k : Nat) : Option Nat :=
  match w.chart.logIsle (k / 4) with
  | some i => if q.first ≤ i && i < q.first + q.count then some i else none
  | none => none

/-- R352: the partition has a record for port k: a port of one of its isles. -/
def Wafer.hasRing (w : Wafer) (q : Ptn) (k : Nat) : Bool := (w.portIsle q k).isSome

/-- The operation of R336 a ring combines with, by COMB. -/
def RingRec.op (r : RingRec) : Nat := if r.comb == 0 then 2 else if r.comb == 1 then 3 else 1

/-- R352: the vault and offset of BUF, a SELF address naming the lead core's. -/
def State.ringBuf (s : State) (lead : CoreId) (r : RingRec) : Option (CoreId × Nat) :=
  match s.place lead r.buf with
  | .vault h o => some (h, o)
  | _ => none

/-- R352: a reserved or mismatched field; DYN has no MODE to take its rounding from (log 101). -/
def State.ringBad (s : State) (lead : CoreId) (r : RingRec) : Bool :=
  let fmtOk := (r.comb == 0 && r.fmt == 0) || (r.comb == 1 && r.fmt == 13) || (r.comb == 2 && 9 ≤ r.fmt && r.fmt ≤ 11)
  let bufOk := (s.check lead true accQuay r.buf (r.np * r.chunk) 64 true).isNone && (s.ringBuf lead r).isSome
  r.rop == 3 || !fmtOk || r.np < 2 || r.np ≤ r.rank || r.chunk % 64 ≠ 0 || r.rc == 7 || (r.comb == 2 && r.rc == 6) || !bufOk

/-- RING_GO: R352: a write of W3 with GO = 1. -/
def State.ringGo (s : State) (p slot k : Nat) : State :=
  match (s.wafer p).ptnIn slot with
  | none => s
  | some q =>
    let r := q.ringRec k
    if !(s.wafer p).hasRing q k || r.run then s
    else if s.ringBad (leadCore p q) r then s.modPtn p slot fun q => q.setRing k { r with inc := true }
    else s.modPtn p slot fun q => q.setRing k { r with run := true, inc := false, step := 0, final := [], since := s.timerStart (leadCore p q), out := none, wrote := [], took := [], fail := false }

def execRingGo (part slot ring w3 : Nat) (s : State) : Out := .next (if w3 % 2 == 1 then s.ringGo part slot ring else s)

/-! ## Steps (R353) -/

/-- Chunks before another in ring order. -/
def chunkOf (r : RingRec) (n : Nat) : Nat := (r.rank + 2 * r.np - n) % r.np

/-- Bytes of a position of a ring. -/
def RingRec.unit (r : RingRec) : Nat := if r.comb == 2 then 64 else 32

/-- R353: a position enters the ring from its bytes; a poisoned one has failed. -/
def RingRec.enter (r : RingRec) (v : Nat) (poison : Bool) : Flit :=
  if r.comb == 2 then
    if poison then .fail 2
    else
      let b := Wb.ofSbf (codeW r.fmt) (Sbf.ofImage (codeW r.fmt) v)
      .block b.x (b.q.take 8) b false
  else if poison then .fail r.comb
  else if r.comb == 1 then .laneI (BitVec.ofNat 256 v) 0 else .laneF (BitVec.ofNat 256 v) 0

/-- R353: beats of the local chunk that are still to be read. -/
def RingRec.unread (r : RingRec) : List Nat := (List.range (r.chunk / 32)).filter fun n => !(r.took.any fun b => b.1 == n)

/-- R281, R353: one beat of local chunk c is read, in a free order (log 22); in a vault that cannot be reached it counts as poisoned, with a
record (R53). -/
def State.ringTake (s : State) (p slot k : Nat) (r : RingRec) (lead h : CoreId) (o c : Nat) : State :=
  let n := r.unread.getD (Config.freeNat s.draws % r.unread.length) 0
  let at_ := o + c * r.chunk + 32 * n
  let bad : Bool := (s.stops lead h).isSome || (s.core h).poisonedIn at_ 32
  let r := { r with took := (n, BitVec.ofNat 256 ((s.core h).vault.le at_ 32), bad) :: r.took, since := s.timerStart lead }
  let s := match s.stops lead h with | some m => s.unreached lead m (globalAddr (s.coord h) at_) | none => s
  { s with draws := s.draws + 1 }.modPtn p slot fun q => q.setRing k r

/-- R353: the positions of the chunk that has been read; one with a poisoned beat has failed. -/
def RingRec.taken (r : RingRec) : List Flit :=
  let beat (n : Nat) : Nat × Bool := match r.took.find? fun b => b.1 == n with | some b => (b.2.1.toNat, b.2.2) | none => (0, false)
  (List.range (r.chunk / r.unit)).map fun n =>
    if r.unit == 32 then r.enter (beat n).1 (beat n).2
    else r.enter ((beat (2 * n)).1 + (beat (2 * n + 1)).1 * 2^256) ((beat (2 * n)).2 || (beat (2 * n + 1)).2)

/-- R353: combine(arriving, local), beat by beat; a failed beat fails the sum. -/
def combineChunk (r : RingRec) (self : Nat) (arriving loc : List Flit) : List Flit :=
  List.zipWith (fun a b =>
    match a, b with
    | .fail k, _ => .fail k
    | _, .fail k => .fail k
    | a, b => (combine r.op self [a, b]).flit) arriving loc

/-- R353: a beat leaves the ring: BSUM by R100 under RC, the rest as it is; a failed one as R346 lays down. The random word of an SR exit
is not stated (log 3). -/
def exitBeat (r : RingRec) (rnd : Nat → Nat) (self : Nat) (f : Flit) : List Byte × Bool :=
  match f with
  | .laneF d _ | .laneI d _ => (leBytes d.toNat 32, false)
  | .block _ _ wb _ => (leBytes ((toSbf (codeW r.fmt) r.rc rnd self wb.vals).1.image (codeW r.fmt)) 64, false)
  | _ => if r.comb == 1 then (List.replicate 32 0, true)
         else if r.comb == 0 then (leBytes (packElems 32 (List.replicate 8 (poisonCode F32 self))) 32, false)
         else (leBytes ((Sbf.poisoned self).image (codeW r.fmt)) 64, false)

/-- R353: the positions of a chunk leave the ring; the random words are numbered from `draw`. -/
def exitChunk (r : RingRec) (draw self : Nat) (fs : List Flit) : List (List Byte × Bool) :=
  fs.mapIdx fun n f => exitBeat r (fun k => Config.freeNat (draw + n * 16 + k) % 2^32) self f

/-- R281: the 32-byte beats of a chunk's positions. -/
def chunkBeats (ps : List (List Byte × Bool)) : List (List Byte × Bool) :=
  ps.flatMap fun (d, bad) => if d.length ≤ 32 then [(d, bad)] else [(d.take 32, bad), (d.drop 32, bad)]

/-- R281, R353: one beat of the chunk being written, in a free order (log 22); in a vault that cannot be reached it stays unwritten, with a record, and the
operation has failed. -/
def State.ringBeat (s : State) (p slot k : Nat) (r : RingRec) (lead h : CoreId) (o : Nat) : State :=
  match r.out with
  | none => s
  | some (c, bs) =>
    let left := (List.range bs.length).filter fun n => !r.wrote.contains n
    let n := left.getD (Config.freeNat s.draws % left.length) 0
    let at_ := o + c * r.chunk + 32 * n
    let lost : Bool := (s.stops lead h).isSome
    let s := { s with draws := s.draws + 1 }
    let s := match bs[n]? with
      | some (d, bad) =>
        match s.stops lead h with
        | some m => s.unreached lead m (globalAddr (s.coord h) at_)
        | none => if bad then s.poisonWrite h at_ d false else s.engineWrite h at_ d false
      | none => s
    let r := { r with inc := r.inc || lost, since := s.timerStart lead }
    s.modPtn p slot fun q => q.setRing k
      (if left.length ≤ 1 then { r with out := none, wrote := [], final := c :: r.final } else { r with wrote := n :: r.wrote })

/-- R353: the operation ends: INC with a record RING_INCOMPLETE, and SEM of the core that holds BUF. -/
def State.ringEnd (s : State) (lead : CoreId) (p slot k : Nat) (r : RingRec) (h : CoreId) (inc : Bool) : State :=
  let s := s.modPtn p slot fun q => q.setRing k { r with run := false, inc := inc }
  let s := if inc then s.record lead (engCause 13 3) none 0 0 7 else s
  if r.sv then s.semLater h r.sem else s

/-- R353: chunks a rank writes in an operation: its own result, and in a gather those of the others. -/
def RingRec.results (r : RingRec) : List Nat :=
  let own := (r.rank + 1) % r.np
  if r.rop == 0 then [own] else if r.rop == 2 then List.range r.np else (List.range r.np).filter (· ≠ own)

/-- R353: a failure: the chunks not yet written will be written poisoned, and INC set. What has arrived for the operation is discarded
(log 98). -/
def State.ringFail (s : State) (p slot k : Nat) (r : RingRec) : State :=
  s.modPtn p slot fun q => q.setRing k { r with fail := true, out := none, wrote := [], took := [], inbox := [] }

/-- R353: a failed operation goes on to its next unfinished chunk, or ends. -/
def State.ringPoison (s : State) (p slot k : Nat) (r : RingRec) (lead h : CoreId) : State :=
  match r.results.find? fun c => !r.final.contains c with
  | none => s.ringEnd lead p slot k r h true
  | some c =>
    let ps := exitChunk r 0 (s.coord lead) (List.replicate (r.chunk / r.unit) (.fail 0))
    s.modPtn p slot fun q => q.setRing k (if ps.isEmpty then { r with final := c :: r.final } else { r with out := some (c, chunkBeats ps) })

/-- The partition and record at the ring's successor; nothing when the link to it has failed. -/
def State.ringNext (s : State) (p k : Nat) (q : Ptn) : Option (Nat × Nat) :=
  let w := s.wafer p
  match (match w.portIsle q k with | some i => w.portStop q i 0 | none => some 6) with
  | some _ => none
  | none =>
    match s.partOf w.domid ((w.pidx + 1) % w.nparts) with
    | none => none
    | some p' =>
      match (s.wafer p').ptns.find? fun r => r.dom && r.first == q.first && r.count == q.count with
      | some r => some (p', r.slot)
      | none => none

/-- A chunk reaches the successor's sequencer. -/
def State.ringSend (s : State) (dst : Nat × Nat) (k c : Nat) (fs : List Flit) : State :=
  s.modPtn dst.1 dst.2 fun q => q.setRing k { q.ringRec k with inbox := (q.ringRec k).inbox ++ [(c, fs)] }

/-- Steps of an operation: one for each chunk sent or received. -/
def RingRec.steps (r : RingRec) : Nat := if r.rop == 2 then 2 * r.np - 1 else r.np

/-- A chunk's step is taken: `f` on the record, which then waits for the beats that it writes. -/
def State.ringPut (s : State) (p slot k : Nat) (f : RingRec → RingRec) : State :=
  s.modPtn p slot fun q =>
    let r := q.ringRec k
    let r := { f r with step := r.step + 1, took := [], since := s.timerStart (leadCore p q) }
    q.setRing k (match r.out with | some (c, []) => { r with out := none, final := c :: r.final } | _ => r)

/-- R353: a step of a running sequencer: it reads or writes a beat, ends, sends its own chunk, or takes the chunk that has arrived, combines
it and sends it on. A hold stops it at the end of a chunk (R355); while the vault of BUF is on the move it waits (R58). The origin in what it
writes poisoned is the lead core's coordinate word (log 129). -/
def State.ringAct (s : State) (p slot k : Nat) : State :=
  match (s.wafer p).ptnIn slot with
  | none => s
  | some q =>
    let r := q.ringRec k
    let lead := leadCore p q
    if !r.run || (s.frozen lead && !r.inChunk) then s
    else
      match s.ringBuf lead r with
      | none => s
      | some (h, o) =>
        let n := r.np
        let self := s.coord lead
        if s.away lead h then s
        else if r.out.isSome then s.ringBeat p slot k r lead h o
        else if r.fail then s.ringPoison p slot k r lead h
        else if r.steps ≤ r.step then s.ringEnd lead p slot k r h r.inc
        else
          match s.ringNext p k q with
          | none => s.ringFail p slot k r
          | some dst =>
            if r.step == 0 then
              let c := if r.rop == 1 then (r.rank + 1) % n else r.rank
              if r.unread.isEmpty then (s.ringSend dst k c r.taken).ringPut p slot k id else s.ringTake p slot k r lead h o c
            else
              match r.inbox with
              | [] => s
              | (c, fs) :: rest =>
                let pop (r : RingRec) : RingRec := { r with inbox := rest }
                let s' := { s with draws := s.draws + 16 * fs.length }
                if r.rop ≠ 1 && r.step + 1 ≤ n then
                  let sum := combineChunk r self fs r.taken
                  if !r.unread.isEmpty then s.ringTake p slot k r lead h o c
                  else if r.step + 1 < n then (s.ringSend dst k c sum).ringPut p slot k pop
                  else
                    let bad := sum.any fun f => match f with | .fail _ => true | _ => false
                    let ps := exitChunk r s.draws self sum
                    -- in an all-reduce the other ranks get the chunk as it leaves the ring here
                    let s' := if r.rop == 2 then s'.ringSend dst k c (ps.map fun (d, bad) => r.enter (leNat d) bad) else s'
                    s'.ringPut p slot k fun r => { pop r with out := some (c, chunkBeats ps), inc := r.inc || bad }
                else
                  let s' := if r.step + 1 < r.steps then s'.ringSend dst k c fs else s'
                  s'.ringPut p slot k fun r => { pop r with out := some (c, chunkBeats (exitChunk r s.draws self fs)) }

/-- RING_STEP: a step of a sequencer; the partition is held if nothing is left for it. -/
def State.ringStep (s : State) (p slot k : Nat) : State := (s.ringAct p slot k).checkHeld p slot

def execRingStep (part slot ring : Nat) (s : State) : Out := .next (s.ringStep part slot ring)

/-- RING_STALL: R353: no progress for 10 ms, 15,000,000 cycles. -/
def State.ringStall (s : State) (p slot k : Nat) : State :=
  match (s.wafer p).ptnIn slot with
  | none => s
  | some q =>
    let r := q.ringRec k
    if r.run && !r.fail && !s.frozen (leadCore p q) && r.since + 15000000 ≤ s.now then s.ringFail p slot k r else s

def execRingStall (part slot ring : Nat) (s : State) : Out := .next (s.ringStall part slot ring)

/-! ## The record in CTRL space (R352) -/

def State.ringRead (s : State) (c : CoreId) (k w : Nat) : Nat :=
  match s.ptnOf c with
  | none => 0
  | some q =>
    if !(s.wafer (cPart c)).hasRing q k then 0
    else
      let r := q.ringRec k
      match w with
      | 0 => r.w0.toNat
      | 1 => r.buf.toNat
      | 2 => r.chunk + 2^32 * r.sem + (if r.sv then 2^36 else 0)
      | 3 => (if r.run then 2 else 0) + (if r.inc then 4 else 0)
      | _ => 0

def State.ringWrite (s : State) (c : CoreId) (k w : Nat) (v : Word) : State :=
  match s.ptnOf c with
  | none => s
  | some q =>
    if !(s.wafer (cPart c)).hasRing q k then s
    else
      let set (f : RingRec → RingRec) : State := s.modPtn (cPart c) q.slot fun q => q.setRing k (f (q.ringRec k))
      match w with
      | 0 => set fun r => { r with w0 := BitVec.ofNat 64 (bits v.toNat 0 15 + 2^16 * bits v.toNat 16 3) }
      | 1 => set fun r => { r with buf := v }
      | 2 => set fun r => { r with chunk := bits v.toNat 0 32, sem := bits v.toNat 32 4, sv := v.getLsbD 36 }
      | 3 => if v.getLsbD 0 then s.ringGo (cPart c) q.slot k else s
      | _ => s

end Sys2Proof.Machine
end

