-- ==== Sys2Proof/Machine/Preempt.lean ====
section
/-!
DEFINITION. Pre-emption (R401 to R413): the request, PREQ, the resume of a held partition, and ERET.P. The stop and the save stand in
Save.lean.
-/
namespace Sys2Proof.Machine

/-- R401: a request for a hold is accepted unless one stands; its strand becomes the exempt one. -/
def State.request (s : State) (p slot : Nat) (ex : Option (CoreId × Fin 4)) : State :=
  match (s.wafer p).ptnIn slot with
  | none => s
  | some q =>
    if q.pre.saving || q.pre.held then s
    else s.modPtn p slot fun q => { q with pre := { q.pre with saving := true, exempt := ex, since := s.now } }

/-- PREEMPT_REQUEST: a strand of the partition writes REQ. -/
def execPreemptRequest (part slot core strand : Nat) (s : State) : Out :=
  .next (match s.ptnOf core with
    | some q => if cPart core == part && q.slot == slot then s.request part slot (some (core, Fin.ofNat 4 strand)) else s
    | none => s)

/-- R418: PREQ. -/
def execPreq (d : BitVec 5) (s : State) : Out :=
  .next (if s.ctx.priv then s.queue (.preq d) 4 true else s.illegal (.preq d) cILL_PRIV)

/-- R418: PREQ in the store queue: a release at scope .C, which waits until its hold stands. -/
def State.relPreq (s : State) (c : CoreId) (t : Fin 4) (e : Entry) (d : BitVec 5) : Option State :=
  match s.ptnOf c with
  | none => none
  | some q =>
    let done (v : Word) : Option State := some (s.finish c t e.seq fun x => x.setX d v)
    if e.phase == 0 then
      if s.halted c t || !s.released c t e.seq 0 then none
      else if q.pre.saving || q.pre.held then done 1
      else some (setEntry (s.request (cPart c) q.slot (some (c, t))) c t e.seq fun e => { e with phase := 1 })
    else if q.pre.held then done 0 else none

/-! ## Resume (R410 to R412) -/

/-- R290, R405: a core with every strand FREE and every resource as at a launch; on the lead core what belongs to the supervisor stays. -/
def Core.relaunched (k : Core) (lead : Bool) : Core :=
  let keep (b : Bool) (x : Strand) : Strand := if b then x.setSt false else { Strand.idle with born := k.seq }
  { Core.formed with
    strands := #v[keep false (k.strand 0), keep false (k.strand 1), keep false (k.strand 2), keep lead (k.strand 3)], seq := k.seq
    near := k.near, exec := k.exec, stale := k.stale, nearUe := k.nearUe, vault := k.vault, empty := k.empty, poison := k.poison
    vaultUe := k.vaultUe, nearUeSeen := k.nearUeSeen, bindings := vset Core.formed.bindings 63 (vget k.bindings 63)
    dmask := if lead then k.dmask &&& BitVec.ofNat 64 (2^63) else 0, recv := if lead then k.recv.filter fun m => m.tag == 63 else []
    nextArr := if lead then k.nextArr else 0, sendq := if lead then k.sendq.filter fun m => m.strand == 3 else [], sendId := k.sendId
    launchid := k.launchid, sseed := k.sseed, ssteal := k.ssteal, sspill := k.sspill, smode := k.smode, sarg := k.sarg, sentry := k.sentry
    stvec := k.stvec, saveoff := k.saveoff, frameOff := k.frameOff, snote := k.snote, bulk := k.bulk, streams := k.streams, addrq := k.addrq, incs := k.incs }

/-- R403: an increment counted during the hold, saturating with a record. -/
def State.addCounted (s : State) (c : CoreId) (n v : Nat) : State :=
  let sum := (vget (s.core c).sems n).toNat + v
  let s := if 2^32 ≤ sum then s.record c (msgCause 6 3) none 0 0 0 else s
  (s.modCore c fun k => { k with sems := vset k.sems n (BitVec.ofNat 32 (if 2^32 ≤ sum then 2^32 - 1 else sum)) }).signal c 2 none

/-- R412: a strand that asked for it traps PREEMPTED before it issues anything. -/
def Strand.preempted (x : Strand) (cycles : Nat) : Strand :=
  if x.ctx.note && (x.st == .ready || x.st == .handler) then
    { x with ctx := x.ctx.trap (sysCause 7 0) x.ctx.pc (BitVec.ofNat 64 cycles) }
  else x

/-- R410: a cancelled instruction of a core that saved no frame is issued again. -/
def Strand.again (x : Strand) : Strand := if x.reexec then x.setSt false else x

/-- R410: a core of a held partition proceeds; one that saved no frame goes on in place. -/
def State.resumeCore (s : State) (q : Ptn) (c : CoreId) : State :=
  let k := s.core c
  if !k.saved then
    s.putCore c { k with stopped := false, strands := #v[(k.strand 0).again, (k.strand 1).again, (k.strand 2).again, (k.strand 3).again] }
  else
    let bad := !k.saveFailed && (s.frameBad c || (s.stops c c).isSome)
    let s := if bad then s.record c (sysCause 6 3) none 0 0 0 else s
    let r := if bad || k.saveFailed then k.relaunched (leadCore (cPart c) q == c) else s.restoreCore c
    let s := k.incs.foldl (fun s (n, v) => s.addCounted c n v) (s.putCore c { r with incs := [] })
    let d := s.now - q.pre.since
    s.modCore c fun k =>
      { k with strands := #v[(k.strand 0).preempted d, (k.strand 1).preempted d, (k.strand 2).preempted d, (k.strand 3).preempted d] }

/-- R355, R385, R404: timers that stood still during a hold of `d` cycles go on where they stopped. -/
def Core.shifted (k : Core) (d : Nat) : Core :=
  { k with streams := k.streams.map fun p => (p.1, { p.2 with since := p.2.since.map (· + d) }),
           bulk := k.bulk.map fun m => { m with started := m.started + d }, held := k.held.map fun h => (h.1, h.2 + d),
           heldTop := k.heldTop.map fun h => (h.1, h.2 + d) }

/-- The cycles of a hold since `a` by which timers move when it ends: where another stands since `b`, only those before it, since that one
moves them by the rest. -/
def holdLength (a : Nat) (b : Option Nat) (now : Nat) : Nat := match b with | some b => b - a | none => now - a

/-- The timers of a partition move by the length of a hold. -/
def State.shiftTimers (s : State) (p : Nat) (q : Ptn) (d : Nat) : State :=
  let s := (s.coresOf p q).foldl (fun s c => s.modCore c fun k => k.shifted d) s
  let s := s.modPtn p q.slot fun q => { q with rings := q.rings.map fun r => (r.1, { r.2 with since := r.2.since + d }) }
  let ids := (s.fars.filter fun m => (s.ptnOf m.core).map (·.slot) == some q.slot && cPart m.core == p).map (·.id)
  s.modWafer p fun w => { w with straits := w.straits.map fun x =>
    (x.1, { x.2 with slots := x.2.slots.map fun f => if ids.contains f.cmd then { f with deadline := f.deadline + d } else f }) }

/-- R410: the held partition resumes: every core proceeds, the hold ends and is counted. Its mailbox shows its STATE again (R429). -/
def State.resume (s : State) (p slot : Nat) : State :=
  match (s.wafer p).ptnIn slot with
  | none => s
  | some q =>
    if !q.pre.held then s
    else
      let s := (s.coresOf p q).foldl (fun s c => s.resumeCore q c) s
      let s := s.shiftTimers p q (holdLength q.pre.since q.amendHold s.now)
      s.modPtn p slot fun q => { q with pre := { q.pre with held := false, saving := false, exempt := none, count := q.pre.count + 1 } }

/-- RES: a write of RES that R410 lets act: from the exempt strand, or from the controller where there is none. -/
def execRes (part slot : Nat) (s : State) : Out := .next (s.resume part slot)

/-- R417: ERET.P. -/
def execEretP (s : State) : Out :=
  let hold : Option Nat := match s.ptnOf s.cur.1 with
    | some q => if q.pre.held && q.pre.exempt == some s.cur then some q.slot else none
    | none => none
  .next (
    if !s.ctx.priv then s.illegal .eretP cILL_PRIV
    else match hold with
      | none => s.trap cERET_FRAME 0
      | some slot => (s.retire 4 s.ctx).resume (cPart s.cur.1) slot)

/-- R401: the word of the pre-emption block at an offset. -/
def State.preRead (s : State) (q : Ptn) (off : Nat) : Nat :=
  if off == 0 then
    flag q.pre.saving 2 + flag q.pre.held 3 +
      (match q.pre.exempt with | some (d, t) => 16 + t.1 * 2^5 + s.coord d * 2^7 | none => 0)
  else if off == 8 then q.pre.count.toNat
  else 0

/-- R401: a write of the pre-emption block by strand (c, t). -/
def State.preWrite (s : State) (c : CoreId) (t : Fin 4) (q : Ptn) (off : Nat) (v : Word) : State :=
  if off ≠ 0 then s
  else
    let s := if v.getLsbD 0 then s.request (cPart c) q.slot (some (c, t)) else s
    if v.getLsbD 1 && q.pre.held && q.pre.exempt == some (c, t) then s.resume (cPart c) q.slot else s

end Sys2Proof.Machine
end

