-- ==== Sys2Proof/Machine/Ctrl.lean ====
section
/-!
DEFINITION. Supervisor control space (R246): the blocks of a core (R326) and of its router (R329), and the partition's blocks, each with
the layout its chapter gives; and the events that write one of them.
-/
namespace Sys2Proof.Machine

/-! ## A core's control block (R326) -/

/-- R326: the word a core's control block holds at an offset. -/
def Core.ctlRead (k : Core) (off : Nat) : Nat :=
  if off < 0x10000 then k.near.le off 8
  else if off < 0x10080 then elem k.exec.toNat 64 ((off - 0x10000) / 8)
  else
    match off with
    | 0x10080 => k.launchid.toNat
    | 0x10088 => k.sseed.toNat
    | 0x10090 => k.ssteal.toNat
    | 0x10098 => k.sspill.toNat
    | 0x100A0 => k.smode.toNat
    | 0x100A8 => k.sarg.toNat
    | 0x100B0 => k.sentry.toNat
    | 0x100B8 => k.stvec.toNat
    | 0x100C0 => k.saveoff.toNat
    | 0x100C8 => flag k.snote 0
    | _ => 0

/-- R326: a write through NWIN, seen by every later fetch. -/
def Core.nwin (k : Core) (off : Nat) (v : Word) : Core :=
  { k with near := k.near.writeN off (leBytes v.toNat 8), stale := (k.stale.map fun q => (q.1, q.2.filter fun b => !(off ≤ b.1 && b.1 < off + 8))).filter fun q => !q.2.isEmpty,
           nearUe := k.nearUe.filter (· ≠ off / 8) }

/-- R77, R326: word n of EXMAP is written; the bits of lines 1020 to 1023 stay. -/
def Core.exmap (k : Core) (n : Nat) (v : Word) : Core :=
  let old := elem k.exec.toNat 64 n
  let new := if n == 15 then v.toNat % 2^60 + old / 2^60 * 2^60 else v.toNat
  { k with exec := BitVec.ofNat 1024 (packElems 64 ((List.range 16).map fun i => if i == n then new else elem k.exec.toNat 64 i)) }

/-- R326: a write of a core's control block. -/
def Core.ctlWrite (k : Core) (off : Nat) (v : Word) : Core :=
  if off < 0x10000 then k.nwin off v
  else if off < 0x10080 then k.exmap ((off - 0x10000) / 8) v
  else
    match off with
    | 0x10080 => { k with launchid := v.setWidth 32 }
    | 0x10088 => { k with sseed := v }
    | 0x10090 => { k with ssteal := v }
    | 0x10098 => { k with sspill := BitVec.ofNat 64 (bits v.toNat 0 19 + bits v.toNat 32 19 * 2^32) }
    | 0x100A0 => { k with smode := v.setWidth 9 }
    | 0x100A8 => { k with sarg := v }
    | 0x100B0 => { k with sentry := v.setWidth 16 }
    | 0x100B8 => { k with stvec := v.setWidth 16 }
    | 0x100C0 => { k with saveoff := v.setWidth 7 }
    | 0x100C8 => { k with snote := v.getLsbD 0 }
    | _ => k

/-- R124, R220, R290: a core is started for a launch: when the supervisor writes its LAUNCHID (log 96). On the lead core S3 and what belongs to
the supervisor stay. -/
def Core.launched (k : Core) (lead : Bool) : Core :=
  let free (x : Strand) : Strand := if x.st == .retained then { x with st := .free, fromRetained := false, htag := none } else x
  { k with
    strands := #v[free (k.strand 0), free (k.strand 1), free (k.strand 2), if lead then k.strand 3 else free (k.strand 3)]
    acc := Core.formed.acc, holder := Core.formed.holder
    recv := if lead then k.recv.filter fun m => m.tag == 63 else []
    sendq := if lead then k.sendq.filter fun e => e.strand == 3 else []
    dmask := if lead then k.dmask &&& BitVec.ofNat 64 (2^63) else 0
    bindings := vset Core.formed.bindings 63 (if lead then vget k.bindings 63 else some (startBinding 0xFF00)) }

/-- NWIN: a CTRL access through a core's near-store window. -/
def execNwin (core offset write data : Nat) (s : State) : Out :=
  .next (if write ≠ 0 && offset < 0x10000 && offset % 8 == 0 then s.modCore core fun k => k.nwin offset (BitVec.ofNat 64 data) else s)

/-- EXMAP: a write of a core's execute bits. -/
def execExmap (core word data : Nat) (s : State) : Out :=
  .next (if word < 16 then s.modCore core fun k => k.exmap word (BitVec.ofNat 64 data) else s)

/-! ## The error ring's block (R400) -/

def RingBlock.read (b : RingBlock) (off : Nat) : Nat :=
  match off with
  | 0x00 => b.rbase * 2^5 + b.rlog * 2^24 + b.rsem * 2^32 + flag b.rsv 36 + flag b.en 37
  | 0x08 => b.head.toNat
  | 0x10 => b.tail.toNat
  | 0x18 => b.lost.toNat
  | _ => 0

/-- R400: HEAD counts from the write that sets EN; an RLOG outside 4 to 12 leaves EN at 0. -/
def RingBlock.write (b : RingBlock) (off : Nat) (v : Word) : RingBlock :=
  match off with
  | 0x00 =>
    let rlog := bits v.toNat 24 4
    let en := v.getLsbD 37 && 4 ≤ rlog && rlog ≤ 12
    { b with rbase := bits v.toNat 5 14, rlog := rlog, rsem := bits v.toNat 32 4, rsv := v.getLsbD 36, en := en,
             head := if en && !b.en then 0 else b.head }
  | 0x10 => { b with tail := v.setWidth 32 }
  | _ => b

/-! ## The mailbox, as the supervisor sees it (R428) -/

/-- A 64-bit word of a 1,024-bit field. -/
def put1024 (m : BitVec 1024) (n : Nat) (v : Word) : BitVec 1024 :=
  BitVec.ofNat 1024 (packElems 64 ((List.range 16).map fun i => if i == n then v.toNat else elem m.toNat 64 i))

/-- R428: the word at an offset of a mailbox page; LCOPY is seen only through CTRL. -/
def Mailbox.read (m : Mailbox) (off : Nat) (ctrl : Bool) : Nat :=
  if off < 0x80 then elem m.launch.toNat 64 (off / 8)
  else if 0x100 ≤ off && off < 0x180 then elem m.reply.toNat 64 ((off - 0x100) / 8)
  else if ctrl && 0x200 ≤ off && off < 0x280 then elem m.lcopy.toNat 64 ((off - 0x200) / 8)
  else
    match off with
    | 0x88 => m.sigword.toNat
    | 0x90 => m.st.toNat + flag m.ovr 3 + m.rcause.toNat * 2^4 + m.lastid.toNat * 2^32
    | 0x98 => m.doneword.toNat
    | _ => 0

/-- R428: a supervisor write: STATE (values above 4 leave it), RCAUSE, LASTID, DONEWORD and REPLY. -/
def Mailbox.supWrite (m : Mailbox) (off : Nat) (v : Word) : Mailbox :=
  if 0x100 ≤ off && off < 0x180 then { m with reply := put1024 m.reply ((off - 0x100) / 8) v }
  else
    match off with
    | 0x90 => { m with st := if 5 ≤ bits v.toNat 0 3 then m.st else v.setWidth 3, rcause := BitVec.ofNat 9 (bits v.toNat 4 9),
                       lastid := BitVec.ofNat 32 (bits v.toNat 32 32) }
    | 0x98 => { m with doneword := v }
    | _ => m

/-- R421, R428: an MSI-X vector is sent. -/
def State.msix (s : State) (p : Nat) (port : Bool) (vector : Nat) : State :=
  s.modWafer p fun w => { w with msix := w.msix ++ [(port, vector)] }

/-- IRQ: R428: the supervisor writes IRQ. -/
def execIrq (part slot : Nat) (s : State) : Out :=
  .next (match (s.wafer part).ptnIn slot with | some q => s.msix part q.port (1 + slot) | none => s)

/-! ## CTRL space (R246) -/

/-- R326, R329: the core a CTRL address names: one of the strand's partition on its part. -/
def State.ctrlCore (s : State) (c : CoreId) (ea : Word) : Option CoreId :=
  match s.coreAt c (bits ea.toNat 56 3) (bits ea.toNat 47 9) (bits ea.toNat 38 9) with
  | some h => if cPart h == cPart c && bits ea.toNat 59 1 == 0 then some h else none
  | none => none

/-- A read of the partition's blocks: the block number in [31:16] and the offset in it. -/
def State.blockRead (s : State) (c : CoreId) (q : Ptn) (n off : Nat) : Nat :=
  match n with
  | 1 => if off < 0x1000 then s.chanRead c (off / 0x100) (off % 0x100) else 0
  | 2 => if off == 0 then q.comp.w0 else if off == 8 then q.comp.done.toNat else 0
  | 3 => if off < 0x1000 then s.ringRead c (off / 0x40) (off % 0x40 / 8) else 0
  | 4 => q.far.read off
  | 5 => s.straitRead c (off / 0x400) (off % 0x400)
  | 6 => q.ring.read off
  | 7 => s.preRead q off
  | 8 => (vget (s.wafer (cPart c)).mail q.slot).read off true
  | _ => 0

/-- R246: the 64-bit word at a CTRL address; an address no chapter assigns reads as zero. -/
def State.ctrlRead (s : State) (c : CoreId) (ea : Word) : Word :=
  let e := ea.toNat
  BitVec.ofNat 64 (
    match bits e 32 6 with
    | 2 => if bits e 17 15 == 0 then (match s.ctrlCore c ea with | some h => (s.core h).ctlRead (bits e 0 17) | none => 0) else 0
    | 1 =>
      if bits e 11 21 == 0 then (match s.ctrlCore c ea with | some h => ((s.core h).stream (bits e 5 6)).word (bits e 3 2) | none => 0) else 0
    | 0 =>
      if bits e 38 22 == 0 then
        (match s.ptnOf c with | some q => s.blockRead c q (bits e 16 16) (bits e 0 16) | none => 0)
      else 0
    | _ => 0)

/-- A write of the partition's blocks by strand (c, t). -/
def State.blockWrite (s : State) (c : CoreId) (t : Fin 4) (q : Ptn) (n off : Nat) (v : Word) : State :=
  let p := cPart c
  match n with
  | 1 => if off < 0x1000 then s.chanWrite c (off / 0x100) (off % 0x100) v else s
  | 2 =>
    if off == 0 then s.modPtn p q.slot fun q => { q with comp := q.comp.write v.toNat }
    else if off == 8 then s.modPtn p q.slot fun q => { q with comp := { q.comp with done := v } }
    else s
  | 3 => if off < 0x1000 then s.ringWrite c (off / 0x40) (off % 0x40 / 8) v else s
  | 4 => { s with ids := s.ids + 1 }.modPtn p q.slot fun q => { q with far := q.far.write off v s.ids }
  | 5 => s.straitWrite c (off / 0x400) (off % 0x400) v
  | 6 => s.modPtn p q.slot fun q => { q with ring := q.ring.write off v }
  | 7 => s.preWrite c t q off v
  | 8 =>
    if off == 0x180 then (if v.getLsbD 0 then s.msix p q.port (1 + q.slot) else s)
    else s.modWafer p fun w => { w with mail := vset w.mail q.slot ((vget w.mail q.slot).supWrite off v) }
  | _ => s

/-- R246: a write of a CTRL address by strand (c, t); an address no chapter assigns ignores it. -/
def State.ctrlWrite (s : State) (c : CoreId) (t : Fin 4) (ea v : Word) : State :=
  let e := ea.toNat
  match bits e 32 6 with
  | 2 =>
    if bits e 17 15 == 0 then
      (match s.ctrlCore c ea with
        | some h =>
          let lead : Bool := match s.ptnOf h with | some q => leadCore (cPart h) q == h | none => false
          s.modCore h fun k => let k := k.ctlWrite (bits e 0 17) v; if bits e 0 17 == 0x10080 then k.launched lead else k
        | none => s)
    else s
  | 1 =>
    if bits e 11 21 == 0 then (match s.ctrlCore c ea with | some h => s.writeEntry h (bits e 5 6) (bits e 3 2) v | none => s) else s
  | 0 =>
    if bits e 38 22 == 0 then
      (match s.ptnOf c with | some q => s.blockWrite c t q (bits e 16 16) (bits e 0 16) v | none => s)
    else s
  | _ => s

/-- REGISTER_WRITE: R13: the supervisor of a partition writes a register by its access code. -/
def execRegisterWrite (part slot addr data : Nat) (s : State) : Out :=
  .next (match (s.wafer part).ptnIn slot with
    | some q => if addr % 8 == 0 then s.ctrlWrite (leadCore part q) 3 (BitVec.ofNat 64 addr) (BitVec.ofNat 64 data) else s
    | none => s)

end Sys2Proof.Machine
end

