-- ==== Sys2Proof/Machine/Memory.lean ====
section
/-!
DEFINITION. Loads, stores, atomics, semaphores and full/empty instructions (R258 to R267), their return and their release from the store
queue (R252).
-/
namespace Sys2Proof.Machine

/-! ## Loads (R258 to R262) -/

/-- R258, R262 to R265: what an access with a result writes, from the bytes it read. -/
def loadWrite (i : Instr) (bs : List Byte) (x : Ctx) : Ctx :=
  let v := leNat bs
  let ext (d : BitVec 5) (z : BitVec 3) : Ctx := x.setX d (if z.toNat < 3 then sx64 (8 * szBytes z) v else BitVec.ofNat 64 v)
  let zero (d : BitVec 5) : Ctx := x.setX d (BitVec.ofNat 64 v)
  match i with
  | .ld d _ z _ => if z = 4 then x.setXPair d (BitVec.ofNat 64 v) (BitVec.ofNat 64 (v / 2^64)) else ext d z
  | .lda d _ z _ => ext d z
  | .ldfe d _ _ => zero d
  | .ldfeE d _ _ => zero d
  | .ldv d _ _ _ => x.setV d (BitVec.ofNat 512 v)
  | .ldvs d _ _ _ => x.setV d (BitVec.ofNat 512 v)
  | .ldvg d _ z _ => x.setV d (BitVec.ofNat 512 (packElems 32 ((List.range 16).map fun k => elem v (8 * szBytes z) k)))
  | .amoAdd d _ _ z | .amoSub d _ _ z | .amoAnd d _ _ z | .amoOr d _ _ z | .amoXor d _ _ z | .amoMin d _ _ z | .amoMax d _ _ z
  | .amoMinu d _ _ z | .amoMaxu d _ _ z | .amoSwap d _ _ z | .amoAddsat d _ _ z => ext d z
  | .amoFadd d _ _ _ | .amoBfadd d _ _ _ => zero d
  | .cas d _ _ _ z => ext d z
  | .amovR d _ _ _ _ => x.setV d (BitVec.ofNat 512 v)
  | _ => x

/-- R257: a near range meets a word with an uncorrectable error. -/
def Core.nearBad (k : Core) (off len : Nat) : Option Nat := k.nearUe.find? fun w => off < 8 * w + 8 && 8 * w < off + len

/-- The near elements of an access: address, offset and length. -/
def State.nearElems (s : State) (c : CoreId) (els : List (Word × Nat)) : List (Word × Nat × Nat) :=
  els.filterMap fun (ea, n) => match s.place c ea with | .near o => some (ea, o, n) | _ => none

/-- R272: a load leaves the strand: a near access is performed, a vault access sends one request per event. -/
def State.leave (s : State) (c : CoreId) (t : Fin 4) (e : Entry) : State :=
  let els := memElems e.snap e.instr
  let ns := s.nearElems c els
  let k := s.core c
  if els.length == ns.length then
    match ns.find? fun (_, o, n) => (k.nearBad o n).isSome with
    | some (ea, _) => (s.nearUeFound c).faultAt c t e (memCause 8 0) ea
    | none => s.finish c t e.seq (loadWrite e.instr (ns.flatMap fun (_, o, n) => k.near.readN o n))
  else
    let op : ReqOp := match e.instr with | .ldfe _ _ _ => .ldfe false | .ldfeE _ _ _ => .ldfe true | _ => .load
    let rs := (s.eventsOf c els).mapIdx fun n (ea, h, o, m) => s.mkReq c t e.seq n ea h o m op true 0
    let s := s.modStrand c t fun x =>
      let x := { x with loads := x.loads.map fun y => if y.seq == e.seq then { y with parts := List.replicate rs.length .pending, phase := 1 } else y }
      match op with | .ldfe true => x.settle e.seq | _ => x
    s.send rs

/-- R59, R252, R271: a load may leave: no older entry of the store queue overlaps it, no access to its home waits after RETRY, and, where it
empties its word, nothing older can still trap. -/
def State.mayLeave (s : State) (c : CoreId) (t : Fin 4) (e : Entry) : Bool :=
  let ps := s.places c e.snap e.instr
  !s.queuedOver c t e.seq ps && !s.retrying c t e.seq ps && (match e.instr with | .ldfeE _ _ _ => (s.strand c t).sure e.seq | _ => true)

/-- R245, R272: a load of the running strand: it traps, or it is issued, and leaves unless an older store holds it back. -/
def State.issueLoad (s : State) (i : Instr) (bad : Option (Nat × Word)) (hold : Bool) : State :=
  match bad with
  | some (n, ea) => s.trap (memCause n 0) ea
  | none =>
    let e := s.entry i [] 0
    let t := s.await_load i [] 0 hold
    if s.mayLeave s.cur.1 s.cur.2 e then t.leave s.cur.1 s.cur.2 e else t

/-- R245: the check of the elements of an instruction of the running strand. -/
def State.checkEls (s : State) (i : Instr) (a : Acc) (align : Nat) : Option (Nat × Word) :=
  s.checkAll s.cur.1 s.ctx.priv a align (memElems s.ctx i)

/-- R258: LD; LD.D in CTRL space reads at once (R246). -/
def execLd (d a : BitVec 5) (z : BitVec 3) (o : BitVec 12) (s : State) : Out :=
  let i : Instr := .ld d a z o
  let ea := s.ctx.ls a z o
  .next (
    if space ea = 0xF then
      match s.checkEls i { accLd with ctrl := z == 3 } 8 with
      | some (n, ea) => s.trap (memCause n 0) ea
      | none => s.retire 4 (s.ctx.setX d (s.ctrlRead s.cur.1 ea))
    else s.issueLoad i (s.checkEls i accLd 1) false)

def execLda (d a : BitVec 5) (z : BitVec 3) (o : BitVec 12) (s : State) : Out :=
  .next (s.issueLoad (.lda d a z o) (s.checkEls (.lda d a z o) accLd (szBytes z)) true)
def execLdfe (d a : BitVec 5) (o : BitVec 12) (s : State) : Out :=
  .next (s.issueLoad (.ldfe d a o) (s.checkEls (.ldfe d a o) accQuay 8) true)
def execLdfeE (d a : BitVec 5) (o : BitVec 12) (s : State) : Out :=
  .next (s.issueLoad (.ldfeE d a o) (s.checkEls (.ldfeE d a o) accQuay 8) true)
def execLdv (d a : BitVec 5) (z : BitVec 3) (o : BitVec 12) (s : State) : Out :=
  .next (s.issueLoad (.ldv d a z o) (s.checkEls (.ldv d a z o) accLd 1) false)
def execLdvs (d a : BitVec 5) (z : BitVec 3) (o : BitVec 12) (s : State) : Out :=
  .next (s.issueLoad (.ldvs d a z o) (s.checkEls (.ldvs d a z o) accLd 1) false)

/-- R262: the check of LDVG and STVX at the base and every element. -/
def State.checkIdx (s : State) (i : Instr) (a : Acc) (base : Word) (z : BitVec 3) : Option (Nat × Word) :=
  s.checkIndexed s.cur.1 s.ctx.priv a base (szBytes z) ((memElems s.ctx i).map Prod.fst)

def execLdvg (d a : BitVec 5) (z : BitVec 3) (o : BitVec 12) (s : State) : Out :=
  .next (s.issueLoad (.ldvg d a z o) (s.checkIdx (.ldvg d a z o) accLd (s.ctx.ls a z o) z) false)

/-- The data of an entry's responses, in order. -/
def respData (ps : List Resp) : List Byte := ps.flatMap fun p => match p with | .done d => d | _ => []

/-- The first fault among responses. -/
def respFault (ps : List Resp) : Option (Nat × Word) := ps.findSome? fun p => match p with | .fault n ea => some (n, ea) | _ => none

/-- LOAD_RETURN: R252: an outstanding load leaves once nothing holds it back, or its responses return: it writes its result, or traps. -/
def State.loadReturn (s : State) (c : CoreId) (t : Fin 4) (seq : Nat) : State :=
  match (s.strand c t).loads.find? fun e => e.seq == seq with
  | none => s
  | some e =>
    if e.phase == 0 then if s.mayLeave c t e then s.leave c t e else s
    else if e.parts.contains .pending then
      if (s.strand c t).hold == some seq && s.parks.any fun r => r.core == c && r.strand == t && r.seq == seq then s.modStrand c t fun x => x.setSt true
      else s
    else
      match respFault e.parts with
      | some (n, ea) => s.faultAt c t e (memCause n 0) ea
      | none => s.finish c t seq (loadWrite e.instr (respData e.parts))

def execLoadReturn (core strand seq : Nat) (s : State) : Out := .next (s.loadReturn core (Fin.ofNat 4 strand) seq)

/-! ## Stores (R258 to R262) -/

/-- R258, R262: the data of a store's elements. -/
def storeData (x : Ctx) : Instr → List (List Byte)
  | .st d _ z _ => [if z = 4 then leBytes (x.getX d).toNat 8 ++ leBytes (x.getX (d + 1)).toNat 8 else leBytes (x.getX d).toNat (szBytes z)]
  | .stl d _ z _ => [leBytes (x.getX d).toNat (szBytes z)]
  | .stfe d _ _ => [leBytes (x.getX d).toNat 8]
  | .stfeF d _ _ => [leBytes (x.getX d).toNat 8]
  | .stv d _ z _ => [leBytes (x.getV d).toNat (vecBytes z)]
  | .stvs d _ z _ => (List.range (64 / szBytes z)).map fun e => leBytes (elem (x.getV d).toNat (8 * szBytes z) e) (szBytes z)
  | .stvx d _ z _ => (List.range 16).map fun k => leBytes (elem (x.getV d).toNat 32 k) (szBytes z)
  | _ => []

/-- R245, R276: a store of the running strand enters the store queue, or traps. -/
def State.issueStore (s : State) (i : Instr) (bad : Option (Nat × Word)) (hold : Bool) : State :=
  match bad with
  | some (n, ea) => s.trap (memCause n 0) ea
  | none => if s.pbcOver i then s.trap (memCause 11 0) 0 else s.queue i 4 hold

/-- R258: ST; ST.D in CTRL space is performed before the next instruction issues (R246). -/
def execSt (d a : BitVec 5) (z : BitVec 3) (o : BitVec 12) (s : State) : Out :=
  let i : Instr := .st d a z o
  .next (if space (s.ctx.ls a z o) = 0xF then s.issueStore i (s.checkEls i { accSt with ctrl := z == 3 } 8) true
         else s.issueStore i (s.checkEls i accSt 1) false)
def execStl (d a : BitVec 5) (z : BitVec 3) (o : BitVec 12) (s : State) : Out :=
  .next (s.issueStore (.stl d a z o) (s.checkEls (.stl d a z o) accSt (szBytes z)) false)
def execStfe (d a : BitVec 5) (o : BitVec 12) (s : State) : Out :=
  .next (s.issueStore (.stfe d a o) (s.checkEls (.stfe d a o) accQuay 8) false)
def execStfeF (d a : BitVec 5) (o : BitVec 12) (s : State) : Out :=
  .next (s.issueStore (.stfeF d a o) (s.checkEls (.stfeF d a o) accQuay 8) false)
def execStv (d a : BitVec 5) (z : BitVec 3) (o : BitVec 12) (s : State) : Out :=
  .next (s.issueStore (.stv d a z o) (s.checkEls (.stv d a z o) accSt 1) false)
def execStvs (d a : BitVec 5) (z : BitVec 3) (o : BitVec 12) (s : State) : Out :=
  .next (s.issueStore (.stvs d a z o) (s.checkEls (.stvs d a z o) accSt 1) false)
def execStvx (d a : BitVec 5) (z : BitVec 3) (o : BitVec 12) (s : State) : Out :=
  .next (s.issueStore (.stvx d a z o) (s.checkIdx (.stvx d a z o) accSt (s.ctx.ls a z o) z) false)

/-- One element of a store leaves the strand: a near store is performed, a vault store sends one request per event. -/
def State.storeOne (s : State) (c : CoreId) (t : Fin 4) (seq : Nat) (ea : Word) (data : List Byte) : State :=
  match s.place c ea with
  | .near o => s.modCore c fun k => k.nearWrite o data t.1
  | .vault h off =>
    (events off data.length 18).foldl (fun s (o, m) =>
      s.sendWrite c t (s.mkReq c t seq 0 ea h o m (.store ((data.drop (o - off)).take m)) false m)) s
  | _ => s

def State.storeAll (s : State) (c : CoreId) (t : Fin 4) (e : Entry) : State :=
  (List.zip (memElems e.snap e.instr) (storeData e.snap e.instr)).foldl (fun s (p, d) => s.storeOne c t e.seq p.1 d) s

/-- R252: ST, STV, STVS and STVX leave the store queue. -/
def State.relStore (s : State) (c : CoreId) (t : Fin 4) (e : Entry) : State := (s.storeAll c t e).finish c t e.seq id

def State.relSt (s : State) (c : CoreId) (t : Fin 4) (e : Entry) (d a : BitVec 5) (z : BitVec 3) (o : BitVec 12) : State :=
  let ea := e.snap.ls a z o
  if space ea = 0xF then (s.ctrlWrite c t ea (e.snap.getX d)).finish c t e.seq id else s.relStore c t e

/-- R259, R471: STL leaves as a release at scope .D, with the deferred faults that have returned. -/
def State.relStl (s : State) (c : CoreId) (t : Fin 4) (e : Entry) : Option State :=
  if !s.released c t e.seq 2 then none
  else match s.takeFaults c t e getsStore with
    | some s => some s
    | none => some (s.relStore c t e)

/-- The FE request of STFE. -/
def State.stfeSend (s : State) (c : CoreId) (t : Fin 4) (e : Entry) (d a : BitVec 5) (o : BitVec 12) (wait : Bool) : State :=
  let ea := e.snap.ls a 3 o
  match s.place c ea with
  | .vault h off => s.sendWrite c t (s.mkReq c t e.seq 0 ea h off 8 (.stfe wait (e.snap.getX d)) false 8)
  | _ => s

/-- R260: STFE leaves as a release at scope .D and stays at the head of the queue until it has been performed; a fault at its quay ends the
wait and traps at the STFE itself (log 17). -/
def State.relStfe (s : State) (c : CoreId) (t : Fin 4) (e : Entry) (d a : BitVec 5) (o : BitVec 12) : Option State :=
  if e.phase == 0 then
    if !s.released c t e.seq 2 then none
    else match s.takeFaults c t e getsStore with
      | some s => some s
      | none => some (setEntry (s.stfeSend c t e d a o true) c t e.seq fun e => { e with phase := 1 })
  else
    match e.parts with
    | .done _ :: _ => some (s.finish c t e.seq id)
    | .fault n ea :: _ => some (s.faultAt c t e (memCause n 0) ea)
    | _ => none

/-- R260: STFE.F leaves as a release at scope .D. -/
def State.relStfeF (s : State) (c : CoreId) (t : Fin 4) (e : Entry) (d a : BitVec 5) (o : BitVec 12) : Option State :=
  if !s.released c t e.seq 2 then none
  else match s.takeFaults c t e getsStore with
    | some s => some s
    | none => some ((s.stfeSend c t e d a o false).finish c t e.seq id)

/-! ## Atomics (R263 to R265) -/

/-- R263, R264: address and quay operation of AMO and CAS. -/
def atomicOp (x : Ctx) : Instr → Option (Word × Nat × ReqOp)
  | .amoAdd _ a b z => some (x.getX a, szBytes z, .amo 0 z.toNat (x.getX b))
  | .amoSub _ a b z => some (x.getX a, szBytes z, .amo 1 z.toNat (x.getX b))
  | .amoAnd _ a b z => some (x.getX a, szBytes z, .amo 2 z.toNat (x.getX b))
  | .amoOr _ a b z => some (x.getX a, szBytes z, .amo 3 z.toNat (x.getX b))
  | .amoXor _ a b z => some (x.getX a, szBytes z, .amo 4 z.toNat (x.getX b))
  | .amoMin _ a b z => some (x.getX a, szBytes z, .amo 5 z.toNat (x.getX b))
  | .amoMax _ a b z => some (x.getX a, szBytes z, .amo 6 z.toNat (x.getX b))
  | .amoMinu _ a b z => some (x.getX a, szBytes z, .amo 7 z.toNat (x.getX b))
  | .amoMaxu _ a b z => some (x.getX a, szBytes z, .amo 8 z.toNat (x.getX b))
  | .amoSwap _ a b z => some (x.getX a, szBytes z, .amo 9 z.toNat (x.getX b))
  | .amoAddsat _ a b z => some (x.getX a, szBytes z, .amo 10 z.toNat (x.getX b))
  | .amoFadd _ a b z => some (x.getX a, szBytes z, .amo 11 z.toNat (x.getX b))
  | .amoBfadd _ a b z => some (x.getX a, szBytes z, .amo 12 z.toNat (x.getX b))
  | .cas _ a b c z => some (x.getX a, szBytes z, .cas z.toNat (x.getX b) (x.getX c))
  | .amov a b g t => some (x.getX a, 64, .amov (x.getP g) t (x.getV b))
  | .amovR _ a b g t => some (x.getX a, 64, .amov (x.getP g) t (x.getV b))
  | _ => none

/-- R263: an atomic of the running strand enters the store queue, aligned to `align`. -/
def State.issueAtomic (s : State) (i : Instr) (align : Nat) : State := s.issueStore i (s.checkEls i accQuay align) false

def execAmoAdd (d a b : BitVec 5) (z : BitVec 3) (s : State) : Out := .next (s.issueAtomic (.amoAdd d a b z) (szBytes z))
def execAmoSub (d a b : BitVec 5) (z : BitVec 3) (s : State) : Out := .next (s.issueAtomic (.amoSub d a b z) (szBytes z))
def execAmoAnd (d a b : BitVec 5) (z : BitVec 3) (s : State) : Out := .next (s.issueAtomic (.amoAnd d a b z) (szBytes z))
def execAmoOr (d a b : BitVec 5) (z : BitVec 3) (s : State) : Out := .next (s.issueAtomic (.amoOr d a b z) (szBytes z))
def execAmoXor (d a b : BitVec 5) (z : BitVec 3) (s : State) : Out := .next (s.issueAtomic (.amoXor d a b z) (szBytes z))
def execAmoMin (d a b : BitVec 5) (z : BitVec 3) (s : State) : Out := .next (s.issueAtomic (.amoMin d a b z) (szBytes z))
def execAmoMax (d a b : BitVec 5) (z : BitVec 3) (s : State) : Out := .next (s.issueAtomic (.amoMax d a b z) (szBytes z))
def execAmoMinu (d a b : BitVec 5) (z : BitVec 3) (s : State) : Out := .next (s.issueAtomic (.amoMinu d a b z) (szBytes z))
def execAmoMaxu (d a b : BitVec 5) (z : BitVec 3) (s : State) : Out := .next (s.issueAtomic (.amoMaxu d a b z) (szBytes z))
def execAmoSwap (d a b : BitVec 5) (z : BitVec 3) (s : State) : Out := .next (s.issueAtomic (.amoSwap d a b z) (szBytes z))
def execAmoAddsat (d a b : BitVec 5) (z : BitVec 3) (s : State) : Out := .next (s.issueAtomic (.amoAddsat d a b z) (szBytes z))
def execAmoFadd (d a b : BitVec 5) (z : BitVec 3) (s : State) : Out := .next (s.issueAtomic (.amoFadd d a b z) (szBytes z))
def execAmoBfadd (d a b : BitVec 5) (z : BitVec 3) (s : State) : Out := .next (s.issueAtomic (.amoBfadd d a b z) (szBytes z))
def execCas (d a b c : BitVec 5) (z : BitVec 3) (s : State) : Out := .next (s.issueAtomic (.cas d a b c z) (szBytes z))
def execAmov (a b : BitVec 5) (g t : BitVec 3) (s : State) : Out := .next (s.issueAtomic (.amov a b g t) 64)
def execAmovR (d a b : BitVec 5) (g t : BitVec 3) (s : State) : Out := .next (s.issueAtomic (.amovR d a b g t) 64)

/-- R252, R263: an atomic leaves the store queue: posted, or as an outstanding load. -/
def State.relAtomic (s : State) (c : CoreId) (t : Fin 4) (e : Entry) (posted : Bool) : State :=
  match atomicOp e.snap e.instr with
  | none => s
  | some (ea, n, op) =>
    let (h, o) := s.vaultAt c ea
    if posted then (s.sendWrite c t (s.mkReq c t e.seq 0 ea h o n op false n)).finish c t e.seq id
    else s.toLoads c t e (s.mkReq c t e.seq 0 ea h o n op true n)

/-! ## Semaphores (R266) -/

def execSemi (n b : BitVec 5) (s : State) : Out := .next (s.queue (.semi n b) 4 false)
def execSemw (n b : BitVec 5) (s : State) : Out := .next (s.queue (.semw n b) 4 true)
def execSemt (d n b : BitVec 5) (s : State) : Out := .next (s.queue (.semt d n b) 4 true)
def execSems (d n b : BitVec 5) (s : State) : Out := .next (s.queue (.sems d n b) 4 false)

/-- R266: n of SEMI, SEMW and SEMT. -/
def semAmount (x : Ctx) (b : BitVec 5) : Nat := if b = 0 then 1 else (x.getX b).toNat % 2^32

def Core.sem (k : Core) (n : BitVec 5) : Nat := (vget k.sems n.toNat).toNat
def Core.setSem (k : Core) (n : BitVec 5) (v : Nat) : Core := { k with sems := vset k.sems n.toNat (BitVec.ofNat 32 v) }

/-- R266: SEMI, a release at scope .C. -/
def State.relSemi (s : State) (c : CoreId) (t : Fin 4) (e : Entry) (n b : BitVec 5) : Option State :=
  let v := (s.core c).sem n + semAmount e.snap b
  if !s.released c t e.seq 0 then none
  else if 2^32 ≤ v then some (s.faultAt c t e (msgCause 6 0) 0)
  else some (((s.modCore c fun k => k.setSem n v).signal c 2 none).finish c t e.seq id)

/-- R471: what SEMW and SEMT on semaphore n receive. -/
def getsSem (n : BitVec 5) (f : PFault) : Bool := f.cmd && f.strt && f.sv && f.sem.toNat == n.toNat && f.here

/-- R266: no waiter on a semaphore stands before strand t. -/
def Core.semFirst (k : Core) (n : BitVec 5) (t : Option (Fin 4)) : Bool :=
  match k.semWait.find? fun w => w.1 == n.toNat with
  | some w => t == some w.2
  | none => true

/-- R266: SEMW is granted, or waits in its place. -/
def State.relSemw (s : State) (c : CoreId) (t : Fin 4) (e : Entry) (n b : BitVec 5) : Option State :=
  let k := s.core c
  let a := semAmount e.snap b
  if a ≤ k.sem n && k.semFirst n (some t) then
    let s := s.modCore c fun k => { k with semWait := k.semWait.filter fun w => w != (n.toNat, t) }
    match s.takeFaults c t e (getsSem n) with
    | some s => some s
    | none => some ((s.modCore c fun k => k.setSem n (k.sem n - a)).finish c t e.seq id)
  else if k.semWait.contains (n.toNat, t) then none
  else some ((s.modCore c fun k => { k with semWait := k.semWait ++ [(n.toNat, t)] }).modStrand c t fun x => x.setSt true)

/-- R266: SEMT. -/
def State.relSemt (s : State) (c : CoreId) (t : Fin 4) (e : Entry) (d n b : BitVec 5) : State :=
  match s.takeFaults c t e (getsSem n) with
  | some s => s
  | none =>
    let k := s.core c
    let a := semAmount e.snap b
    if a ≤ k.sem n && k.semFirst n none then (s.modCore c fun k => k.setSem n (k.sem n - a)).finish c t e.seq fun x => x.setX d 1
    else s.finish c t e.seq fun x => x.setX d 0

/-- R266: SEMS. -/
def State.relSems (s : State) (c : CoreId) (t : Fin 4) (e : Entry) (d n b : BitVec 5) : State :=
  let old := (s.core c).sem n
  (s.modCore c fun k => k.setSem n ((e.snap.getX b).toNat % 2^32)).finish c t e.seq fun x => x.setX d (BitVec.ofNat 64 old)

/-! ## FECLR, FESET (R267) -/

/-- R267: the checks of FECLR and FESET: the count first (log 115), then the words' rows of R245; the range rows only where there are words, and
their TVAL is the first word beyond. -/
def State.issueFe (s : State) (i : Instr) (a b : BitVec 5) : State :=
  let n := (s.ctx.getX b).toNat
  let ea := s.ctx.getX a
  if 4096 < n then s.illegal i cILL_FIELD
  else
    let bad := s.check s.cur.1 s.ctx.priv accQuay ea (8 * n) 8 (n ≠ 0)
    s.issueStore i (bad.map fun k => (k, if k == 4 then ea + BitVec.ofNat 64 ((0x80000 - vaultOff ea) / 8 * 8) else ea)) false

def execFeclr (a b : BitVec 5) (s : State) : Out := .next (s.issueFe (.feclr a b) a b)
def execFeset (a b : BitVec 5) (s : State) : Out := .next (s.issueFe (.feset a b) a b)

/-- R267: each word is its own event. -/
def State.relFe (s : State) (c : CoreId) (t : Fin 4) (e : Entry) (op : ReqOp) : State :=
  ((memElems e.snap e.instr).foldl (fun s (ea, _) =>
    match s.place c ea with
    | .vault h o => s.sendWrite c t (s.mkReq c t e.seq 0 ea h o 8 op false 8)
    | _ => s) s).finish c t e.seq id

end Sys2Proof.Machine
end

