-- ==== Sys2Proof/Machine/Ordering.lean ====
section
/-!
DEFINITION. FENCE, PBWAIT and RDPB (R285 to R288).
-/
namespace Sys2Proof.Machine

def execFence (sc : BitVec 2) (e f r q : Bool) (s : State) : Out := .next (s.queue (.fence sc e f r q) 4 (fenceAcq e f r q))
def execPbwait (a : BitVec 5) (f : Bool) (s : State) : Out := .next (s.queue (.pbwait a f) 4 false)
def execRdpb (d : BitVec 5) (sel : BitVec 2) (s : State) : Out := .next (s.queue (.rdpb d sel) 4 false)

/-- R281: an engine command of the strand issued before instruction `seq` has not completed. -/
def State.engineBusy (s : State) (c : CoreId) (t : Fin 4) (seq : Nat) : Bool :=
  ((s.core c).bulk.any fun m => m.strand == t && m.seq < seq) || s.fars.any fun m => m.core == c && m.strand == t && m.seq < seq

/-- R471: what a fence receives. -/
def getsFence (e f : Bool) (p : PFault) : Bool := !p.cmd || e || (f && p.farw)

/-- R285, R286: a fence completes, or traps. -/
def State.relFence (s : State) (c : CoreId) (t : Fin 4) (en : Entry) (sc : BitVec 2) (e f r q : Bool) : Option State :=
  let rel := fenceRel e f r q
  let x := s.strand c t
  if (rel && !s.released c t en.seq sc.toNat) || (f && x.fpbc ≠ 0) || (e && s.engineBusy c t en.seq) then none
  else
    match (if rel || f || e then s.takeFaults c t en (getsFence e f) else none) with
    | some s => some s
    | none => some ((if rel then s.modCore c fun k => k.settle t.1 else s).finish c t en.seq id)

/-- R287, R471: PBWAIT. -/
def State.relPbwait (s : State) (c : CoreId) (t : Fin 4) (e : Entry) (a : BitVec 5) (f : Bool) : Option State :=
  let x := s.strand c t
  let th := (e.snap.getX a).toNat
  if (if f then x.fpbc else x.pbc) ≤ th && (f || th ≠ 0 || s.released c t e.seq 2) then
    match s.takeFaults c t e (getsFence false f) with
    | some s => some s
    | none => some (s.finish c t e.seq id)
  else none

/-- R287: RDPB. -/
def State.relRdpb (s : State) (c : CoreId) (t : Fin 4) (e : Entry) (d : BitVec 5) (sel : BitVec 2) : State :=
  let x := s.strand c t
  let n := match sel.toNat with | 0 => x.pbc | 1 => x.fpbc | 2 => x.xpb | _ => x.spb
  s.finish c t e.seq fun x => x.setX d (BitVec.ofNat 64 n)

end Sys2Proof.Machine
end

