-- ==== Sys2Proof/Machine/Release.lean ====
section
/-!
DEFINITION. STORE_QUEUE_RELEASE (R252): the oldest entry of a strand's store queue does what its instruction does there, by the `rel…`
operations of the instruction's own family; and what a hold takes back there (R268, R402).
-/
namespace Sys2Proof.Machine

/-- What the head entry of a store queue does now; nothing while it waits. -/
def State.perform (s : State) (c : CoreId) (t : Fin 4) (e : Entry) : Option State :=
  let x := e.snap
  match e.instr with
  | .st d a z o => some (s.relSt c t e d a z o)
  | .stv _ _ _ _ | .stvs _ _ _ _ | .stvx _ _ _ _ => some (s.relStore c t e)
  | .stl _ _ _ _ => s.relStl c t e
  | .stfe d a o => s.relStfe c t e d a o
  | .stfeF d a o => s.relStfeF c t e d a o
  | .amoAdd d _ _ _ | .amoSub d _ _ _ | .amoAnd d _ _ _ | .amoOr d _ _ _ | .amoXor d _ _ _ | .amoMin d _ _ _ | .amoMax d _ _ _
  | .amoMinu d _ _ _ | .amoMaxu d _ _ _ | .amoSwap d _ _ _ | .amoAddsat d _ _ _ | .amoFadd d _ _ _ | .amoBfadd d _ _ _ =>
    some (s.relAtomic c t e (d == 0))
  | .cas d _ _ _ _ => some (s.relAtomic c t e (d == 0))
  | .amov _ _ _ _ => some (s.relAtomic c t e true)
  | .amovR _ _ _ _ _ => some (s.relAtomic c t e false)
  | .fence sc ee f r q => s.relFence c t e sc ee f r q
  | .pbwait a f => s.relPbwait c t e a f
  | .rdpb d n => some (s.relRdpb c t e d n)
  | .semi n b => s.relSemi c t e n b
  | .semw n b => s.relSemw c t e n b
  | .semt d n b => some (s.relSemt c t e d n b)
  | .sems d n b => some (s.relSems c t e d n b)
  | .feclr _ _ => some (s.relFe c t e .fecl)
  | .feset _ _ => some (s.relFe c t e .fese)
  | .bcopy d a b bc fe cc sem sv vs => s.relBulk c t e 0 d a b cc bc fe sem sv vs
  | .bfill d a b bc fe cc sem sv vs => s.relBulk c t e 1 d a b cc bc fe sem sv vs
  | .bstride d a b fe cc sem sv => s.relBulk c t e 2 d a b cc false fe sem sv 0
  | .fmget a o => s.relFm c t e 0 a o
  | .fmput a o => s.relFm c t e 1 a o
  | .fmgath a o => s.relFm c t e 2 a o
  | .fmscat a o => s.relFm c t e 3 a o
  | .vflip a b sem sv => s.relVflip c t e a b sem sv
  | .satt d a b => if attRole (e.snap.getX a) == 2 && s.away c c then none else some (s.relSatt c t e d a b)
  | .sdet d a => s.relSdet c t e d a
  | .spush v a h => s.relSpush c t e v a h
  | .spull v a d h => s.relSpull c t e v a d h
  | .smark a b n => s.relSmark c t e a b n
  | .send _ a b cc ee tag _ => s.relSend c t e tag (payload4 (x.getX a) (x.getX b) (x.getX cc) (x.getX ee))
  | .sendv _ a tag _ => s.relSend c t e tag (x.getV a)
  | .recv d a b cc ee tag => s.relRecv c t e tag (recvWrite d a b cc ee)
  | .recvv d a tag => s.relRecv c t e tag (recvvWrite d a)
  | .peek d a tag => some (s.relPeek c t e d a tag)
  | .tflush d tag => some (s.relTflush c t e d tag)
  | .hset u st a tag => some (s.relHset c t e tag (some (bindingOf x u st a)))
  | .hsetClr tag => some (s.relHset c t e tag none)
  | .hmask d a => some (s.relHmask c t e d a)
  | .bmask d a => some (s.relBmask c t e d a)
  | .barv d n r => s.relBarv c t e d n r
  | .barw n b => s.relBarw c t e n b
  | .bart d n b => some (s.relBart c t e d n b)
  | .fork d a b => s.relFork c t e d a b
  | .join a => some (s.relJoin c t e a)
  | .tpop d => s.relTpop c t e d
  | .tpopS d b => s.relTpopS c t e d b
  | .steal _ _ => s.relSteal c t e
  | .tdone a => s.relTdone c t e a
  | .tdoneK a => s.relTdoneK c t e a
  | .preq d => s.relPreq c t e d
  | .chart d a => s.relChart c t e d a
  | _ => none

/-- R122: an instruction that leaves its strand WAITING while it waits at the head of the store queue; a BARV does where it finds its arrival
still pending (R307). -/
def Core.blocks (k : Core) : Instr → Bool
  | .fence _ _ _ _ _ | .pbwait _ _ | .stfe _ _ _ | .recv _ _ _ _ _ _ | .recvv _ _ _ | .barw _ _ | .semw _ _ | .tpopS _ _ | .steal _ _
  | .tdone _ | .preq _ | .chart _ _ => true
  | .barv _ n _ => k.arrived.getLsbD n.toNat
  | _ => false

/-- R59: the entry would send an access to a home to which the strand must not issue after RETRY. -/
def State.heldBack (s : State) (c : CoreId) (t : Fin 4) (e : Entry) : Bool := s.retrying c t e.seq (s.places c e.snap e.instr)

/-- The requests of an instruction on their way or parked. -/
def State.reqsOf (s : State) (c : CoreId) (t : Fin 4) (seq : Nat) : List Req :=
  (s.net ++ s.parks).filter fun r => r.core == c && r.strand == t && r.seq == seq

/-- R268: every request of an instruction waits at its quay, or was turned away with FE_BUSY. -/
def State.parkedOnly (s : State) (c : CoreId) (t : Fin 4) (seq : Nat) : Bool :=
  let rs := s.reqsOf c t seq
  !rs.isEmpty && rs.all fun r => s.parks.any (fun p => p.id == r.id) || (match r.st with | .busy _ => true | _ => false)

/-- R268, R402: an instruction is cancelled with nothing performed: its parked accesses are taken back, younger instructions with it, and
it is to be re-executed. -/
def State.cancel (s : State) (c : CoreId) (t : Fin 4) (e : Entry) : State :=
  let rs := s.reqsOf c t e.seq
  let out (r : Req) : Bool := !(rs.any fun q => q.id == r.id)
  let s := { s with net := s.net.filter out, parks := s.parks.filter out }
  s.modStrand c t fun x =>
    let x := rs.foldl (fun (x : Strand) r => if r.toLoad then x else
      { x with pbc := x.pbc - r.pbc, spb := if r.spb then x.spb - r.pbc else x.spb, xpb := if r.xpb then x.xpb - r.pbc else x.xpb }) x
    let x := if e.phase ≠ 0 && storesBytes e.instr && !rs.isEmpty && rs.all (·.toLoad) then x.uncount e.aux.toNat else x
    let x := if (match e.instr with | .tdone _ => e.phase != 0 | _ => false) then { x with joined := true } else x
    { x with ctx := e.snap, lost := e.lost, loads := x.loads.filter (·.seq < e.seq), sq := x.sq.filter (·.seq < e.seq), wait := none, hold := none,
             reexec := true }.setSt true

/-- R241, R268: an instruction stands behind work of its strand that the matrix unit does not start while the core is stopped, or goes on with
only after it (log 123). -/
def State.unitStuck (s : State) (c : CoreId) (t : Fin 4) (seq : Nat) : Bool :=
  (s.core c).stopped && (s.core c).unitq.any fun u =>
    u.strand == t && u.seq < seq && u.beats.isEmpty && (unitWrites u.instr || !(s.inFlight c u).isEmpty)

/-- R272: an instruction has not begun to perform and stands behind operand reads of the matrix unit, which a store-queue entry waits for. -/
def State.behindReads (s : State) (c : CoreId) (t : Fin 4) (e : Entry) : Bool := e.phase == 0 && s.operandsLeft c t e.seq

/-- R355, R402: a head entry is one that cannot leave during a hold, has performed nothing, and has nothing under way (TPOP.S may have a request
out, whose reply goes to the deque, R321; a TDONE may have sent its decrement). What only waits for acknowledgements completes. What waits for
room that nothing makes during a hold is one too: a SEND on a full send queue, a command on a full engine, a STEAL that has sent nothing
(log 93); and an entry behind unit work that stays in place (log 123). -/
def State.stuck (s : State) (c : CoreId) (t : Fin 4) (e : Entry) : Bool :=
  (s.behindReads c t e && s.unitStuck c t e.seq) ||
  match e.instr with
  | .recv _ _ _ _ _ _ | .recvv _ _ _ | .barv _ _ _ | .barw _ _ | .semw _ _ | .tpopS _ _ | .fence _ _ _ _ _ | .pbwait _ _ | .chart _ _ => true
  | .steal _ _ | .preq _ | .spush _ _ _ | .smark _ _ _ | .spull _ _ _ _ | .sdet _ _ => e.phase == 0
  | .bcopy _ _ _ _ _ _ _ _ _ | .bfill _ _ _ _ _ _ _ _ _ | .bstride _ _ _ _ _ _ _ => 8 ≤ (s.core c).bulk.length
  | .send _ _ _ _ _ _ _ | .sendv _ _ _ _ => 32 ≤ (s.core c).sendq.length || s.unitStuck c t e.seq
  | .stl _ _ _ _ | .stfeF _ _ _ | .semi _ _ | .tdoneK _ => s.unitStuck c t e.seq
  | .tdone _ =>
    !s.unitLeft c t && (s.reqsOf c t e.seq).isEmpty && !(s.acks.any fun a => a.core == c && a.strand == t && a.seq == e.seq)
      && (e.parts.all fun p => match p with | .done _ => true | _ => false)
  | .stfe _ _ _ => e.phase == 0 || s.parkedOnly c t e.seq
  | _ => false

/-- R252, R402: the stop cancels such an entry, unless its strand has since had an effect that cannot be taken back: it then stays in place over
the hold (log 93). -/
def State.cancels (s : State) (c : CoreId) (t : Fin 4) (e : Entry) : Bool := s.stuck c t e && (s.strand c t).firm ≤ e.seq

/-- R272: what becomes of the oldest entry where it may leave: nothing where it stands behind operand reads or has to wait. -/
def State.leaves (s : State) (c : CoreId) (t : Fin 4) (e : Entry) : Option State :=
  if s.behindReads c t e then none else s.perform c t e

/-- STORE_QUEUE_RELEASE: R252, R272: the oldest entry leaves once every earlier load has returned, operand reads of the matrix unit among
them, or waits. On a stopped core what cannot leave is cancelled (R268, R402); once its hold stands, nothing leaves. -/
def State.release (s : State) (c : CoreId) (t : Fin 4) : State :=
  let x := s.strand c t
  let k := s.core c
  let stopped : Bool := k.stopped && s.exempt c != some t
  match x.sq with
  | [] => s
  | e :: _ =>
    if !x.loadsBack e.seq || s.heldBack c t e || (stopped && (k.saved || s.onHold c)) then s
    else
      match s.leaves c t e with
      | some s => s
      | none =>
        if stopped && s.cancels c t e then s.cancel c t e
        else if k.blocks e.instr && !s.behindReads c t e then
          s.modStrand c t fun x => { x with hold := some (x.hold.getD e.seq) }.setSt true
        else s

def execStoreQueueRelease (core strand : Nat) (s : State) : Out := .next (s.release core (Fin.ofNat 4 strand))

end Sys2Proof.Machine
end

