-- ==== Sys2Proof/Machine/Save.lean ====
section
/-!
DEFINITION. The stop and the save of a pre-empted core (R402, R403, R405, R308): PREEMPT_STOP and PREEMPT_SAVE.
-/
namespace Sys2Proof.Machine

/-- The instruction of a stopped strand that waits now. -/
def State.waitingOf (s : State) (c : CoreId) (t : Fin 4) : Option Entry :=
  let x := s.strand c t
  match x.wait with
  | some e => some e
  | none =>
    match x.loads.find? fun e => x.hold == some e.seq && s.parkedOnly c t e.seq with
    | some e => some e
    | none =>
      match x.sq with
      | e :: _ => if x.loadsBack e.seq && (s.leaves c t e).isNone && s.cancels c t e then some e else none
      | [] => none

/-- PREEMPT_STOP: R402: the request reaches a core: its strands but the exempt one issue nothing more, and those that wait are cancelled; on the
core of the exempt strand, which saves no frame, so are those that come to wait after it. -/
def State.stop (s : State) (c : CoreId) : State :=
  match s.ptnOf c with
  | none => s
  | some q =>
    let again : Bool := (s.core c).stopped
    if !q.pre.saving || (again && (s.exempt c).isNone) || s.away c c then s
    else
      let s := if again then s else s.modCore c fun k => { k with stopped := true, frameOff := k.saveoff }
      let s := [(0 : Fin 4), 1, 2, 3].foldl (fun s t =>
        let x := s.strand c t
        if s.exempt c == some t || !x.waits then s
        else match s.waitingOf c t with
          | some e => s.cancel c t e
          | none => s) s
      s.checkHeld (cPart c) q.slot

def execPreemptStop (core : Nat) (s : State) : Out := .next (s.stop core)

/-- R252, R403: the oldest entry of a strand can neither leave nor be taken back: it stays in place over the hold (log 93). -/
def State.stays (s : State) (c : CoreId) (t : Fin 4) : Bool :=
  let x := s.strand c t
  match x.sq with
  | [] => false
  | e :: _ => x.loadsBack e.seq && e.seq < x.firm && s.stuck c t e && (s.leaves c t e).isNone

/-- R403: strand t has nothing under way: its loads have returned, and its store queue is empty or stuck at an instruction to cancel; or what is
left stands behind an entry that stays. -/
def State.still (s : State) (c : CoreId) (t : Fin 4) : Bool :=
  let x := s.strand c t
  let stays := s.stays c t
  let behind (y : Entry) : Bool := stays && y.phase == 0 && !s.mayLeave c t y
  match s.waitingOf c t with
  | some e => x.loads.all (fun y => y.seq == e.seq || behind y) && (stays || x.sq.all fun y => e.seq ≤ y.seq)
  | none => x.loads.all behind && (stays || x.sq.isEmpty)

/-- R241, R308, R328, R403: a stopped core can save its frame. A message of the Grefiest controller that it has refused is no message in the
mesh: it is tried again after the hold. -/
def State.mayParkFrame (s : State) (c : CoreId) : Bool :=
  s.still c 0 && s.still c 1 && s.still c 2 && s.still c 3 && ((s.core c).unitq.all fun u => u.beats.isEmpty)
    && !(s.steals.any fun r => r.thief == c) && !(s.msgs.any fun m => m.src == c || (m.dest == c && m.src < 2^21)) && !(s.notices.any fun n => n.src == c)

/-- R403, R409: the state that goes into the frame: what waits is cancelled, and the pending faults that do not fit become records. -/
def State.settleStrand (s : State) (c : CoreId) (t : Fin 4) : State :=
  let s := match s.waitingOf c t with
    | some e => s.cancel c t e
    | none => s
  let x := s.strand c t
  let (keep, rest) := x.trimFaults
  let s := rest.foldl (fun s f => s.record c (f.base + 3) (some t) x.ctx.pc f.addr 0) s
  s.modStrand c t fun x => { x with faults := keep.foldl (fun a f => insertFault f a) [] }

/-- The strand once its record is written. -/
def Strand.saved (x : Strand) : Strand := { x with kept := x.faults.map (·.seq), faults := [] }

/-- PREEMPT_SAVE: R403, R405: a stopped core whose strands have nothing under way writes its frame and reports; with a vault that cannot be
reached it writes nothing and sends SAVE_FAULT (log 99). -/
def State.save (s : State) (c : CoreId) : State :=
  match s.ptnOf c with
  | none => s
  | some q =>
    let k := s.core c
    if !q.pre.saving || !k.stopped || k.saved || (s.exempt c).isSome || s.away c c || !s.mayParkFrame c then s
    else
      let s := (((s.settleStrand c 0).settleStrand c 1).settleStrand c 2).settleStrand c 3
      let s := s.modCore c fun k => { k with semWait := [] }
      let fits : Bool := k.frameAt + frameLen ≤ 0x80000 && (s.stops c c).isNone
      let s := if fits then s.engineWrites c k.frameAt (s.frame c) false else s.record c (sysCause 5 3) none 0 0 0
      let s := s.modCore c fun k =>
        { k with saved := true, saveFailed := !fits,
                 strands := #v[(k.strand 0).saved, (k.strand 1).saved, (k.strand 2).saved, (k.strand 3).saved] }
      s.checkHeld (cPart c) q.slot

def execPreemptSave (core : Nat) (s : State) : Out := .next (s.save core)

end Sys2Proof.Machine
end

