-- ==== Sys2Proof/Machine/Issue.lean ====
section
/-!
DEFINITION. The fetch of an instruction (R72 steps 1 to 8, R77 to R80, R389), the registers an instruction reads and writes, and when a
strand's next instruction is eligible (R131, R221, R222, R236, R252, R472).
-/
namespace Sys2Proof.Machine

/-! ## Fetch -/

/-- The outcome of a fetch: a trap with its cause and TVAL, or an instruction. -/
inductive Fetched where
  | trap (cause : Nat) (tval : Word)
  | instr (i : Instr)

/-- R72 steps 1 to 4 on the word at an address, which the extension word's trap names too (R73). -/
def Core.fetchTrap (k : Core) (a : Word) : Option (Nat × Word) :=
  if a.toNat % 4 ≠ 0 then some (0x00A, a)
  else if 0x10000 ≤ a.toNat then some (0x00B, a)
  else if !k.execLine (a.toNat / 64) then some (0x00C, BitVec.ofNat 64 (a.toNat / 64 * 64))
  else if (k.nearBad a.toNat 4).isSome then some (0x00D, a)
  else none

/-- R79: the word at a near offset before the stores `later`, which a fetch need not see yet. -/
def Core.oldWord (k : Core) (later : List (Nat × List Host.Cell)) (o : Nat) : Nat :=
  leNat ((List.range 4).map fun n =>
    match later.findSome? fun q => q.2.find? fun b => b.1 == o + n with | some b => b.2 | none => k.near.read (o + n))

/-- R79: some byte of the word at a near offset has been stored and may not be seen yet. -/
def Core.unsettled (k : Core) (o : Nat) : Bool := k.stale.any fun q => q.2.any fun b => o ≤ b.1 && b.1 < o + 4

/-- R79: the word a fetch sees; of an unsettled one it sees as many of the stores, in their order, as free value n decides. -/
def Core.fetchWord (k : Core) (o n : Nat) : Nat :=
  if k.unsettled o then k.oldWord (k.stale.drop (Config.freeNat n % (k.stale.length + 1))) o else k.near.le o 4

/-- Cause code of a decoding refusal (R392). -/
def illCause : Ill → Nat
  | .zeroWord => 0
  | .onesWord => 1
  | .major => 2
  | .function => 3
  | .field => 4
  | .type => 5
  | .pairOdd => 6
  | .pairZero => 7
  | .truncated => 4

/-- R72 steps 5 to 11 on the words fetched; TVAL as R73. -/
def decoded (w w1 : Nat) : Fetched :=
  let tval : Word := BitVec.ofNat 64 (w + w1 * 2^32)
  match identify w w1 with
  | .error e => .trap (illCause e) tval
  | .ok i =>
    match check i with
    | some e => .trap (illCause e) tval
    | none => .instr i

/-- R72: what a strand of a core fetches at a PC; free values n and n + 1 decide unsettled words. -/
def Core.fetch (k : Core) (pc : Word) (n : Nat) : Fetched :=
  match k.fetchTrap pc with
  | some (c, v) => .trap c v
  | none =>
    let w := k.fetchWord pc.toNat n
    let major := w / 2^25 % 2^7
    if longMajor major then
      match k.fetchTrap (pc + 4) with
      | some (c, v) => .trap c v
      | none => decoded w (k.fetchWord (pc.toNat + 4) (n + 1))
    else decoded w 0

/-! ## Eligibility -/

/-- R222: an instruction that enters the matrix unit's queue. -/
def entersUnit : Instr → Bool
  | .mzero _ | .mld _ | .mma _ _ _ _ _ _ | .mdrain _ _ _ _ _ _ _ _ _ | .mxpq _ _ _ _ => true
  | _ => false

/-- R252: an instruction whose effect cannot be taken back: not eligible while an older load is outstanding. ERET.P, which resumes the
partition, is one too (log 113). -/
def heldByLoads : Instr → Bool
  | .spawn _ _ _ _ _ | .atake _ _ | .agive _ | .eretP => true
  | i => entersUnit i

/-- R252: an instruction that waits in the store queue: of majors 0x29 to 0x38 but the loads, 0x58 to 0x5A and 0x60 to 0x64, PREQ and
CHART. -/
def entersQueue : Instr → Bool
  | .hret => false
  | .preq _ | .chart _ _ => true
  | .ld _ _ _ _ | .lda _ _ _ _ | .ldfe _ _ _ | .ldfeE _ _ _ | .ldv _ _ _ _ | .ldvs _ _ _ _ | .ldvg _ _ _ _ => false
  | i =>
    match encode i with
    | some (_, w) =>
      let m := w / 2^25 % 2^7
      (0x29 ≤ m && m ≤ 0x38) || (0x58 ≤ m && m ≤ 0x5A) || (0x60 ≤ m && m ≤ 0x64)
    | none => false

/-- R237, R240: the accumulator a unit instruction names. -/
def accOf : Instr → Option Nat
  | .mzero a => some a.toNat
  | .mma t _ _ _ _ _ => some t.toNat
  | .mdrain t _ _ _ _ _ _ _ _ => some t.toNat
  | _ => none

/-- An instruction whose control register is c. -/
def csrOf : Instr → Option Nat
  | .csrrd _ c | .csrwr _ c => some c.toNat
  | .csrxch _ _ c => some c.toNat
  | _ => none

/-- R131, R252: no instruction that the strand has issued and that is still outstanding writes a register of `rs`. -/
def Strand.clear (x : Strand) (rs : List Nat) : Bool :=
  (x.loads ++ x.sq).all fun e => (writesOf e.instr).all fun r => !(rs.contains r)

/-- R252, R472: no load or instruction that can take a fault is outstanding. -/
def Strand.noLoads (x : Strand) : Bool := x.loads.isEmpty && x.sq.all fun e => !countsLoad e.instr && !canTakeFault e.instr

/-- R131, R135, R137: strand t of core c may issue an instruction. -/
def State.mayIssue (s : State) (c : CoreId) (t : Fin 4) : Bool :=
  let x := s.strand c t
  (x.st == .ready || x.st == .handler) && x.hold.isNone && x.wake.isNone && !s.halted c t

/-- R131: the next instruction i of strand t of core c may issue. -/
def State.eligible (s : State) (c : CoreId) (t : Fin 4) (i : Instr) : Bool :=
  let k := s.core c
  let x := k.strand t
  s.mayIssue c t && x.clear (readsOf i)
    && (!countsLoad i || ((x.loads ++ x.sq).filter fun e => countsLoad e.instr).length < 8)
    && (!entersQueue i || x.sq.length < 16)
    && (!heldByLoads i || x.noLoads)
    && (!entersUnit i || (k.unitq.filter fun u => !u.executing).length < 2)
    && (match i with | .agive a => !(k.unitq.any fun u => u.strand == t && accOf u.instr == some a.toNat) | _ => true)
    && (csrOf i != some 2 || !(k.unitq.any fun u => u.strand == t))
    && (!storesBytes i || !s.interlocked c (s.places c x.ctx i))

/-! ## The issue selector (R130 to R134) -/

/-- The major of an instruction. -/
def majorOf (i : Instr) : Nat := match encode i with | some (_, w) => w / 2^25 % 2^7 | none => 0

/-- R130: the pipe of an instruction: 0 scalar, 1 vector, 2 matrix, 3 memory and messages. -/
def pipeOf (i : Instr) : Nat :=
  let m := majorOf i
  if 0x40 ≤ m && m ≤ 0x48 then 1 else if 0x50 ≤ m && m ≤ 0x55 then 2
  else if (0x28 ≤ m && m ≤ 0x38) || (0x58 ≤ m && m ≤ 0x5A) || (0x60 ≤ m && m ≤ 0x64) then 3 else 0

/-- R134: kinds of instruction after which no second one of the strand issues in the cycle. -/
def endsCycle (i : Instr) : Bool :=
  let m := majorOf i
  m == 0x65 || m == 0x70 || (csrOf i).isSome ||
    (match i with
      | .beq _ _ _ | .bne _ _ _ | .blt _ _ _ | .bge _ _ _ | .bltu _ _ _ | .bgeu _ _ _ | .j _ | .jal _ | .jalr _ _ _ | .loop _ _ _
      | .loopq _ _ _ _ _ => true
      | _ => false)

/-- R114: whether rounding code r, or MODE's own, is SR for a strand with registers c. -/
def Ctx.roundsSr (c : Ctx) (r : BitVec 3) : Bool := rcOf c.mode r == Num.rcSR

/-- R114, R116, R306, R342: the control registers that an instruction other than a CSR form writes at its issue, for a strand with registers c:
FLAGS, which every instruction of float arithmetic or conversion writes, STEP under SR, and BARMASK. -/
def ctlWrites (c : Ctx) : Instr → List Nat
  | .fadd _ _ _ r _ _ | .fsub _ _ _ r _ _ | .fmul _ _ _ r _ _ => 0x002 :: (if c.roundsSr r then [0x00E] else [])
  | .fdiv _ _ _ r _ | .fsqrt _ _ r _ | .fma _ _ _ _ r _ | .fcvt _ _ r _ _ => 0x002 :: (if c.roundsSr r then [0x00E] else [])
  | .fmin _ _ _ _ | .fmax _ _ _ _ | .fcmp _ _ _ _ => [0x002]
  | .vadd _ _ _ _ t | .vsub _ _ _ _ t | .vmul _ _ _ _ t | .vma _ _ _ _ t | .vms _ _ _ _ t | .vaddX _ _ _ _ t | .vsubX _ _ _ _ t
  | .vmulX _ _ _ _ t | .vrcp _ _ _ t | .vrsq _ _ _ t | .vexp2 _ _ _ t | .vlog2 _ _ _ t | .vscale _ _ _ _ t =>
    if (typeF t).isSome then 0x002 :: (if c.roundsSr 6 then [0x00E] else []) else []
  | .vmin _ _ _ _ t | .vmax _ _ _ _ t | .vcmp _ _ _ _ _ t | .vdwadd _ _ _ _ t | .vdwmul _ _ _ _ t | .vdwnorm _ _ _ t | .vsumx _ _ _ t
  | .vred _ _ _ t | .vhad _ _ _ _ t _ => if (typeF t).isSome then [0x002] else []
  | .vcvt _ _ f _ t => 0x002 :: (if ((typeF f).isSome || (typeF t).isSome) && c.roundsSr 6 then [0x00E] else [])
  | .vpack _ _ _ _ _ | .vqnt _ _ _ _ => 0x002 :: (if c.roundsSr 6 then [0x00E] else [])
  | .vunpk _ _ _ _ _ _ => [0x002]
  | .vrand _ _ _ _ _ => [0x00E]
  | .satt _ a _ =>
    let w := (c.getX a).toNat
    if bits w 6 2 == 2 && c.roundsSr (BitVec.ofNat 3 (bits w 12 3)) then [0x00E] else []
  | .bmask _ _ => [0x00A]
  | _ => []

/-- R276, R396: the counters that an instruction tests at its issue: PBC a store or an atomic with bytes in a vault, and a write of the matrix
unit; FPBC a far write. -/
def countReads (c : Ctx) : Instr → List Nat
  | .mdrain _ _ _ _ _ _ _ _ _ | .mxpq _ _ _ _ => [0x004]
  | .fmput _ _ | .fmscat _ _ => [0x005]
  | i => if writesPbc i && (memElems c i).any fun p => space p.1 ≠ 0 && space p.1 ≠ 0xF then [0x004] else []

/-- The registers, control registers among them, that an instruction reads or writes, numbered as in `readsOf`. -/
def allWrites (c : Ctx) (i : Instr) : List Nat := writesOf i ++ (ctlWrites c i).map (96 + ·)
def allReads (c : Ctx) (i : Instr) : List Nat := readsOf i ++ (ctlReads c i ++ countReads c i).map (96 + ·)

/-- R134: two consecutive instructions of one strand with registers c may issue in one cycle. FLAGS and STEP are registers here as any
other (log 114). -/
def pairs (c : Ctx) (a b : Instr) : Bool :=
  pipeOf a != pipeOf b && !longMajor (majorOf a) && !longMajor (majorOf b) && !endsCycle a
    && (allReads c b ++ allWrites c b).all fun r => !(allWrites c a).contains r

/-- R132: the strands in the order in which a slot considers them, the round-robin starting after strand `last`. -/
def Core.ranked (k : Core) (last : Fin 4) : List (Fin 4) :=
  let rr := [last + 1, last + 2, last + 3, last + 4]
  k.promoted ++ rr.filter (fun t => (k.strand t).st == .handler)
    ++ rr.filter (fun t => (k.strand t).st == .ready && !(k.strand t).ctx.bg)
    ++ rr.filter (fun t => (k.strand t).st == .ready && (k.strand t).ctx.bg)

/-- What a strand that may issue has fetched. -/
def State.upcoming (s : State) (c : CoreId) (t : Fin 4) : Option Fetched :=
  if s.mayIssue c t then some ((s.core c).fetch (s.strand c t).ctx.pc s.draws) else none

/-- R131: the strand is a candidate of a slot whose cycle has already taken the pipe `p`. A fetch that traps issues as a NOP does, in the
scalar pipe (log 88). -/
def State.candidate (s : State) (c : CoreId) (p : Option Nat) (t : Fin 4) : Bool :=
  match s.upcoming c t with
  | some (.instr i) => s.eligible c t i && p != some (pipeOf i)
  | some (.trap _ _) => p != some (pipeOf .nop)
  | none => false

/-- R132, R134: strand t is the one that the selector takes next: for slot 1, or for slot 2 of a cycle in which one instruction has issued. Both
slots of a cycle start the round-robin after the strand that filled slot 1 last before that cycle (log 133). -/
def State.selected (s : State) (c : CoreId) (t : Fin 4) : Bool :=
  let k := s.core c
  let first : Bool := (k.ranked k.last).find? (s.candidate c none) == some t
  match k.issued with
  | [] => first
  | (a, i, n) :: rest =>
    let other := (k.ranked k.prior).find? fun u => u != a && s.candidate c (some (pipeOf i)) u
    if k.cycle ≠ s.now then first
    else if !rest.isEmpty then false
    else if t == a then
      other.isNone && (k.strand a).ctx.instret == n + 1 &&
        (match s.upcoming c a with | some (.instr j) => s.eligible c a j && pairs (k.strand a).ctx i j | _ => false)
    else other == some t

/-- R133: strand t has been eligible for 60 cycles without issuing. -/
def State.promotable (s : State) (c : CoreId) (t : Fin 4) : Bool :=
  let k := s.core c
  (match (k.strand t).since with | some n => n + 60 ≤ s.now | none => false) && !(k.promoted.contains t) && s.candidate c none t

/-- PROMOTION: R133: a strand eligible for 60 cycles without issuing is promoted until it issues. `State.due` does it at its cycle. -/
def State.promote (s : State) (c : CoreId) (t : Fin 4) : State :=
  if s.promotable c t then s.modCore c fun k => { k with promoted := k.promoted ++ [t] } else s

def execPromotion (core strand : Nat) (s : State) : Out := .next (s.promote core (Fin.ofNat 4 strand))

/-- R132, R133: strand t issues: it is no longer promoted, and slot 1 starts the next round after it. -/
def State.starting (s : State) (c : CoreId) (t : Fin 4) (i : Instr) : State :=
  let s := s.modCore c fun k =>
    let first := k.issued.isEmpty || k.cycle ≠ s.now
    let x := k.strand t
    { k.putStrand t { x with since := some (s.now + 1), reexec := false } with
      last := if first then t else k.last, prior := if first then k.last else k.prior, cycle := s.now, issued := (if first then [] else k.issued) ++ [(t, i, x.ctx.instret)],
      promoted := k.promoted.filter (· ≠ t) }
  { s with cur := (c, t) }

/-- R131, R133: after a step each strand that may issue has been eligible since some cycle, and no other has. -/
def State.watched (s : State) (c : CoreId) (k : Core) : Core :=
  let f (t : Fin 4) : Strand :=
    let x := k.strand t
    { x with since := if s.candidate c none t then some (x.since.getD s.now) else none }
  { k with strands := #v[f 0, f 1, f 2, f 3] }

def State.watch (s : State) : State := { s with cores := s.cores.map fun (p : Nat × Core) => (p.1, s.watched p.1 p.2) }

/-- R133: the cycles that may pass before strand t is due for promotion or, promoted, has to issue, or before the cycle comes from which it
may issue. -/
def Core.leeway (k : Core) (now : Nat) (t : Fin 4) : Option Nat :=
  match (k.strand t).wake, (k.strand t).since with
  | some n, _ => some (n - now)
  | none, some n => some (if k.promoted.contains t then 1 else n + 60 - now)
  | none, none => none

/-- R133: the cycles that may pass before something is due. -/
def State.slack (s : State) : Option Nat :=
  (s.cores.flatMap fun p => [(0 : Fin 4), 1, 2, 3].filterMap (p.2.leeway s.now)).min?

/-- R133: a promoted strand that the selector takes now. -/
def State.forced (s : State) : Option (CoreId × Fin 4) :=
  s.cores.findSome? fun p => (p.2.promoted.find? fun t => s.selected p.1 t).map fun t => (p.1, t)

/-- R135, R137: the strands whose cycle has come may issue. -/
def Core.roused (k : Core) (now : Nat) : Core :=
  let f (t : Fin 4) : Strand :=
    let x := k.strand t
    { x with wake := match x.wake with | some n => if n ≤ now then none else some n | none => none }
  { k with strands := #v[f 0, f 1, f 2, f 3] }

/-- What the passing of time alone brings about: R135, R137; R133, lowest index first; R139. -/
def State.due (s : State) : State :=
  let s := { s with cores := s.cores.map fun (p : Nat × Core) => (p.1, p.2.roused s.now) }
  (s.cores.map Prod.fst).foldl (fun s c => [(0 : Fin 4), 1, 2, 3].foldl (fun s t => (s.promote c t).expire c t) s) s

/-- R396: the register of `rs` that fails parity: system cause n and register number. -/
def Strand.badOf (x : Strand) (rs : List Nat) : Option (Nat × Nat) :=
  let name (r : Nat) : Nat × Nat :=
    if r < 32 then (8, r) else if r < 64 then (9, r - 32) else if r < 72 then (10, r - 64) else if r < 76 then (12, r - 72)
    else if r < 96 then (12, r - 72) else (11, r - 96)
  let loops := (List.range 3).filter fun n => (x.ctx.getLc n).active
  ((rs ++ loops.map (76 + ·)).map name).find? fun p => x.ctx.bad.contains p

/-- R389: the strand takes no trap at its TVEC: it is freed as if by HALT, with a record. The waiting HALT is marked by phase 1: it takes no
trap either. -/
def State.tvecFault (s : State) : State :=
  let (c, t) := s.cur
  let x := s.strand c t
  let s := s.record c 0x00F (some t) x.ctx.tvec x.ctx.tvec 0
  let s := s.await .halt
  (s.modStrand c t fun x => { x with ctx := { x.ctx with trapAt := none }, wait := x.wait.map fun e => { e with phase := 1 } }).strandWake c t

/-- R72 steps 1 to 4: the fetch itself faults; a decoding refusal (steps 5 to 11) is none. -/
def fetchCause (cause : Nat) : Bool := 0x00A ≤ cause && cause ≤ 0x00D

/-- R386, R389: the next instruction of the running strand cannot be fetched or decoded. -/
def State.fetchFault (s : State) (cause : Nat) (tval : Word) : State :=
  let c := s.ctx
  if fetchCause cause && c.pc == c.tvec && c.trapAt == some c.instret then s.tvecFault else s.trap cause tval

end Sys2Proof.Machine
end

