-- ==== Sys2Proof/Machine/Records.lean ====
section
/-!
DEFINITION. Error records (R52, R398 to R400): their words, the part's log and a partition's ring, and records about a tile.
-/
namespace Sys2Proof.Machine

/-- R398: the 256 bits of a record. -/
def ErrRec.word (r : ErrRec) : BitVec 256 :=
  let t : Nat := match r.strand with | some t => t.1 * 2^9 + 2^11 | none => 0
  BitVec.ofNat 256 (packElems 64
    [r.cause + t + r.synd * 2^12 + r.slot.getD 0 * 2^16 + r.core.getD 0 * 2^20 + r.px * 2^41 + r.py * 2^50,
     if r.strand.isSome then r.pc.toNat else 0, r.addr.toNat, r.time])

/-- R421: a record is appended to the part's log, which keeps the last 65,536. -/
def Wafer.append (w : Wafer) (v : BitVec 256) : Wafer :=
  let l := w.log ++ [v]
  { w with logged := w.logged + 1, log := l.drop (l.length - 65536) }

/-- R400: a record is written into the ring of its partition; where the lead core's vault cannot be reached it is dropped as for a full ring
(log 99). -/
def State.ringRecord (s : State) (p : Nat) (q : Ptn) (v : BitVec 256) : State :=
  let b := q.ring
  let set (f : RingBlock → RingBlock) (s : State) : State := s.modPtn p q.slot fun q => { q with ring := f q.ring }
  let lead := leadCore p q
  let lose (b : RingBlock) : RingBlock := { b with lost := BitVec.ofNat 32 (if b.lost.toNat + 1 < 2^32 then b.lost.toNat + 1 else 2^32 - 1) }
  if !b.en then s
  else if (b.head - b.tail).toNat == 2^b.rlog then
    set lose s
  else if (s.stops lead lead).isSome then set lose s
  else
    let s := s.engineWrite lead ((b.rbase * 32 + 32 * (b.head.toNat % 2^b.rlog)) % 2^19) (leBytes v.toNat 32) false
    let s := set (fun b => { b with head := b.head + 1 }) s
    if b.rsv then s.semLater lead b.rsem else s

/-- ERROR_RECORD: R400: the oldest record on its way reaches the Grefiest controller, once the vault of its ring is not on the move (R58). -/
def State.errorRecord (s : State) (p : Nat) : State :=
  match (s.wafer p).errq with
  | [] => s
  | r :: rs =>
    let lead := (r.slot.bind (s.wafer p).ptnIn).map (leadCore p)
    if (match lead with | some l => s.away l l | none => false) then s
    else
    let s := s.modWafer p fun w => { w with errq := rs }.append r.word
    match r.slot.bind (s.wafer p).ptnIn with
    | some q => s.ringRecord p q r.word
    | none => s

def execErrorRecord (part : Nat) (s : State) : Out := .next (s.errorRecord part)

/-! ## Records about a tile (R52) -/

/-- The tile with a peer entry's coordinates. -/
def Tile.peer (t : Tile) : Nat := t.peery * 512 + t.peerx

/-- R52: the logical core a fault of a tile belongs to. -/
def Wafer.owner (w : Wafer) (i : Nat) : Option (Nat × Nat) :=
  let t := w.chart.tile i
  if t.named then some (t.lx, t.ly)
  else if t.home then (let o := w.chart.tile t.peer; some (o.lx, o.ly))
  else none

/-- The partition whose isles hold a tile. -/
def Wafer.ptnOfTile (w : Wafer) (i : Nat) : Option Ptn := (w.chart.logIsle (i % 512 / 32)).bind fun j => w.ptnAt (30 * j)

/-- R52, R398: a record about a tile of a part that belongs to a logical core, or to none. -/
def State.tileRecordFor (s : State) (p i : Nat) (owner : Option (Nat × Nat)) (cause synd : Nat) : State :=
  let w := s.wafer p
  let q := w.ptnOfTile i
  let core : Option Nat := match q, owner with
    | some _, some (x, y) => some (s.coord (mkCore p y x))
    | _, _ => none
  let r : ErrRec :=
    { cause := cause, strand := none, synd := synd, slot := q.map (·.slot), core := core, px := i % 512, py := i / 512, pc := 0, addr := 0,
      time := match q with | some q => s.now - q.formed | none => s.now }
  s.modWafer p fun w => { w with errq := w.errq ++ [r] }

/-- R52: a record about a tile, with the core its class names. -/
def State.tileRecord (s : State) (p i cause synd : Nat) : State := s.tileRecordFor p i ((s.wafer p).owner i) cause synd

/-- A record about a partition or a part as a whole. -/
def State.partRecord (s : State) (p : Nat) (q : Option Ptn) (cause : Nat) : State :=
  let r : ErrRec :=
    { cause := cause, strand := none, synd := 0, slot := q.map (·.slot), core := none, px := 0, py := 0, pc := 0, addr := 0,
      time := match q with | some q => s.now - q.formed | none => s.now }
  s.modWafer p fun w => { w with errq := w.errq ++ [r] }

end Sys2Proof.Machine
end

