-- ==== Sys2Proof/Machine/Partition.lean ====
section
/-!
DEFINITION. Partitions and their mailboxes (R49, R327, R423 to R429): forming and tearing down, retained sets, doorbells, and idle
completion.
-/
namespace Sys2Proof.Machine

/-! ## Isle runs -/

/-- The core lies in a run of logical isles of a part. -/
def inRun (p first count : Nat) (c : CoreId) : Bool := cPart c == p && 30 * first ≤ cX c && cX c < 30 * (first + count)

/-- The physical isles that carry a run. -/
def Chart.runIsles (ch : Chart) (first count : Nat) : List Nat := (List.range count).filterMap fun i => ch.physIsle (first + i)

/-- Logical isles of the current numbering (R62). -/
def Chart.isleCount (ch : Chart) : Nat := ((List.range 16).filter fun j => !ch.isleOut j).length

/-- R49: PASSISLE: the failed and lost isles that some partition's run flanks on both sides. -/
def Wafer.passMask (w : Wafer) : BitVec 16 :=
  BitVec.ofNat 16 (((List.range 16).filter fun j =>
    w.chart.isleOut j && w.ptns.any fun q =>
      let js := w.chart.runIsles q.first q.count
      js.any (· < j) && js.any (j < ·)).foldl (fun a j => a + 2^j) 0)

def Wafer.repass (w : Wafer) : Wafer := { w with chart := { w.chart with passisle := w.passMask } }

/-! ## Zeroising (R424, R425) -/

/-- A zeroised core: what has been found wrong since reset is kept (R56), and the vault where it is retained. -/
def Core.wiped (k : Core) (vault : Bool) : Core :=
  let z := { Core.formed with vaultUe := k.vaultUe, nearUeSeen := k.nearUeSeen, seq := k.seq, sendId := k.sendId }
  if vault then { z with vault := k.vault, empty := k.empty, poison := k.poison } else z

/-- Every listed core of a run is zeroised. -/
def State.wipe (s : State) (p first count : Nat) (vault : Bool) : State :=
  { s with cores := s.cores.map fun c => if inRun p first count c.1 then (c.1, c.2.wiped vault) else c }

/-- R425: nothing of a run's cores stays under way; a request of another part that waited at one of its quays goes on, and meets no
partition; a message to one of its cores is refused. -/
def State.purge (s : State) (p first count : Nat) : State :=
  let mine := inRun p first count
  let back := (s.parks.filter fun r => mine r.home && !mine r.core)
  let cut := s.msgs.filter fun m => mine m.dest && !mine m.src && m.src < 2^21
  { s with
    net := (s.net.filter fun r => !mine r.core) ++ back
    parks := s.parks.filter fun r => !mine r.core && !mine r.home
    acks := s.acks.filter fun a => !mine a.core
    msgs := s.msgs.filter fun m => !mine m.src && !mine m.dest
    notices := (s.notices.filter fun n => !mine n.src) ++ cut.mapIdx fun i m => { id := s.ids + i, origin := m.dest, src := m.src, entry := m.entry, ok := false }
    ids := s.ids + cut.length
    steals := s.steals.filter fun r => !mine r.thief
    slotNotes := s.slotNotes.filter fun n => !mine n.core
    reports := s.reports.filter fun r => !mine r.core
    bulkAcks := s.bulkAcks.filter fun a => !mine a.core
    semq := s.semq.filter fun c => !mine c.1
    fars := s.fars.filter fun m => !mine m.core }

/-! ## Forming (R423, R424) -/

/-- R429: an event for the supervisor: a tag-63 message to the lead core, from the Grefiest controller. -/
def State.event (s : State) (p : Nat) (q : Ptn) (code : Nat) (word : Word) : State :=
  { s with
    msgs := s.msgs ++ [{ id := s.ids, src := 2^21, entry := 0, dest := leadCore p q, tag := 63, payload := payload4 (BitVec.ofNat 64 code) word 0 0 }]
    ids := s.ids + 1 }

/-- R424: the lead core as FORM leaves it: the supervisor firmware at 0xC000 with its execute lines, and tag 63 bound to its entry. -/
def Core.led (k : Core) (b : Boot) : Core :=
  { k with
    near := Memory.writeN [] 0xC000 (b.supImage.take 16384)
    exec := BitVec.ofNat 1024 (b.supExec.toNat * 2^768 ||| 15 * 2^1020)
    bindings := vset Core.formed.bindings 63 (some (startBinding (b.supEntry.setWidth 64))) }

/-- R424: the other cores: the START stub. -/
def Core.follow (k : Core) (b : Boot) : Core :=
  let z := Core.stubbed b.supImage
  { k with near := z.near, exec := z.exec, bindings := z.bindings }

/-- R436, R437: whether the two ends of Halif port `port` of a part belong to the same partition's run and carry the same logical isle. -/
def State.halifAgrees (s : State) (p port : Nat) : Bool :=
  let w := s.wafer p
  let isle (w : Wafer) : Option (Nat × Ptn) := (w.chart.logIsle (port / 4)).bind fun i => (w.ptnAt (30 * i)).map fun q => (i, q)
  w.nparts ≠ 0 &&
    (match s.partOf w.domid ((w.pidx + hopDist (port % 4) w.nparts) % w.nparts), isle w with
      | some r, some (i, q) =>
        (match isle (s.wafer r) with
          | some (j, t) => q.dom && t.dom && i == j && q.first == t.first && q.count == t.count
          | none => false)
      | _, _ => false)

def State.modHalif (s : State) (p n : Nat) (f : Halif → Halif) : State :=
  s.modWafer p fun w => { w with halifs := tset (f (w.halif n)) n w.halifs }

/-- R437: the part and the port at the far end of a Halif port's cable: ports 4j + 0 and 4j + 2 face each other, and 4j + 1 and 4j + 3. -/
def State.peerPort (s : State) (p n : Nat) : Option (Nat × Nat) :=
  let w := s.wafer p
  if w.nparts < 2 || (w.nparts == 2 && n % 2 == 1) then none
  else (s.partOf w.domid ((w.pidx + hopDist (n % 4) w.nparts) % w.nparts)).map fun r => (r, n / 4 * 4 + (n % 4 + 2) % 4)

/-- Both ends of a Halif link. -/
def State.modLink (s : State) (p n : Nat) (f : Halif → Halif) : State :=
  match s.peerPort p n with
  | some (r, m) => (s.modHalif p n f).modHalif r m f
  | none => s.modHalif p n f

/-- R436: the controllers of both parts confirm what a link carries. -/
def State.confirm (s : State) (p n : Nat) : State :=
  let yes := s.halifAgrees p n
  s.modLink p n fun h => { h with carries := h.up && yes }

/-- R436: it does so for each port of a run. -/
def State.confirmRun (s : State) (p first count : Nat) : State :=
  (((s.wafer p).chart.runIsles first count).flatMap fun j => [4 * j, 4 * j + 1, 4 * j + 2, 4 * j + 3]).foldl (fun s n => s.confirm p n) s

/-- R424: the five steps of FORM. -/
def State.formRun (s : State) (p first count slot : Nat) (dom port discard : Bool) : State :=
  let w := s.wafer p
  let exact := w.retained.find? fun r => r.slot == slot && r.first == first && r.count == count
  let kept := if discard then none else exact.map (·.succ)
  let hits (r : Retained) : Bool := r.first < first + count && first < r.first + r.count
  let s := if kept.isSome then s
           else (w.retained.filter hits).foldl (fun s r => s.wipe p r.first r.count false) (s.wipe p first count false)
  let q := { Ptn.new slot first count dom port s.now with kept := kept }
  let s := s.modWafer p fun w =>
    { w with ptns := w.ptns ++ [q], retained := w.retained.filter (fun r => !hits r), mail := vset w.mail slot { Mailbox.zero with st := 1, owner := some port } }.repass
  let b := w.boot
  let follow (c : CoreId × Core) : CoreId × Core := if inRun p first count c.1 then (c.1, (c.2.wiped true).follow b) else c
  let s := { s with cores := s.cores.map follow }
  let s := s.modCore (leadCore p q) fun k => k.led b
  let s := s.decodeRun p q
  let s := if dom then s.confirmRun p first count else s
  s.event p q 0 0

/-! ## Tearing down (R380, R425, R426) -/

/-- A line write that may have begun: its bytes have been read, and its command goes on or had begun it. -/
def FarCmd.underWay (m : FarCmd) (n : Nat) : Bool :=
  let f := m.part n
  farWrites m.kind && !m.done.contains n && !m.waits n && !noData f.wrong && m.steps f == [.write]
    && (m.stage == .admitted || f.got.isSome || f.going)

/-- R380: far line writes of a command that had begun and were not acknowledged are rewritten poisoned, with a record each. Which had begun
is a free value (log 12). -/
def State.poisonBegun (s : State) (q : Ptn) (m : FarCmd) : State :=
  let s' := (List.range (farCount m.kind m.spb)).foldl (fun s n =>
    if Config.freeNat (s.draws + n) % 2 == 0 || !m.underWay n then s
    else
      match s.lineOut q m (m.part n) with
      | .ok (va, pa, key, v, _) => (s.farWrite (cPart m.core) (pa / 64) key v true).farRecord m 15 (farAddr va)
      | .error _ => s) s
  { s' with draws := s'.draws + farCount m.kind m.spb }

/-- R426: the vault blocks that a stopped bulk engine had begun to write but not finished. Which, if any, is a free value (log 12). -/
def State.tornBulk (s : State) (c : CoreId) : State :=
  match (s.core c).bulk with
  | [] => s
  | m :: _ =>
    let s' := (List.range m.beats).foldl (fun s n =>
      if m.bc || Config.freeNat (s.draws + n) % 2 == 0 || m.done.contains n then s
      else match s.place c (m.at_ n true) with
        | .vault h o => s.modCore h fun k => { k with poison := nadd (o / 32) k.poison }
        | _ => s) s
    { s' with draws := s'.draws + m.beats }

/-- R426: the blocks that the vault sinks of a core have filled in part: at their pointers, and what the events performed of a position
under way leave open. -/
def Core.sinkTorn (k : Core) : List Nat :=
  (k.eps.filter fun e => e.role == 2).flatMap fun e =>
    let open_ (at_ : Nat) : List Nat := if at_ % 32 == 0 then [] else [at_ / 32]
    let begun := match e.queue, e.beats with
      | f :: _, _ :: _ =>
        (match position e.fmt.toNat 0 false (fun _ => 0) 0 f with
          | some p => e.beats.flatMap fun n => match (e.writes p)[n]? with | some (o, bs) => open_ (o + bs.length) | none => []
          | none => [])
      | _, _ => []
    (if e.dptr == 0 then [] else open_ e.dataAt) ++ (if e.hptr == 0 then [] else open_ e.hdrAt) ++ begun

def State.tornSinks (s : State) (c : CoreId) : State :=
  s.modCore c fun k => { k with poison := naddAll (Core.sinkTorn k) k.poison }

/-- R426: the blocks of the chunk that a ring sequencer is writing whose beats had begun: which, is a free value (log 12). -/
def State.tornRing (s : State) (p : Nat) (q : Ptn) (r : RingRec) : State :=
  match s.ringBuf (leadCore p q) r, r.out with
  | some (h, o), some (c, bs) =>
    let torn := (List.range bs.length).filter fun n => Config.freeNat (s.draws + n) % 2 == 1 && !r.wrote.contains n
    { s with draws := s.draws + bs.length }.modCore h fun k => { k with poison := naddAll (torn.map fun n => (o + c * r.chunk) / 32 + n) k.poison }
  | _, _ => s

/-- R426: what every engine and sink of a partition leaves torn. -/
def State.tornBlocks (s : State) (p : Nat) (q : Ptn) : State :=
  let s := (s.coresOf p q).foldl (fun s c => (s.tornBulk c).tornSinks c) s
  (q.rings.filter fun x => x.2.run).foldl (fun s x => s.tornRing p q x.2) s

/-- R413, R427: the frame that a core has saved is zeroised, in a vault that is kept otherwise (log 95). -/
def Core.unframed (k : Core) : Core :=
  let inside (off : Nat) : Bool := k.frameAt ≤ off && off < k.frameAt + frameLen
  if k.saved && !k.saveFailed then
    { k with vault := k.vault.filter fun c => !inside c.1, empty := k.empty.filter fun w => !inside (8 * w),
             poison := k.poison.filter fun b => !inside (32 * b) }
  else k

/-- R425: a partition is torn down; `lost` is teardown with ISLE_LOST (R62). -/
def State.teardown (s : State) (p slot : Nat) (lost : Bool) : State :=
  match (s.wafer p).ptnIn slot with
  | none => s
  | some q =>
    let m := vget (s.wafer p).mail slot
    let keep : Bool := m.st == 3 && m.lcopy.getLsbD (64 * 11 + 32)
    let s := (s.fars.filter fun m => inRun p q.first q.count m.core).foldl (fun s m => s.poisonBegun q m) s
    let s := if keep then s.tornBlocks p q else s
    let s := if lost then s.partRecord p (some q) (sysCause 1 3) else s
    let s := (s.partRecord p (some q) (sysCause 14 3)).purge p q.first q.count
    let s := if keep then (s.coresOf p q).foldl (fun s c => s.modCore c Core.unframed) s else s
    let s := s.wipe p q.first q.count keep
    let ports := (s.wafer p).straitsOf q
    let ret : Retained := ⟨slot, q.first, q.count, BitVec.ofNat 32 (elem m.lcopy.toNat 64 11)⟩
    let cold (t : Nat × Strait) : Nat × Strait := if ports.contains t.1 then (t.1, { t.2 with tlb := [], slots := [], decoders := [] }) else t
    let s := s.modWafer p fun w => Wafer.repass
      { w with
        ptns := w.ptns.filter fun r => r.slot ≠ slot
        retained := if keep then w.retained ++ [ret] else w.retained
        mail := vset w.mail slot { m with st := 0 }
        straits := w.straits.map cold }
    let s := (s.wafer p).errq.foldl (fun s _ => s.errorRecord p) s
    if q.dom then s.confirmRun p q.first q.count else s

/-! ## Doorbells (R429) -/

/-- R426: the first launch after a FORM that kept the vaults, under another id than the retained one, zeroises them. -/
def State.firstLaunch (s : State) (p : Nat) (q : Ptn) (id : BitVec 32) : State :=
  let s := match q.kept with
    | some succ =>
      if succ == id then s
      else
        let blank (c : CoreId × Core) : CoreId × Core :=
          if inRun p q.first q.count c.1 then (c.1, { c.2 with vault := [], empty := [], poison := [] }) else c
        s.parks.foldl (fun (t : State) (r : Req) => t.wake r.home) { s with cores := s.cores.map blank }
    | none => s
  s.modPtn p q.slot fun q => { q with kept := none, reported := false }

/-- R428, R429: the mailbox as the host sees it: STATE is 4 while the partition is held. -/
def Wafer.mailShown (w : Wafer) (slot : Nat) : Mailbox :=
  let m := vget w.mail slot
  match w.ptnIn slot with
  | some q => if q.pre.held then { m with st := 4 } else m
  | none => m

/-- DOORBELL_LAUNCH: a write of DB = 1; in any other state than 1, that of no partition among them, it sets OVR. -/
def State.doorbell (s : State) (p slot : Nat) : State :=
  match (s.wafer p).ptnIn slot with
  | none => s.modWafer p fun w => { w with mail := vset w.mail slot { vget w.mail slot with ovr := true } }
  | some q =>
    let m := vget (s.wafer p).mail slot
    if ((s.wafer p).mailShown slot).st == 1 then
      let id := m.launch.setWidth 32
      let s := s.firstLaunch p q id
      let s := s.modWafer p fun w => { w with mail := vset w.mail slot { m with lcopy := m.launch, st := 2 } }
      s.event p q 1 (id.setWidth 64)
    else s.modWafer p fun w => { w with mail := vset w.mail slot { m with ovr := true } }

def execDoorbellLaunch (part slot : Nat) (s : State) : Out := .next (s.doorbell part slot)

/-- DOORBELL_SIGNAL: a write of DB = 2. -/
def execDoorbellSignal (part slot : Nat) (s : State) : Out :=
  .next (match (s.wafer part).ptnIn slot with
    | some q =>
      let m := (s.wafer part).mailShown slot
      if 1 ≤ m.st.toNat && m.st.toNat ≤ 4 then s.event part q 2 m.sigword else s
    | none => s)

/-! ## Idle completion (R327) -/

/-- R327: a core is idle; of the lead core S3 and what belongs to the supervisor is left out. -/
def State.idle (s : State) (c : CoreId) (lead : Bool) : Bool :=
  let k := s.core c
  let counts (t : Fin 4) : Bool := !(lead && t == 3)
  let supers (tag : BitVec 6) : Bool := match vget k.bindings tag.toNat with | some b => b.strand == 3 | none => false
  ([(0 : Fin 4), 1, 2, 3].all fun t => !counts t || (k.strand t).st == .free || (k.strand t).st == .retained)
    && k.deque.isEmpty && (match k.ring with | some r => r.count == 0 | none => true)
    && !(k.sendq.any fun e => e.tag ≠ 63 && counts e.strand) && !(k.recv.any fun m => m.tag ≠ 63 && !(lead && supers m.tag))
    && !(k.bulk.any fun m => counts m.strand) && !(s.fars.any fun m => m.core == c && counts m.strand)

/-- The target rectangle of a launch record; a height field of 0 stands for 512 rows. -/
def targets (p : Nat) (w3 : Nat) : List CoreId :=
  (List.range (if bits w3 27 9 = 0 then 512 else bits w3 27 9)).flatMap fun y => (List.range (bits w3 18 9)).map fun x => mkCore p (bits w3 9 9 + y) (bits w3 0 9 + x)

/-- LAUNCH_IDLE_COMPLETE: the running launch with ROOTS = 0 completes when every target core is idle, once. -/
def State.idleComplete (s : State) (p slot : Nat) : State :=
  match (s.wafer p).ptnIn slot with
  | none => s
  | some q =>
    let m := vget (s.wafer p).mail slot
    let w (n : Nat) : Nat := elem m.lcopy.toNat 64 n
    let lead := leadCore p q
    if m.st == 3 && bits (w 10) 0 8 == 0 && !q.reported && !s.frozen lead && !s.placeAway lead (BitVec.ofNat 64 (w 9))
        && (targets p (w 3)).all (fun c => (s.core c).launchid.toNat == bits (w 0) 0 32 && s.idle c (c == lead)) then
      let s := s.writeDone lead (BitVec.ofNat 64 (w 9)) 0
      (s.modPtn p slot fun q => { q with reported := true }).semLater lead (bits (w 10) 8 4)
    else s

def execLaunchIdleComplete (part slot : Nat) (s : State) : Out := .next (s.idleComplete part slot)

end Sys2Proof.Machine
end

