-- ==== Sys2Proof/Machine/Amend.lean ====
section
/-!
DEFINITION. In-field amendment (R22, R44, R53, R56 to R62, R439): damage to the chart, spares, homes and causeways, moves, holds and the
loss of an isle.
-/
namespace Sys2Proof.Machine

/-! ## The chart under damage -/

def Chart.modTile (ch : Chart) (i : Nat) (f : Tile → Tile) : Chart := { ch with tiles := tset (f (ch.tile i)) i ch.tiles }

/-- R56: the class after damage. -/
def lowered (d : Damage) (c : Class) : Class :=
  match d, c with
  | .coreHalf, .complete => .memory
  | .coreHalf, .compute => .relay
  | .vaultHalf, .complete => .compute
  | .vaultHalf, .memory => .relay
  | .router, _ => .dead
  | _, c => c

/-- R42: the other end of a link: its tile and its port there. -/
def otherEnd (i port : Nat) : Nat × Nat :=
  if port < 4 then (meshStep i port, (port + 2) % 4)
  else
    (match port with | 4 => i - 16 * 512 | 5 => i + 16 | 6 => i + 16 * 512 | _ => i - 16, 4 + (port + 2) % 4)

def Tile.setLink (t : Tile) (port v : Nat) : Tile :=
  { t with links := BitVec.ofNat 16 (packElems 2 ((List.range 8).map fun n => if n == port then v else t.link n)) }

/-- R42: both ends of a link record its state; a missing link stays missing. -/
def Chart.setLink (ch : Chart) (i port v : Nat) : Chart :=
  if (ch.tile i).link port == 3 then ch
  else
    let o := otherEnd i port
    (ch.modTile i fun t => t.setLink port v).modTile o.1 fun t => t.setLink o.2 v

/-- R56: what damage makes of a link's state. -/
def linkAfter (d : Damage) (old : Nat) : Nat :=
  match d with
  | .linkNarrow _ => if old == 1 then 3 else 1
  | .linkSlow _ => 2
  | _ => 3

def Damage.port : Damage → Option Nat
  | .linkNarrow n | .linkSlow n | .linkGone n => some n
  | _ => none

/-- R56: whether damage changes the chart at a tile. -/
def Chart.changes (ch : Chart) (d : Damage) (i : Nat) : Bool :=
  match d.port with
  | some n => n < 8 && (ch.tile i).link n ≠ 3
  | none => (match d with | .wire => true | _ => lowered d (ch.tile i).cls != (ch.tile i).cls)

/-- R56: the chart with its classes and links under damage; GEN and AMENDS count the amendment. With AMENDS at 4,096, where R57 has no remedy, the
classes, the links and GEN change and last all the same (log 122). -/
def Chart.damaged (ch : Chart) (d : Damage) (i : Nat) : Chart :=
  let ch := { ch with gen := ch.gen + 1, amends := if ch.amends < 4096 then ch.amends + 1 else ch.amends }
  match d.port with
  | some n => ch.setLink i n (linkAfter d ((ch.tile i).link n))
  | none =>
    let t := ch.tile i
    let c := lowered d t.cls
    let ch := ch.modTile i fun t => { t with cls := c, retired := t.retired || c != t.cls }
    if c == .dead then (List.range 8).foldl (fun ch n => ch.setLink i n 3) ch else ch

/-! ## Remedies (R44, R57) -/

def Class.hasVault (c : Class) : Bool := c == .memory || c == .complete

/-- R38: the tile whose vault serves a named tile's core. -/
def Chart.vaultTile (ch : Chart) (j : Nat) : Nat := if (ch.tile j).cw.isEmpty then j else (ch.tile j).peer

/-- R57: of some homes with their causeways the shortest, then of lowest py, then of lowest px. -/
def best : List (Nat × List (BitVec 2)) → Option (Nat × List (BitVec 2))
  | [] => none
  | a :: l =>
    match best l with
    | none => some a
    | some b => if b.2.length < a.2.length || (b.2.length == a.2.length && b.1 < a.1) then some b else some a

/-- R57: the free home a tile gets. -/
def Chart.newHome (ch : Chart) (taken : List Nat) (j : Nat) : Option (Nat × List (BitVec 2)) :=
  best ((ch.routes j).filter fun r => (ch.tile r.1).freeHome && !taken.contains r.1)

/-- The chart once a core has left its tile and home. -/
def Chart.leave (ch : Chart) (j : Nat) : Chart :=
  let t := ch.tile j
  let clear (t : Tile) : Tile := { t with home := false, peerx := 0, peery := 0 }
  let ch := if t.cw.isEmpty then ch else ch.modTile t.peer clear
  ch.modTile j fun t => { t with named := false, moving := false, lx := 0, ly := 0, peerx := 0, peery := 0, cw := [] }

/-- R57: the spare that takes a core's name, with the home it needs when it is COMPUTE. -/
def Chart.newTile (ch : Chart) (taken : List Nat) (j : Nat) : Option (Nat × Option (Nat × List (BitVec 2))) :=
  let row := j / 32 * 32
  (List.range 32).findSome? fun k =>
    let i := row + k
    if !ch.spare i || taken.contains i then none
    else if (ch.tile i).cls == .complete then some (i, none)
    else (ch.newHome (i :: taken) i).map fun h => (i, some h)

/-- What restores a core: a new causeway to its home, or a move. -/
inductive Remedy where
  | causeway (tile : Nat) (cw : List (BitVec 2))
  | move (m : Move)
  | lost

/-- R57: the core of tile j after damage `d` at tile i: what it has lost, and the first remedy that applies. `was` is the chart before,
`ch` the chart after. The home that a substituted orphan leaves counts as free for the spare that takes its name (log 105). -/
def remedy (was ch : Chart) (w : Wafer) (p : Nat) (d : Damage) (i : Nat) (taken : List Nat) (j : Nat) : Option Remedy :=
  let t := was.tile j
  let core := mkCore p t.ly t.lx
  let v := was.vaultTile j
  let noCore : Bool := j == i && t.coreBearing && !(ch.tile i).coreBearing
  let noVault : Bool := v == i && (was.tile i).cls.hasVault && !(ch.tile i).cls.hasVault
  let noWay : Bool := !t.cw.isEmpty && !({ w with chart := ch, work := [] }.causewayOk j t.cw)
  let router : Bool := d == .router && j == i
  let substitute : Remedy :=
    match (ch.leave j).newTile taken j with
    | none => .lost
    | some (n, h) =>
      let to_ := match h with | some h => h.1 | none => n
      .move ⟨core, true, noCore, j, n, h, to_ ≠ v, noVault, !router⟩
  let rehome : Remedy :=
    match ch.newHome taken j with
    | some h => .move ⟨core, false, false, j, j, some h, true, noVault, true⟩
    | none => substitute
  if noCore then some substitute
  else if noVault then some rehome
  else if noWay then
    some (match (ch.routes j).find? fun r => r.1 == v with
      | some r => .causeway j r.2
      | none => rehome)
  else none

/-- The tiles a remedy takes. -/
def Remedy.takes : Remedy → List Nat
  | .move m => m.newTile :: (match m.home with | some h => [h.1] | none => [])
  | _ => []

/-- R57: the remedies for every named tile, one after the other, in the order of the tiles (log 106). -/
def remedies (was ch : Chart) (w : Wafer) (p : Nat) (d : Damage) (i : Nat) : List Remedy :=
  let js := (ch.tiles.filter fun t => t.2.named).map Prod.fst
  (js.foldl (fun (acc : List Remedy × List Nat) j =>
    match remedy was ch w p d i acc.2 j with
    | some r => (acc.1 ++ [r], acc.2 ++ r.takes)
    | none => acc) ([], [])).1

/-! ## Holds (R61) -/

/-- R61: a partition is held, from now unless it already is. -/
def State.holdPtn (s : State) (p slot : Nat) : State :=
  s.modPtn p slot fun q => { q with amendHold := some (q.amendHold.getD s.now) }

/-- R61: the partition that contains a tile is held. -/
def State.holdTile (s : State) (p i : Nat) : State :=
  match (s.wafer p).ptnOfTile i with
  | some q => s.holdPtn p q.slot
  | none => s

/-- HOLD_RELEASE: R61: once the traffic in flight has drained, the paths are those of the amended chart and the partition goes on. -/
def State.holdRelease (s : State) (p slot : Nat) : State :=
  match (s.wafer p).ptnIn slot with
  | none => s
  | some q =>
    match q.amendHold with
    | none => s
    | some t =>
      let mine := inRun p q.first q.count
      let drained : Bool := !(s.net.any fun r => (mine r.core || mine r.home) && r.st == .flying) && !(s.acks.any fun a => mine a.core)
        && !(s.msgs.any fun m => mine m.src || (mine m.dest && m.src < 2^21)) && !(s.notices.any fun n => mine n.src)
        && !(s.steals.any fun r => mine r.thief)
      if drained then (s.shiftTimers p q (holdLength t (if q.pre.saving || q.pre.held then some q.pre.since else none) s.now)).modPtn p slot fun q => { q with amendHold := none } else s

def execHoldRelease (part slot : Nat) (s : State) : Out := .next (s.holdRelease part slot)

/-! ## Ports on a DEAD tile (R22), and a failed Halif link (R439) -/

/-- The partition that uses a Halif port of a part is held. -/
def State.holdUser (s : State) (p n : Nat) : State :=
  match ((s.wafer p).chart.logIsle (n / 4)).bind fun i => (s.wafer p).ptnAt (30 * i) with
  | some q => if q.dom then s.holdPtn p q.slot else s
  | none => s

/-- R439: a link fails: both its ends go down until it trains again, the partitions that use it are held on both parts, and their traffic takes
another isle's port. -/
def State.halifFail (s : State) (p n : Nat) : State :=
  let down (h : Halif) : Halif := { h with up := false, failed := true, carries := false }
  let held (s : State) (r m : Nat) : State := if ((s.wafer r).halif m).carries then s.holdUser r m else s
  let s := held s p n
  let s := match s.peerPort p n with | some (r, m) => held s r m | none => s
  s.modLink p n down

/-- R22: what is attached to a DEAD tile goes out of use. -/
def State.deadPorts (s : State) (p i : Nat) : State :=
  let s := ((List.range 64).filter fun n => straitTile n == i).foldl (fun s n => s.modStrait p n fun t => { t with up := false }) s
  ((List.range 64).filter fun n => halifTile n == i).foldl (fun s n => s.halifFail p n) s

/-! ## Lost logic and lost isles (R58 to R62) -/

/-- R60: the streams a core was attached to fail; with its router, the neighbours' inputs that lead from it do. -/
def State.failStreams (s : State) (c : CoreId) (router : Bool) : State :=
  if router then
    [0, 1, 2, 3, 5, 6, 7, 8].foldl (fun s n =>
      match s.portTo c n with
      | none => s
      | some d => (s.core d).streams.foldl (fun s e =>
          if e.2.valid && e.2.ins.contains (portBack n) then s.markPort d e.1 (portBack n) else s) s) s
  else
    (s.core c).streams.foldl (fun s e => if e.2.valid && e.2.ins.contains 4 then s.markPort c e.1 4 else s) s

/-- R58, R60: a core whose logic is lost: its strands, deque, receive buffer and accumulators are discarded, with all else its logic half
held; its vault stays. The near store and execute bits are there if they can be read, which is a free value (log 13). A saved frame loses
its MAGIC (R413). -/
def State.loseCore (s : State) (c : CoreId) (readable : Bool) : State :=
  let s := s.record c (sysCause 0 3) none 0 0 0
  let s := s.failStreams c (!readable)
  let k := s.core c
  let kept : Bool := readable && Config.freeNat s.draws % 2 == 1
  let z : Core :=
    { Core.formed with
      strands := Vector.replicate 4 { Strand.idle with born := k.seq }, seq := k.seq, sendId := k.sendId
      near := if kept then k.near else [], exec := if kept then k.exec else 0
      vault := k.vault, empty := k.empty, poison := k.poison, vaultUe := k.vaultUe, barmask := k.barmask, arrived := k.arrived
      streams := if readable then k.streams else [], stopped := k.stopped, frameOff := k.frameOff, saved := k.saved,
      incs := k.incs, saveFailed := k.saved }
  let s := { s with draws := s.draws + 1 }.putCore c z
  let s := if k.saved && k.frameAt + frameLen ≤ 0x80000 then s.engineWrite c k.frameAt [0, 0, 0, 0] false else s
  match s.ptnOf c with
  | some q =>
    (match q.pre.exempt with
      | some (d, _) => if d == c then s.modPtn (cPart c) q.slot fun q => { q with pre := { q.pre with exempt := none } } else s
      | none => s)
  | none => s

/-- R62: a physical isle is lost: its partition is torn down, a retained set with it is zeroised, LOSTISLE is set; the numbering stays. -/
def State.loseIsle (s : State) (p isle : Nat) : State :=
  let w := s.wafer p
  let s := match (w.chart.logIsle isle).bind fun i => w.ptnAt (30 * i) with
    | some q => s.teardown p q.slot true
    | none => s
  let s := s.modWafer p fun w => { w with chart := { w.chart with lostisle := w.chart.lostisle ||| BitVec.ofNat 16 (2^isle) } }
  let gone := (s.wafer p).retained.filter fun r => ((s.wafer p).chart.runIsles r.first r.count).contains isle
  gone.foldl (fun s r =>
    (s.wipe p r.first r.count false).modWafer p fun w => { w with retained := w.retained.filter fun x => x != r }) s

/-! ## Amendments (R56 to R58) -/

/-- R56, R396: the amendment at the head of the queue completes, with its record. -/
def State.amended (s : State) (p i : Nat) : State :=
  let s := s.tileRecord p i (sysCause 2 3) 0
  let full : Bool := (s.wafer p).chart.amends == 4096
  let s := if full then s.tileRecord p i (sysCause 3 3) 0 else s
  s.modWafer p fun w => { w with work := w.work.drop 1 }.repass

/-- R396: the record of a link's damage; of a tile that becomes DEAD, each neighbour reports the link that it misses (R52). `was` is the chart
before. -/
def State.linkRecord (s : State) (p i : Nat) (d : Damage) (was : Chart) : State :=
  match d with
  | .router =>
    ((List.range 8).filter fun n => (was.tile i).link n ≠ 3).foldl (fun s n =>
      s.tileRecordFor p (otherEnd i n).1 none (memCause 14 3) 5) s
  | .linkNarrow n | .linkGone n =>
    if ((s.wafer p).chart.tile i).link n == 3 then s.tileRecord p i (memCause 14 3) 5 else s.tileRecord p i (memCause 13 3) 5
  | .linkSlow _ => s.tileRecord p i (memCause 13 3) 0
  | _ => s

/-- R58 step 2, R268: the accesses parked at a moving home lose their park and are answered RETRY. -/
def State.refuseParks (s : State) (h : CoreId) : State :=
  let there := s.parks.filter fun r => r.home == h
  { s with parks := s.parks.filter fun r => r.home ≠ h, net := s.net ++ there.map fun r => { r with st := .retry (s.now + 256) } }

/-- R58 steps 1 to 3: a move begins. -/
def State.beginMove (s : State) (p : Nat) (m : Move) : State :=
  let s := s.modWafer p fun w =>
    { w with chart := w.chart.stamp (w.chart.modTile m.oldTile fun t => { t with moving := true }), moves := w.moves ++ [m] }
  let s := s.refuseParks m.core
  if m.lost then s.loseCore m.core m.near else s

/-- CHART_AMENDMENT: R56, R57: the amendment at the head of the controller's queue is carried out; what it moves is moved by
MOVE_COPY_DONE, and it ends with the last move. -/
def State.amend (s : State) (p : Nat) : State :=
  let w := s.wafer p
  match w.work with
  | .amend d px py :: rest =>
    let i := py % 512 * 512 + px % 512
    if w.power != .run || !w.moves.isEmpty then s
    else if !w.chart.changes d i then s.modWafer p fun w => { w with work := rest }
    else
      let ch := w.chart.stamp (w.chart.damaged d i)
      let full : Bool := w.chart.amends == 4096
      let rs := remedies w.chart ch w p d i
      let s := (s.modWafer p fun w => { w with chart := ch }).linkRecord p i d w.chart
      let dead : Bool := (ch.tile i).cls == .dead
      let gone : Bool := dead || (match d.port with | some n => (ch.tile i).link n == 3 | none => false)
      let s := if dead then s.deadPorts p i else s
      let s := if gone then s.holdTile p i else s
      if full || rs.any (fun r => match r with | .lost => true | _ => false) then (s.loseIsle p (i % 512 / 32)).amended p i
      else
        let s := rs.foldl (fun s r =>
          match r with
          | .causeway j cw =>
            s.modWafer p fun w => { w with chart := w.chart.stamp (w.chart.modTile j fun t => { t with cw := cw }) }
          | .move m => s.beginMove p m
          | .lost => s) s
        if (s.wafer p).moves.isEmpty then s.amended p i else s
  | _ => s

def execChartAmendment (part : Nat) (s : State) : Out := .next (s.amend part)

/-- R58 step 5: the names after a move. -/
def Chart.moved (ch : Chart) (m : Move) : Chart :=
  let t := ch.tile m.oldTile
  let ch := ch.leave m.oldTile
  let ch := ch.modTile m.newTile fun u => { u with named := true, lx := t.lx, ly := t.ly }
  match m.home with
  | some h =>
    let ch := ch.modTile m.newTile fun u => { u with peerx := h.1 % 512, peery := h.1 / 512, cw := h.2 }
    ch.modTile h.1 fun u => { u with home := true, peerx := m.newTile % 512, peery := m.newTile / 512 }
  | none => ch

/-- MOVE_COPY_DONE: R58 steps 4 to 6: blocks that cannot be read arrive poisoned (which, is a free value, log 13), the names are rewritten and
stopped strands go on. -/
def State.moveDone (s : State) (p idx : Nat) : State :=
  let w := s.wafer p
  match w.moves[idx]? with
  | none => s
  | some m =>
    let lostBlocks := if m.copy && m.unread then (List.range 16384).filter fun b => Config.freeNat (s.draws + b) % 2 == 1 else []
    let s := s.modCore m.core fun k =>
      { k with poison := naddAll lostBlocks k.poison, vaultUe := if m.copy then [] else k.vaultUe,
               nearUeSeen := if m.logic then 0 else k.nearUeSeen, barmask := if m.lost then 0 else k.barmask,
               arrived := if m.lost then 0 else k.arrived }
    let s := { s with draws := s.draws + 16384 }
    let s := s.modWafer p fun w => { w with chart := w.chart.stamp (w.chart.moved m), moves := w.moves.eraseIdx idx }
    if (s.wafer p).moves.isEmpty then
      (match (s.wafer p).work with
        | .amend _ px py :: _ => s.amended p (py % 512 * 512 + px % 512)
        | _ => s)
    else s

def execMoveCopyDone (part idx : Nat) (s : State) : Out := .next (s.moveDone part idx)

/-! ## Damage is found (R56, R396) -/

/-- LINK_CRC_EXHAUSTED: CRC retry is exhausted on half the lanes of link 0 to 7 of a tile, or, as 8 to 15, on all of them. -/
def execLinkCrcExhausted (part px py link : Nat) (s : State) : Out :=
  let t := (s.wafer part).chart.tile (py % 512 * 512 + px % 512)
  .next (if 16 ≤ link || t.link (link % 8) == 3 then s
    else s.askAmend part (if 8 ≤ link || t.link link == 1 then .linkGone (link % 8) else .linkNarrow link) (px % 512) (py % 512))

/-- LINK_RETRY_RATE. -/
def execLinkRetryRate (part px py link : Nat) (s : State) : Out :=
  .next (if 8 ≤ link || ((s.wafer part).chart.tile (py % 512 * 512 + px % 512)).link link == 3 then s
    else s.askAmend part (.linkSlow link) (px % 512) (py % 512))

/-- ROUTER_FAILURE. -/
def execRouterFailure (part px py : Nat) (s : State) : Out := .next (s.askAmend part .router (px % 512) (py % 512))

/-- QUAY_FAIL: a quay fails: a record, and its vault half is bad. -/
def execQuayFail (part px py : Nat) (s : State) : Out :=
  .next ((s.tileRecord part (py % 512 * 512 + px % 512) (memCause 15 3) 0).askAmend part .vaultHalf (px % 512) (py % 512))

/-- BARRIER_WIRE: a barrier wire fails its check: a record, and an amendment. -/
def execBarrierWire (part px py : Nat) (s : State) : Out :=
  .next ((s.tileRecord part (py % 512 * 512 + px % 512) (msgCause 14 3) 0).askAmend part .wire (px % 512) (py % 512))

/-- STEAL_LANE: likewise a steal lane. -/
def execStealLane (part px py : Nat) (s : State) : Out :=
  .next ((s.tileRecord part (py % 512 * 512 + px % 512) (msgCause 15 3) 0).askAmend part .wire (px % 512) (py % 512))

end Sys2Proof.Machine
end

