-- ==== Sys2Proof/Machine/Power.lean ====
section
/-!
DEFINITION. Power-on and the boot ROM, power-off, the clock and the sensors (R32, R430, R431, R440 to R442), Halif links (R436 to R439),
and changes of what surrounds a part.
-/
namespace Sys2Proof.Machine

/-! ## Power-on and power-off (R430, R431, R440) -/

/-- R62: at a reset, names skip the isles lost since; a listed tile keeps its place within its isle row, and one of a lost isle is no named
tile, no orphan and no home. GENSET of every entry that this changes becomes GEN (R41). -/
def Chart.renumbered (ch : Chart) : Chart :=
  let n : Chart := { ch with numbering := ch.lostisle, passisle := 0 }
  let name (i : Nat) (t : Tile) : Tile :=
    let u : Tile := { t with moving := false }
    match n.logIsle (i % 512 / 32) with
    | some j => if u.named then { u with lx := 30 * j + u.lx % 30 } else u
    | none => { u with named := false, lx := 0, ly := 0, home := false, peerx := 0, peery := 0, cw := [] }
  let gens := (List.range 16).foldl (fun l j => if n.logIsle j = ch.logIsle j then l else tset ch.gen j l) ch.isleGen
  ch.stamp { n with tiles := n.tiles.map fun p => (p.1, name p.1 p.2), isleGen := gens }

/-- What flash and fuses keep; the secret can be read by the boot ROM again (R431). -/
def Boot.cold (b : Boot) : Boot := { b with locked := false, fwmeas := 0, idPub := 0, attKey := 0, attCert := [] }

/-- R440: a part without its SRAM: flash, fuses, the chart and what is attached to its ports stay. Of an amendment that the loss of power cuts
short the record and the damage stay, and what it had yet to do is gone (log 108). -/
def Wafer.cold (w : Wafer) (pw : Power) : Wafer :=
  let bare (t : Nat × Strait) : Nat × Strait := (t.1, { t.2 with up := false, rate := false, width := 0, ide := false, decoders := [], tlb := [], slots := [] })
  { Wafer.reset with
    power := pw, chart := w.chart.renumbered, boot := w.boot.cold, straits := w.straits.map bare
    halifs := w.halifs.map fun h => (h.1, { Halif.off with cableGen := h.2.cableGen }), far := w.far, farBad := w.farBad
    plant := { Wafer.reset.plant with readings := w.plant.readings, power := w.plant.power } }

/-- R430, R431: what the boot ROM computes: whether the firmware is accepted, its digest, and the two key pairs; the identity key's private
scalar signs the attestation key's certificate and is gone with the ROM, which locks the secret. What the certificate holds beside the
signature, and the signature's nonce, are free values (log 97). -/
def Boot.start (b : Boot) (draw : Nat) : Bool × Boot :=
  let m := Crypto.sha384 b.image
  let key := Crypto.beBytes b.vendorKey.toNat 97
  let ok := Crypto.sha384 key == Crypto.beBytes b.vendorHash.toNat 48
    && Crypto.verify (Crypto.readPoint key) m (Crypto.beBytes b.sig.toNat 96) && b.minSvn ≤ b.svn
  let secret := Crypto.beBytes b.secret.toNat 32
  let ident := Crypto.scalarOf (Crypto.hkdf [] secret [0x01] 56)
  let att := Crypto.scalarOf (Crypto.hkdf m secret [0x02] 56)
  let pub (d : Nat) : List Byte := Crypto.pointBytes (Crypto.mulPoint 384 d Crypto.base)
  let body := (Crypto.beBytes (Config.certBody (Crypto.beNat (pub att))) (Config.certLength draw))
  let cert := body ++ Crypto.sign ident (Config.freeNat draw % (Crypto.order - 1) + 1) body
  let b := { b.cold with fwmeas := BitVec.ofNat 384 (Crypto.beNat m) }
  (ok, if ok then
         { b with idPub := BitVec.ofNat 776 (Crypto.beNat (pub ident)), attKey := BitVec.ofNat 384 att, attCert := cert, locked := true }
       else b)

/-- POWER_ON: the module is powered and its boot ROM runs, and the firmware, which expands the chart; a failure leaves it in recovery, where function 0 answers BOOTFAIL. -/
def State.powerOn (s : State) (p : Nat) : State :=
  let w := s.wafer p
  if w.power == .off || w.power == .boot then
    let r := w.boot.start s.draws
    let s := { s with draws := s.draws + 1 }
    if r.1 then s.putWafer p (Wafer.booted { w.cold .run with boot := r.2 })
    else s.putWafer p { w.cold .recovery with boot := r.2, pages := Vector.replicate 2 ⟨6, 0, 0, [], []⟩ }
  else s

def execPowerOn (part : Nat) (s : State) : Out := .next (s.powerOn part)

/-- R442: far lines being written when power goes may be left half written, not poisoned; which, and how much, are free values (log 12). -/
def State.tornLines (s : State) (q : Ptn) (m : FarCmd) : State :=
  let p := cPart m.core
  let s' := (List.range (farCount m.kind m.spb)).foldl (fun s n =>
    let v := Config.freeNat (s.draws + n)
    if v % 2 == 0 || !m.underWay n then s
    else
      match s.lineOut q m (m.part n) with
      | .ok (_, pa, key, d, _) => s.farWrite p (pa / 64) key (patch ((s.wafer p).farRead (pa / 64) key).1 0 (v / 2 % 65) d) false
      | .error _ => s) s
  { s' with draws := s'.draws + farCount m.kind m.spb }

/-- R440: module power goes, with no teardown; every SRAM is lost. -/
def State.powerOff (s : State) (p : Nat) : State :=
  let s := (s.fars.filter fun m => cPart m.core == p).foldl (fun s m =>
    match s.ptnOf m.core with | some q => s.tornLines q m | none => s) s
  let s := (s.wafer p).halifs.foldl (fun s h => if h.2.up then s.halifFail p h.1 else s) s
  let s := s.purge p 0 18
  { s with cores := s.cores.filter fun c => cPart c.1 ≠ p }.modWafer p fun w => w.cold .off

/-- MODULE_POWER_LOSS. -/
def execModulePowerLoss (part : Nat) (s : State) : Out := .next (s.powerOff part)

/-! ## Clock and sensors (R32, R441, R442) -/

/-- R441: the clock goes down one step, to the floor of 750 MHz, or up one, each step with a record. -/
def State.slower (s : State) (p : Nat) (byLimit : Bool) : State :=
  let w := s.wafer p
  if w.plant.clock ≤ 8 then s
  else
    (s.modWafer p fun w => { w with plant := { w.plant with clock := w.plant.clock - 1, throttled := w.plant.throttled || byLimit } }).partRecord p
      none (sysCause 13 3)

def State.faster (s : State) (p : Nat) : State :=
  let w := s.wafer p
  if 16 ≤ w.plant.clock then s
  else
    (s.modWafer p fun w =>
      { w with plant := { w.plant with clock := w.plant.clock + 1, throttled := w.plant.throttled && w.plant.clock + 1 ≠ 16 } }).partRecord p none
      (sysCause 13 3)

/-- POWER_WINDOW: R441: a window of 96,000 cycles ends. -/
def execPowerWindow (part : Nat) (s : State) : Out :=
  let w := s.wafer part
  .next (if w.power != .run then s
    else if w.plant.plimit < w.plant.power then s.slower part true
    else if 100 * w.plant.power < 95 * w.plant.plimit then s.faster part
    else s)

/-- CURRENT_LIMIT: R32: the module current limit is reached. -/
def execCurrentLimit (part : Nat) (s : State) : Out := .next (if (s.wafer part).power == .run then s.slower part false else s)

/-- R422: the bytes of the SENSORS response that a sensor fills; the others read as zero. -/
def sensed (off : Nat) : Bool := (0x800 ≤ off && off < 0x8A6) || (0x8C0 ≤ off && off < 0x8E0)

/-- R422, R442: a sensor, 0 to 63 logic wafer, 64 to 79 memory wafer, 80 coolant inlet, 81 outlet, 82 flow, 83 to 90 rails, has passed its
throttle limit, or its power-off limit. -/
def Plant.past (g : Plant) (n : Nat) (off : Bool) : Bool :=
  let temp (o t u : Nat) : Bool := decide (((16 * (if off then u else t) : Nat) : Int) ≤ sx 16 (g.readings.le o 2))
  if n < 64 then temp (0x800 + 2 * n) 95 105
  else if n < 80 then temp (0x880 + 2 * (n - 64)) 90 100
  else if n == 80 then temp 0x8A0 45 50
  else if n == 82 then g.readings.le 0x8A4 2 < 64 * (if off then 16 else 24)
  else if 83 ≤ n && n ≤ 90 && off then
    let v := g.readings.le (0x8C0 + 4 * (n - 83)) 2
    let r := Config.railNominal (n - 83)
    105 * r < 100 * v || 100 * v < 95 * r
  else false

/-- SENSOR_THROTTLE: R442. -/
def execSensorThrottle (part sensor : Nat) (s : State) : Out :=
  let w := s.wafer part
  .next (if w.power == .run && w.plant.past sensor false then (s.slower part false).partRecord part none (sysCause 15 3) else s)

/-- SENSOR_POWER_OFF: R442. -/
def execSensorPowerOff (part sensor : Nat) (s : State) : Out :=
  let w := s.wafer part
  .next (if w.power == .run && w.plant.past sensor true then s.powerOff part else s)

/-! ## Halif links (R436 to R439) -/

/-- HALIF_LINK_TRAIN: a link trains with the peer R437 expects, of the same domain, at the highest rate both ends and the cable have; not at
a DEAD tile (R22). -/
def execHalifLinkTrain (part port : Nat) (s : State) : Out :=
  let w := s.wafer part
  .next (
    match s.peerPort part port with
    | some (r, m) =>
      let gen := Nat.min (w.halif port).cableGen ((s.wafer r).halif m).cableGen
      if port < 64 && (gen == 1 || gen == 2) && w.tileRuns (halifTile port) && (s.wafer r).tileRuns (halifTile m) then
        (s.modLink part port fun h => { h with up := true, gen := gen, half := false, failed := false }).confirm part port
      else s
    | none => s)

/-- HALIF_PEER_CONFIRMATION. -/
def execHalifPeerConfirmation (part port : Nat) (s : State) : Out := .next (if port < 64 then s.confirm part port else s)

/-- HALIF_LANE_LOSS: R438. -/
def execHalifLaneLoss (part port : Nat) (s : State) : Out :=
  .next (if ((s.wafer part).halif port).up then s.modLink part port fun h => { h with half := true } else s)

/-- HALIF_LINK_FAIL: R439. -/
def execHalifLinkFail (part port : Nat) (s : State) : Out :=
  .next (if ((s.wafer part).halif port).up then s.halifFail part port else s)

/-! ## What surrounds a part -/

/-- A sensor's reading changes, 16 bits at its offset of the SENSORS response; offset 0 is the average module power. -/
def State.sense (s : State) (p off v : Nat) : State :=
  let f (g : Plant) : Plant :=
    if off == 0 then { g with power := v }
    else if sensed off && sensed (off + 1) then { g with readings := g.readings.putLe off 2 v } else g
  s.modWafer p fun w => { w with plant := f w.plant }

/-- A device is attached to a strait, or taken away. -/
def State.attach (s : State) (p j : Nat) (ok rate : Bool) (width : Nat) (ide : Bool) (extents : List (Nat × Nat)) : State :=
  (s.modStrait p j fun t => { t with devOk := ok, devRate := rate, devWidth := width, devIde := ide, extents := extents }).modWafer p Wafer.booted

/-- R369, R380: how the device at a strait answers for a far line. -/
def State.deviceLine (s : State) (p j n kind : Nat) : State :=
  let s := s.modStrait p j fun t => { t with faulty := if kind == 1 then nadd n t.faulty else ndel n t.faulty }
  s.modWafer p fun w => { w with farBad := if kind == 2 then nadd n w.farBad else w.farBad }

/-- A Halif port is cabled: the highest generation that it and the cable support; 0 for no cable. -/
def State.cable (s : State) (p n gen : Nat) : State := s.modHalif p n fun h => { h with cableGen := gen }

end Sys2Proof.Machine
end

