-- ==== Sys2Proof/Machine/Host.lean ====
section
/-!
DEFINITION. The host's two functions (R420 to R422, R428): the commands of the management function, attestation and keys (R432 to R435), and
the registers a host reads and writes.
-/
namespace Sys2Proof.Machine
open Crypto (beNat beBytes)

/-! ## Commands (R420 to R422) -/

/-- What a command ends with: the state, STATUS and RESP. -/
abbrev Answer := State × Nat × Memory

/-- R420, R421: the command at the head of the controller's queue is carried out, while no move is under way; it ends with its status,
its response and MSI-X vector 0. -/
def State.command (s : State) (p code : Nat) (f : CmdPage → State → Answer) : State :=
  let w := s.wafer p
  match w.work with
  | .cmd port n :: _ =>
    if n ≠ code || w.power != .run || !w.moves.isEmpty then s
    else
      let r := f (vget w.pages port.toNat) s
      let s := r.1.modWafer p fun w =>
        { w with work := w.work.drop 1,
                 pages := vset w.pages port.toNat { vget w.pages port.toNat with status := BitVec.ofNat 4 r.2.1, resp := r.2.2 } }
      s.msix p port 0
  | _ => s

/-- R422: the slot argument. -/
def CmdPage.slot (g : CmdPage) : Nat := bits (g.args.le 0x100 1) 0 4

/-- FORM: R423, R424. -/
def execForm (part : Nat) (s : State) : Out :=
  .next (s.command part 1 fun g s =>
    let a := g.args.le 0x100 2
    let first := bits a 0 4
    let count := bits a 4 5
    let slot := bits a 9 4
    let w := s.wafer part
    let meets (f n : Nat) : Bool := f < first + count && first < f + n
    let discard := a.testBit 14
    if count == 0 || w.chart.isleCount < first + count || (a.testBit 13 && w.nparts == 0)
        || (w.chart.runIsles first count).any (fun j => w.chart.lostisle.getLsbD j) then (s, 1, [])
    else if (w.ptnIn slot).isSome then (s, 3, [])
    else if w.ptns.any (fun q => meets q.first q.count)
        || (!discard && w.retained.any fun r => meets r.first r.count && !(r.slot == slot && r.first == first && r.count == count)) then (s, 2, [])
    else (s.formRun part first count slot (a.testBit 13) (a.testBit 15) discard, 0, []))

/-- TEARDOWN: R425, R426. -/
def execTeardown (part : Nat) (s : State) : Out :=
  .next (s.command part 2 fun g s =>
    let w := s.wafer part
    if (w.ptnIn g.slot).isSome then (s.teardown part g.slot false, 0, [])
    else
      match w.retained.find? fun r => r.slot == g.slot with
      | some r =>
        if (g.args.le 0x100 1).testBit 4 then
          ((s.wipe part r.first r.count false).modWafer part fun w => { w with retained := w.retained.filter fun x => x != r }, 0, [])
        else (s, 3, [])
      | none => (s, 3, []))

/-- PREEMPT: the Grefiest request of R401. -/
def execPreempt (part : Nat) (s : State) : Out :=
  .next (s.command part 3 fun g s =>
    if ((s.wafer part).ptnIn g.slot).isSome then (s.request part g.slot none, 0, []) else (s, 3, []))

/-- RESUME: the Grefiest write of RES, which acts while the partition is held with no exempt strand (R410). -/
def execResume (part : Nat) (s : State) : Out :=
  .next (s.command part 4 fun g s =>
    match (s.wafer part).ptnIn g.slot with
    | some q => (if q.pre.exempt.isNone then s.resume part g.slot else s, 0, [])
    | none => (s, 3, []))

/-- DOMAIN: R436. -/
def execDomain (part : Nat) (s : State) : Out :=
  .next (s.command part 8 fun g s =>
    let a := g.args.le 0x108 2
    let n := bits a 0 4
    if n == 0 || 8 < n || n ≤ bits a 8 3 then (s, 1, [])
    else (s.modWafer part fun w => { w with domid := BitVec.ofNat 64 (g.args.le 0x100 8), nparts := n, pidx := bits a 8 3 }, 0, []))

/-- R422: the place in the kept log of the first record LOGREAD returns: a number that has been overwritten starts at the oldest record, one
that has not been logged yet returns none. -/
def Wafer.logFrom (w : Wafer) (first : Nat) : Nat :=
  let back := (w.logged - BitVec.ofNat 32 first).toNat
  if back ≤ w.log.length then w.log.length - back else if back < 2^31 then 0 else w.log.length

/-- LOGREAD. -/
def execLogread (part : Nat) (s : State) : Out :=
  .next (s.command part 9 fun g s =>
    let w := s.wafer part
    let rs := (w.log.drop (w.logFrom (g.args.le 0x100 4))).take 64
    let set (h : CmdPage) : CmdPage := { h with lhead := w.logged, lcount := rs.length }
    let port := match w.work with | .cmd b _ :: _ => b | _ => false
    (s.modWafer part fun w => { w with pages := vset w.pages port.toNat (set (vget w.pages port.toNat)) }, 0,
      (rs.mapIdx fun n r => (n, r)).foldl (fun m x => m.putLe (0x800 + 32 * x.1) 32 x.2.toNat) []))

/-- SENSORS: R422, R442. -/
def execSensors (part : Nat) (s : State) : Out :=
  .next (s.command part 10 fun _ s =>
    let g := (s.wafer part).plant
    let holds := (List.range 91).any fun n => g.past n false
    (s, 0, Memory.putLe (g.readings.filter fun c => sensed c.1) 0x8E0 4
      (flag holds 0 + flag g.throttled 1 + g.clock * 2^4)))

/-- PLIMIT: R441. -/
def execPlimit (part : Nat) (s : State) : Out :=
  .next (s.command part 11 fun g s =>
    let v := g.args.le 0x100 2
    if v < 5000 || 30000 < v then (s, 1, [])
    else (s.modWafer part fun w => { w with plant := { w.plant with plimit := v } }, 0, []))

/-! ## Attestation (R432, R433) -/

/-- The bytes of the expanded chart. -/
def Chart.bytes (ch : Chart) : List Byte := (List.range 0x80004).flatMap fun n => leBytes (ch.word (8 * n)) 8

/-- The launch that runs under a slot: its record. -/
def Wafer.running (w : Wafer) (q : Ptn) : Option (BitVec 1024) :=
  let m := vget w.mail q.slot
  if m.st == 3 then some m.lcopy else none

/-- R433: a slot entry. -/
def Wafer.slotEntry (w : Wafer) (n : Nat) : Nat :=
  let mask (first count : Nat) : Nat := (w.chart.runIsles first count).foldl (fun a j => a + 2^j) 0
  match w.ptnIn n, w.retained.find? fun r => r.slot == n with
  | some q, _ =>
    let run := w.running q
    let id := match run with | some r => bits r.toNat 0 32 | none => 0
    let succ : Option Nat := match run, q.kept with
      | some r, _ => if r.getLsbD (64 * 11 + 32) then some (bits r.toNat (64 * 11) 32) else none
      | none, some k => some k.toNat
      | none, none => none
    (if q.pre.held then 2 else 1) + flag q.dom 3 + q.first * 2^4 + q.count * 2^8 + mask q.first q.count * 2^16 + id * 2^32
      + succ.getD 0 * 2^64 + flag succ.isSome 96
  | none, some r => 3 + r.first * 2^4 + r.count * 2^8 + mask r.first r.count * 2^16 + r.succ.toNat * 2^64 + 2^96
  | none, none => 0

/-- The load count and key states of a slot. -/
def Wafer.keyEntry (w : Wafer) (n : Nat) : Nat :=
  match w.ptnIn n with
  | some q => (List.range 4).foldl (fun a k => a + (q.key k).st.code * 4^k) 0 + q.loads.toNat * 2^32
  | none => 0

/-- R432: the report up to its signature. -/
def Wafer.report (w : Wafer) (nonce pub : List Byte) : List Byte :=
  let ch := w.chart
  leBytes 0x41545452 4 ++ leBytes 1 4 ++ nonce ++ beBytes w.boot.fwmeas.toNat 48 ++ Crypto.sha384 w.boot.supImage ++ Crypto.sha384 ch.bytes
    ++ leBytes ch.gen.toNat 4 ++ leBytes (ch.fgrade + ch.cgrade * 2^8 + flag (ch.cgrade < ch.fgrade) 16 + w.boot.svn % 2^8 * 2^24) 4
    ++ leBytes (if w.nparts = 0 then 0 else w.domid.toNat) 8 ++ leBytes (w.pidx + (w.nparts - 1) * 2^4) 8
    ++ ((List.range 16).flatMap fun n => leBytes (w.slotEntry n) 16) ++ ((List.range 16).flatMap fun n => leBytes (w.keyEntry n) 8)
    ++ pub ++ List.replicate 7 0

/-- ATTEST: R432, R434: a new ephemeral key pair, and the report, signed with the attestation key. The private scalar and the signature's
nonce are free values (log 15). -/
def execAttest (part : Nat) (s : State) : Out :=
  .next (s.command part 5 fun g s =>
    let w := s.wafer part
    let pick (n : Nat) : Nat := Config.freeNat (s.draws + n) % (Crypto.order - 1) + 1
    let nonce := g.args.readN 0x100 48
    let pub := Crypto.pointBytes (Crypto.mulPoint 384 (pick 0) Crypto.base)
    let r := w.report nonce pub
    let eph := (BitVec.ofNat 384 (pick 0), BitVec.ofNat 776 (beNat pub), BitVec.ofNat 384 (beNat nonce))
    ({ s with draws := s.draws + 2 }.modWafer part fun w => { w with eph := some eph }, 0,
      Memory.writeN [] 0x800 (r ++ Crypto.sign w.boot.attKey.toNat (pick 1) r)))

/-! ## Matter keys (R434, R435) -/

def Ptn.setKey (q : Ptn) (k : Nat) (v : Key) : Ptn := { q with keys := vset q.keys k v }

/-- KEYLOAD: R434. -/
def execKeyload (part : Nat) (s : State) : Out :=
  .next (s.command part 6 fun g s =>
    let w := s.wafer part
    let k := bits (g.args.le 0x100 1) 4 2
    match Crypto.readPoint (g.args.readN 0x108 97) with
    | none => (s, 1, [])
    | some pt =>
      match w.eph with
      | none => (s, 5, [])
      | some e =>
        match w.ptnIn g.slot with
        | none => (s, 3, [])
        | some q =>
          if (q.key k).st == .loaded then (s, 3, [])
          else
            let z := match Crypto.mulPoint 384 e.1.toNat (some pt) with | some (x, _) => beBytes x 48 | none => []
            let kek := Crypto.hkdf (beBytes e.2.2.toNat 48) z [BitVec.ofNat 8 g.slot, BitVec.ofNat 8 k] 32
            match Crypto.unwrap kek (g.args.readN 0x170 72) with
            | none => (s, 4, [])
            | some v =>
              if v.take 32 == v.drop 32 then (s, 4, [])
              else
                (s.modPtn part g.slot fun q => { q.setKey k ⟨.loaded, BitVec.ofNat 512 (leNat v)⟩ with loads := q.loads + 1 }, 0, []))

/-- KEYREVOKE: R435. -/
def execKeyrevoke (part : Nat) (s : State) : Out :=
  .next (s.command part 7 fun g s =>
    let k := bits (g.args.le 0x100 1) 4 2
    match (s.wafer part).ptnIn g.slot with
    | some q => (if (q.key k).st == .loaded then s.modPtn part g.slot fun q => q.setKey k ⟨.revoked, (q.key k).value⟩ else s, 0, [])
    | none => (s, 0, []))

/-! ## Reads and writes of the host (R420, R421, R428) -/

/-- R420: a mailbox page belongs to the host port of the slot's last partition; before any, to both (log 131). -/
def Wafer.mailFor (w : Wafer) (port : Bool) (page : Nat) : Bool := match (vget w.mail page).owner with | some b => b == port | none => page < 16

/-- R430: a host port reaches the part's functions: once it can enumerate them, or in recovery function 0 (log 132). -/
def Wafer.answers (w : Wafer) (fn : Nat) : Bool := (w.power == .run && w.ready) || (w.power == .recovery && fn == 0)

/-- The 64-bit word a host port reads in BAR0 of a function. -/
def State.hostRead (s : State) (p : Nat) (port : Bool) (fn off : Nat) : Nat :=
  let w := s.wafer p
  if !w.answers fn then 0
  else if fn == 0 then
    let g := vget w.pages port.toNat
    if 0x100 ≤ off && off < 0x800 then g.args.le off 8
    else if 0x800 ≤ off && off < 0x1000 then g.resp.le off 8
    else match off with
      | 0x008 => g.status.toNat
      | 0x010 => g.lhead.toNat + g.lcount * 2^32
      | _ => 0
  else if w.mailFor port (off / 0x1000) then (w.mailShown (off / 0x1000)).read (off % 0x1000) false
  else 0

/-- R421: a write of the command page: CMD starts a command unless one runs; a code that names none ends at once with BADARG. -/
def State.pageWrite (s : State) (p : Nat) (port : Bool) (off : Nat) (v : Word) : State :=
  let g := vget (s.wafer p).pages port.toNat
  let put (g : CmdPage) (s : State) : State := s.modWafer p fun w => { w with pages := vset w.pages port.toNat g }
  if off == 0 then
    let code := bits v.toNat 0 8
    if g.status == 15 then s
    else if 1 ≤ code && code ≤ 11 then
      put { g with status := 15 } (s.modWafer p fun w => { w with work := w.work ++ [.cmd port code] })
    else (put { g with status := 1, resp := [] } s).msix p port 0
  else if 0x100 ≤ off && off < 0x800 then put { g with args := g.args.writeN off (leBytes v.toNat 8) } s
  else s

/-- R428: a write of a mailbox page by the host. -/
def State.mailWrite (s : State) (p slot off : Nat) (v : Word) : State :=
  let put (f : Mailbox → Mailbox) : State := s.modWafer p fun w => { w with mail := vset w.mail slot (f (vget w.mail slot)) }
  if off < 0x80 then put fun m => { m with launch := put1024 m.launch (off / 8) v }
  else match off with
    | 0x80 =>
      (match bits v.toNat 0 2 with
        | 1 => s.doorbell p slot
        | 2 => (match execDoorbellSignal p slot s with | .next t => t | _ => s)
        | _ => s)
    | 0x88 => put fun m => { m with sigword := v }
    | 0x90 => put fun m => { m with ovr := m.ovr && !v.getLsbD 3 }
    | _ => s

/-- R420: a host port writes 64 bits at an 8-aligned offset of BAR0 of a function. -/
def State.hostWrite (s : State) (p : Nat) (port : Bool) (fn off : Nat) (v : Word) : State :=
  let w := s.wafer p
  if w.power != .run || !w.answers fn || off % 8 ≠ 0 then s
  else if fn == 0 then s.pageWrite p port off v
  else if fn == 1 && w.mailFor port (off / 0x1000) && off < 0x10000 then s.mailWrite p (off / 0x1000) (off % 0x1000) v
  else s

end Sys2Proof.Machine
end

