-- ==== Sys2Proof/Machine/Dispatch.lean ====
section
/-!
DEFINITION. One arm per row of the opcode table: each calls its meaning.
-/
namespace Sys2Proof.Machine

def exec (i : Instr) (s : State) : Host.Outcome State Fault Refusal :=
  match i with
  | .add d a b w => Sys2Proof.Machine.execAdd d a b w s
  | .sub d a b w => Sys2Proof.Machine.execSub d a b w s
  | .and d a b w => Sys2Proof.Machine.execAnd d a b w s
  | .or d a b w => Sys2Proof.Machine.execOr d a b w s
  | .xor d a b w => Sys2Proof.Machine.execXor d a b w s
  | .andn d a b w => Sys2Proof.Machine.execAndn d a b w s
  | .orn d a b w => Sys2Proof.Machine.execOrn d a b w s
  | .sll d a b w => Sys2Proof.Machine.execSll d a b w s
  | .srl d a b w => Sys2Proof.Machine.execSrl d a b w s
  | .sra d a b w => Sys2Proof.Machine.execSra d a b w s
  | .rol d a b w => Sys2Proof.Machine.execRol d a b w s
  | .ror d a b w => Sys2Proof.Machine.execRor d a b w s
  | .mul d a b w => Sys2Proof.Machine.execMul d a b w s
  | .mulh d a b w => Sys2Proof.Machine.execMulh d a b w s
  | .mulhu d a b w => Sys2Proof.Machine.execMulhu d a b w s
  | .div d a b w => Sys2Proof.Machine.execDiv d a b w s
  | .divu d a b w => Sys2Proof.Machine.execDivu d a b w s
  | .rem d a b w => Sys2Proof.Machine.execRem d a b w s
  | .remu d a b w => Sys2Proof.Machine.execRemu d a b w s
  | .min d a b w => Sys2Proof.Machine.execMin d a b w s
  | .max d a b w => Sys2Proof.Machine.execMax d a b w s
  | .minu d a b w => Sys2Proof.Machine.execMinu d a b w s
  | .maxu d a b w => Sys2Proof.Machine.execMaxu d a b w s
  | .slt d a b w => Sys2Proof.Machine.execSlt d a b w s
  | .sltu d a b w => Sys2Proof.Machine.execSltu d a b w s
  | .clz d a w => Sys2Proof.Machine.execClz d a w s
  | .ctz d a w => Sys2Proof.Machine.execCtz d a w s
  | .popc d a w => Sys2Proof.Machine.execPopc d a w s
  | .sext d a b w => Sys2Proof.Machine.execSext d a b w s
  | .zext d a b w => Sys2Proof.Machine.execZext d a b w s
  | .brev d a w => Sys2Proof.Machine.execBrev d a w s
  | .addi d a i1 => Sys2Proof.Machine.execAddi d a i1 s
  | .andi d a i1 => Sys2Proof.Machine.execAndi d a i1 s
  | .ori d a i1 => Sys2Proof.Machine.execOri d a i1 s
  | .xori d a i1 => Sys2Proof.Machine.execXori d a i1 s
  | .slli d a n => Sys2Proof.Machine.execSlli d a n s
  | .srli d a n => Sys2Proof.Machine.execSrli d a n s
  | .srai d a n => Sys2Proof.Machine.execSrai d a n s
  | .slti d a i1 => Sys2Proof.Machine.execSlti d a i1 s
  | .lui d i1 => Sys2Proof.Machine.execLui d i1 s
  | .addpc d i1 => Sys2Proof.Machine.execAddpc d i1 s
  | .gaddr d a b => Sys2Proof.Machine.execGaddr d a b s
  | .gcoord d a => Sys2Proof.Machine.execGcoord d a s
  | .gnbr d a n => Sys2Proof.Machine.execGnbr d a n s
  | .gself d => Sys2Proof.Machine.execGself d s
  | .bfx d a s1 w l => Sys2Proof.Machine.execBfx d a s1 w l s
  | .bfi d a w l => Sys2Proof.Machine.execBfi d a w l s
  | .sel d a b c k => Sys2Proof.Machine.execSel d a b c k s
  | .beq a b d => Sys2Proof.Machine.execBeq a b d s
  | .bne a b d => Sys2Proof.Machine.execBne a b d s
  | .blt a b d => Sys2Proof.Machine.execBlt a b d s
  | .bge a b d => Sys2Proof.Machine.execBge a b d s
  | .bltu a b d => Sys2Proof.Machine.execBltu a b d s
  | .bgeu a b d => Sys2Proof.Machine.execBgeu a b d s
  | .j d => Sys2Proof.Machine.execJ d s
  | .jal d => Sys2Proof.Machine.execJal d s
  | .jalr d a i1 => Sys2Proof.Machine.execJalr d a i1 s
  | .loop n a len => Sys2Proof.Machine.execLoop n a len s
  | .loopq n a b len tag => Sys2Proof.Machine.execLoopq n a b len tag s
  | .fadd d a b r x p => Sys2Proof.Machine.execFadd d a b r x p s
  | .fsub d a b r x p => Sys2Proof.Machine.execFsub d a b r x p s
  | .fmul d a b r x p => Sys2Proof.Machine.execFmul d a b r x p s
  | .fdiv d a b r p => Sys2Proof.Machine.execFdiv d a b r p s
  | .fsqrt d a r p => Sys2Proof.Machine.execFsqrt d a r p s
  | .fmin d a b p => Sys2Proof.Machine.execFmin d a b p s
  | .fmax d a b p => Sys2Proof.Machine.execFmax d a b p s
  | .fcmp d a b p => Sys2Proof.Machine.execFcmp d a b p s
  | .fclass d a p => Sys2Proof.Machine.execFclass d a p s
  | .fma d a b c r p => Sys2Proof.Machine.execFma d a b c r p s
  | .fcvt d a r f t => Sys2Proof.Machine.execFcvt d a r f t s
  | .ld d a z i1 => Sys2Proof.Machine.execLd d a z i1 s
  | .st d a z i1 => Sys2Proof.Machine.execSt d a z i1 s
  | .lda d a z i1 => Sys2Proof.Machine.execLda d a z i1 s
  | .stl d a z i1 => Sys2Proof.Machine.execStl d a z i1 s
  | .ldfe d a i1 => Sys2Proof.Machine.execLdfe d a i1 s
  | .ldfeE d a i1 => Sys2Proof.Machine.execLdfeE d a i1 s
  | .stfe d a i1 => Sys2Proof.Machine.execStfe d a i1 s
  | .stfeF d a i1 => Sys2Proof.Machine.execStfeF d a i1 s
  | .ldv d a z i1 => Sys2Proof.Machine.execLdv d a z i1 s
  | .stv d a z i1 => Sys2Proof.Machine.execStv d a z i1 s
  | .ldvs d a z i1 => Sys2Proof.Machine.execLdvs d a z i1 s
  | .stvs d a z i1 => Sys2Proof.Machine.execStvs d a z i1 s
  | .ldvg d a z i1 => Sys2Proof.Machine.execLdvg d a z i1 s
  | .stvx d a z i1 => Sys2Proof.Machine.execStvx d a z i1 s
  | .amoAdd d a b z => Sys2Proof.Machine.execAmoAdd d a b z s
  | .amoSub d a b z => Sys2Proof.Machine.execAmoSub d a b z s
  | .amoAnd d a b z => Sys2Proof.Machine.execAmoAnd d a b z s
  | .amoOr d a b z => Sys2Proof.Machine.execAmoOr d a b z s
  | .amoXor d a b z => Sys2Proof.Machine.execAmoXor d a b z s
  | .amoMin d a b z => Sys2Proof.Machine.execAmoMin d a b z s
  | .amoMax d a b z => Sys2Proof.Machine.execAmoMax d a b z s
  | .amoMinu d a b z => Sys2Proof.Machine.execAmoMinu d a b z s
  | .amoMaxu d a b z => Sys2Proof.Machine.execAmoMaxu d a b z s
  | .amoSwap d a b z => Sys2Proof.Machine.execAmoSwap d a b z s
  | .amoAddsat d a b z => Sys2Proof.Machine.execAmoAddsat d a b z s
  | .amoFadd d a b z => Sys2Proof.Machine.execAmoFadd d a b z s
  | .amoBfadd d a b z => Sys2Proof.Machine.execAmoBfadd d a b z s
  | .cas d a b c z => Sys2Proof.Machine.execCas d a b c z s
  | .amov a b g t => Sys2Proof.Machine.execAmov a b g t s
  | .amovR d a b g t => Sys2Proof.Machine.execAmovR d a b g t s
  | .fence s1 e f r q => Sys2Proof.Machine.execFence s1 e f r q s
  | .pbwait a f => Sys2Proof.Machine.execPbwait a f s
  | .rdpb d s1 => Sys2Proof.Machine.execRdpb d s1 s
  | .vadd d a b g t => Sys2Proof.Machine.execVadd d a b g t s
  | .vsub d a b g t => Sys2Proof.Machine.execVsub d a b g t s
  | .vmul d a b g t => Sys2Proof.Machine.execVmul d a b g t s
  | .vma d a b g t => Sys2Proof.Machine.execVma d a b g t s
  | .vms d a b g t => Sys2Proof.Machine.execVms d a b g t s
  | .vmin d a b g t => Sys2Proof.Machine.execVmin d a b g t s
  | .vmax d a b g t => Sys2Proof.Machine.execVmax d a b g t s
  | .vabs d a g t => Sys2Proof.Machine.execVabs d a g t s
  | .vneg d a g t => Sys2Proof.Machine.execVneg d a g t s
  | .vand d a b g => Sys2Proof.Machine.execVand d a b g s
  | .vor d a b g => Sys2Proof.Machine.execVor d a b g s
  | .vxor d a b g => Sys2Proof.Machine.execVxor d a b g s
  | .vshl d a b g t => Sys2Proof.Machine.execVshl d a b g t s
  | .vshr d a b g t => Sys2Proof.Machine.execVshr d a b g t s
  | .vcmp c p a b g t => Sys2Proof.Machine.execVcmp c p a b g t s
  | .vsel d a b s1 => Sys2Proof.Machine.execVsel d a b s1 s
  | .vmov d a g => Sys2Proof.Machine.execVmov d a g s
  | .vbcast d b g t => Sys2Proof.Machine.execVbcast d b g t s
  | .vperm d a b g t => Sys2Proof.Machine.execVperm d a b g t s
  | .vshuf d a b g t => Sys2Proof.Machine.execVshuf d a b g t s
  | .vslide d a b g t => Sys2Proof.Machine.execVslide d a b g t s
  | .vext d a b t => Sys2Proof.Machine.execVext d a b t s
  | .vins d a b g t => Sys2Proof.Machine.execVins d a b g t s
  | .vrcp d a g t => Sys2Proof.Machine.execVrcp d a g t s
  | .vrsq d a g t => Sys2Proof.Machine.execVrsq d a g t s
  | .vexp2 d a g t => Sys2Proof.Machine.execVexp2 d a g t s
  | .vlog2 d a g t => Sys2Proof.Machine.execVlog2 d a g t s
  | .vaddX d a b g t => Sys2Proof.Machine.execVaddX d a b g t s
  | .vsubX d a b g t => Sys2Proof.Machine.execVsubX d a b g t s
  | .vmulX d a b g t => Sys2Proof.Machine.execVmulX d a b g t s
  | .vdwadd d a b g t => Sys2Proof.Machine.execVdwadd d a b g t s
  | .vdwmul d a b g t => Sys2Proof.Machine.execVdwmul d a b g t s
  | .vdwnorm d a g t => Sys2Proof.Machine.execVdwnorm d a g t s
  | .vsumx d a g t => Sys2Proof.Machine.execVsumx d a g t s
  | .vred d a g t => Sys2Proof.Machine.execVred d a g t s
  | .vcvt d a f g t => Sys2Proof.Machine.execVcvt d a f g t s
  | .vpack d a m f g => Sys2Proof.Machine.execVpack d a m f g s
  | .vunpk d a h f g t => Sys2Proof.Machine.execVunpk d a h f g t s
  | .vscale d a b g t => Sys2Proof.Machine.execVscale d a b g t s
  | .vqnt d a f g => Sys2Proof.Machine.execVqnt d a f g s
  | .vqntDeq d a f g => Sys2Proof.Machine.execVqntDeq d a f g s
  | .vhad d a m g t s1 => Sys2Proof.Machine.execVhad d a m g t s1 s
  | .vrand d a g t w => Sys2Proof.Machine.execVrand d a g t w s
  | .pand d a b g => Sys2Proof.Machine.execPand d a b g s
  | .por d a b g => Sys2Proof.Machine.execPor d a b g s
  | .pxor d a b g => Sys2Proof.Machine.execPxor d a b g s
  | .pnot d a g => Sys2Proof.Machine.execPnot d a g s
  | .pset d a g => Sys2Proof.Machine.execPset d a g s
  | .psetN d a g => Sys2Proof.Machine.execPsetN d a g s
  | .pcnt d a g => Sys2Proof.Machine.execPcnt d a g s
  | .pfirst d a g => Sys2Proof.Machine.execPfirst d a g s
  | .atake d a => Sys2Proof.Machine.execAtake d a s
  | .agive a => Sys2Proof.Machine.execAgive a s
  | .mzero a => Sys2Proof.Machine.execMzero a s
  | .mdesc d a b => Sys2Proof.Machine.execMdesc d a b s
  | .mld d => Sys2Proof.Machine.execMld d s
  | .mma t a b acc ofmt kb => Sys2Proof.Machine.execMma t a b acc ofmt kb s
  | .mdrain t dd b z drop res rc dr q => Sys2Proof.Machine.execMdrain t dd b z drop res rc dr q s
  | .mxpq dd ds a rc => Sys2Proof.Machine.execMxpq dd ds a rc s
  | .bcopy d a b bc fe c sem sv vs => Sys2Proof.Machine.execBcopy d a b bc fe c sem sv vs s
  | .bfill d a b bc fe c sem sv vs => Sys2Proof.Machine.execBfill d a b bc fe c sem sv vs s
  | .bstride d a b fe c sem sv => Sys2Proof.Machine.execBstride d a b fe c sem sv s
  | .fmget a disp => Sys2Proof.Machine.execFmget a disp s
  | .fmput a disp => Sys2Proof.Machine.execFmput a disp s
  | .fmgath a disp => Sys2Proof.Machine.execFmgath a disp s
  | .fmscat a disp => Sys2Proof.Machine.execFmscat a disp s
  | .vflip a b sem sv => Sys2Proof.Machine.execVflip a b sem sv s
  | .satt d a b => Sys2Proof.Machine.execSatt d a b s
  | .sdet d a => Sys2Proof.Machine.execSdet d a s
  | .spush d a h => Sys2Proof.Machine.execSpush d a h s
  | .spull d a b h => Sys2Proof.Machine.execSpull d a b h s
  | .smark a b e => Sys2Proof.Machine.execSmark a b e s
  | .send d a b c e tag dk => Sys2Proof.Machine.execSend d a b c e tag dk s
  | .sendv d a tag dk => Sys2Proof.Machine.execSendv d a tag dk s
  | .recv d a b c e tag => Sys2Proof.Machine.execRecv d a b c e tag s
  | .recvv d a tag => Sys2Proof.Machine.execRecvv d a tag s
  | .peek d a tag => Sys2Proof.Machine.execPeek d a tag s
  | .tflush d tag => Sys2Proof.Machine.execTflush d tag s
  | .hset u s1 a t => Sys2Proof.Machine.execHset u s1 a t s
  | .hsetClr t => Sys2Proof.Machine.execHsetClr t s
  | .hret => Sys2Proof.Machine.execHret s
  | .hmask d a => Sys2Proof.Machine.execHmask d a s
  | .bmask d a => Sys2Proof.Machine.execBmask d a s
  | .barv d c r => Sys2Proof.Machine.execBarv d c r s
  | .barw c b => Sys2Proof.Machine.execBarw c b s
  | .bart d c b => Sys2Proof.Machine.execBart d c b s
  | .semi s1 b => Sys2Proof.Machine.execSemi s1 b s
  | .semw s1 b => Sys2Proof.Machine.execSemw s1 b s
  | .semt d s1 b => Sys2Proof.Machine.execSemt d s1 b s
  | .sems d s1 b => Sys2Proof.Machine.execSems d s1 b s
  | .feclr a b => Sys2Proof.Machine.execFeclr a b s
  | .feset a b => Sys2Proof.Machine.execFeset a b s
  | .fork d a b => Sys2Proof.Machine.execFork d a b s
  | .join a => Sys2Proof.Machine.execJoin a s
  | .tpop d => Sys2Proof.Machine.execTpop d s
  | .tpopS d b => Sys2Proof.Machine.execTpopS d b s
  | .steal d a => Sys2Proof.Machine.execSteal d a s
  | .tdone a => Sys2Proof.Machine.execTdone a s
  | .tdoneK a => Sys2Proof.Machine.execTdoneK a s
  | .spawn d a b g u => Sys2Proof.Machine.execSpawn d a b g u s
  | .halt => Sys2Proof.Machine.execHalt s
  | .haltR => Sys2Proof.Machine.execHaltR s
  | .yield => Sys2Proof.Machine.execYield s
  | .waitev d a b => Sys2Proof.Machine.execWaitev d a b s
  | .nop => Sys2Proof.Machine.execNop s
  | .trap a n => Sys2Proof.Machine.execTrap a n s
  | .eret => Sys2Proof.Machine.execEret s
  | .eretP => Sys2Proof.Machine.execEretP s
  | .brk n => Sys2Proof.Machine.execBrk n s
  | .preq d => Sys2Proof.Machine.execPreq d s
  | .chart d a => Sys2Proof.Machine.execChart d a s
  | .csrrd d c => Sys2Proof.Machine.execCsrrd d c s
  | .csrwr a c => Sys2Proof.Machine.execCsrwr a c s
  | .csrxch d a c => Sys2Proof.Machine.execCsrxch d a c s
  | .strandWake core strand => Sys2Proof.Machine.execStrandWake core strand s
  | .promotion core strand => Sys2Proof.Machine.execPromotion core strand s
  | .waitevTimeout core strand => Sys2Proof.Machine.execWaitevTimeout core strand s
  | .unitExecute core => Sys2Proof.Machine.execUnitExecute core s
  | .mmaKstep core => Sys2Proof.Machine.execMmaKstep core s
  | .quayAdmit req => Sys2Proof.Machine.execQuayAdmit req s
  | .feBusyReissue req => Sys2Proof.Machine.execFeBusyReissue req s
  | .loadReturn core strand seq => Sys2Proof.Machine.execLoadReturn core strand seq s
  | .storeQueueRelease core strand => Sys2Proof.Machine.execStoreQueueRelease core strand s
  | .writeAck ack => Sys2Proof.Machine.execWriteAck ack s
  | .retryReissue core strand => Sys2Proof.Machine.execRetryReissue core strand s
  | .patrolScrub core word kind => Sys2Proof.Machine.execPatrolScrub core word kind s
  | .semIncrement core sem => Sys2Proof.Machine.execSemIncrement core sem s
  | .sendQueueSend core entry => Sys2Proof.Machine.execSendQueueSend core entry s
  | .messageAccept msg => Sys2Proof.Machine.execMessageAccept msg s
  | .acceptanceNotice notice => Sys2Proof.Machine.execAcceptanceNotice notice s
  | .messageResend core entry => Sys2Proof.Machine.execMessageResend core entry s
  | .refusalHoldExpire core => Sys2Proof.Machine.execRefusalHoldExpire core s
  | .handlerEntry core strand => Sys2Proof.Machine.execHandlerEntry core strand s
  | .barrierPhase core channel => Sys2Proof.Machine.execBarrierPhase core channel s
  | .stealSend core strand => Sys2Proof.Machine.execStealSend core strand s
  | .stealRequest req => Sys2Proof.Machine.execStealRequest req s
  | .stealReply req => Sys2Proof.Machine.execStealReply req s
  | .launchIdleComplete part slot => Sys2Proof.Machine.execLaunchIdleComplete part slot s
  | .streamEntryValidate core vs w0 => Sys2Proof.Machine.execStreamEntryValidate core vs w0 s
  | .streamEntryInvalidate core vs w0 => Sys2Proof.Machine.execStreamEntryInvalidate core vs w0 s
  | .streamPosition core vs => Sys2Proof.Machine.execStreamPosition core vs s
  | .slotFreeNotice notice => Sys2Proof.Machine.execSlotFreeNotice notice s
  | .streamWatchdog core vs => Sys2Proof.Machine.execStreamWatchdog core vs s
  | .sinkWrite core vs => Sys2Proof.Machine.execSinkWrite core vs s
  | .sinkEnd core vs => Sys2Proof.Machine.execSinkEnd core vs s
  | .rootReport report => Sys2Proof.Machine.execRootReport report s
  | .bulkExecute core beat => Sys2Proof.Machine.execBulkExecute core beat s
  | .addressedBeat core beat => Sys2Proof.Machine.execAddressedBeat core beat s
  | .bulkEndFlit core flit => Sys2Proof.Machine.execBulkEndFlit core flit s
  | .bulkAck core ack => Sys2Proof.Machine.execBulkAck core ack s
  | .ringGo part slot ring w3 => Sys2Proof.Machine.execRingGo part slot ring w3 s
  | .ringStep part slot ring => Sys2Proof.Machine.execRingStep part slot ring s
  | .ringStall part slot ring => Sys2Proof.Machine.execRingStall part slot ring s
  | .straitAdmit cmd => Sys2Proof.Machine.execStraitAdmit cmd s
  | .tableWalk cmd line => Sys2Proof.Machine.execTableWalk cmd line s
  | .farLineComplete cmd line => Sys2Proof.Machine.execFarLineComplete cmd line s
  | .faultPwaitExpire part strait idx => Sys2Proof.Machine.execFaultPwaitExpire part strait idx s
  | .actResume part strait idx => Sys2Proof.Machine.execActResume part strait idx s
  | .actFail part strait idx => Sys2Proof.Machine.execActFail part strait idx s
  | .farCommandComplete cmd => Sys2Proof.Machine.execFarCommandComplete cmd s
  | .leafCommit part slot => Sys2Proof.Machine.execLeafCommit part slot s
  | .flush part slot => Sys2Proof.Machine.execFlush part slot s
  | .cntop part slot => Sys2Proof.Machine.execCntop part slot s
  | .farLinkDown part strait => Sys2Proof.Machine.execFarLinkDown part strait s
  | .farIde part strait => Sys2Proof.Machine.execFarIde part strait s
  | .errorRecord part => Sys2Proof.Machine.execErrorRecord part s
  | .preemptRequest part slot core strand => Sys2Proof.Machine.execPreemptRequest part slot core strand s
  | .preemptStop core => Sys2Proof.Machine.execPreemptStop core s
  | .preemptSave core => Sys2Proof.Machine.execPreemptSave core s
  | .res part slot => Sys2Proof.Machine.execRes part slot s
  | .chartAmendment part => Sys2Proof.Machine.execChartAmendment part s
  | .moveCopyDone part idx => Sys2Proof.Machine.execMoveCopyDone part idx s
  | .holdRelease part slot => Sys2Proof.Machine.execHoldRelease part slot s
  | .linkCrcExhausted part px py link => Sys2Proof.Machine.execLinkCrcExhausted part px py link s
  | .linkRetryRate part px py link => Sys2Proof.Machine.execLinkRetryRate part px py link s
  | .routerFailure part px py => Sys2Proof.Machine.execRouterFailure part px py s
  | .quayFail part px py => Sys2Proof.Machine.execQuayFail part px py s
  | .form part => Sys2Proof.Machine.execForm part s
  | .teardown part => Sys2Proof.Machine.execTeardown part s
  | .preempt part => Sys2Proof.Machine.execPreempt part s
  | .resume part => Sys2Proof.Machine.execResume part s
  | .attest part => Sys2Proof.Machine.execAttest part s
  | .keyload part => Sys2Proof.Machine.execKeyload part s
  | .keyrevoke part => Sys2Proof.Machine.execKeyrevoke part s
  | .domain part => Sys2Proof.Machine.execDomain part s
  | .logread part => Sys2Proof.Machine.execLogread part s
  | .sensors part => Sys2Proof.Machine.execSensors part s
  | .plimit part => Sys2Proof.Machine.execPlimit part s
  | .doorbellLaunch part slot => Sys2Proof.Machine.execDoorbellLaunch part slot s
  | .doorbellSignal part slot => Sys2Proof.Machine.execDoorbellSignal part slot s
  | .irq part slot => Sys2Proof.Machine.execIrq part slot s
  | .nwin core offset write data => Sys2Proof.Machine.execNwin core offset write data s
  | .exmap core word data => Sys2Proof.Machine.execExmap core word data s
  | .completionBlockWrite part slot w0 => Sys2Proof.Machine.execCompletionBlockWrite part slot w0 s
  | .registerWrite part slot addr data => Sys2Proof.Machine.execRegisterWrite part slot addr data s
  | .powerOn part => Sys2Proof.Machine.execPowerOn part s
  | .powerWindow part => Sys2Proof.Machine.execPowerWindow part s
  | .currentLimit part => Sys2Proof.Machine.execCurrentLimit part s
  | .sensorThrottle part sensor => Sys2Proof.Machine.execSensorThrottle part sensor s
  | .sensorPowerOff part sensor => Sys2Proof.Machine.execSensorPowerOff part sensor s
  | .halifLinkFail part port => Sys2Proof.Machine.execHalifLinkFail part port s
  | .halifLinkTrain part port => Sys2Proof.Machine.execHalifLinkTrain part port s
  | .modulePowerLoss part => Sys2Proof.Machine.execModulePowerLoss part s
  | .straitLinkTraining part strait => Sys2Proof.Machine.execStraitLinkTraining part strait s
  | .dynamicCapacityExtent part strait => Sys2Proof.Machine.execDynamicCapacityExtent part strait s
  | .halifLaneLoss part port => Sys2Proof.Machine.execHalifLaneLoss part port s
  | .halifPeerConfirmation part port => Sys2Proof.Machine.execHalifPeerConfirmation part port s
  | .barrierWire part px py => Sys2Proof.Machine.execBarrierWire part px py s
  | .stealLane part px py => Sys2Proof.Machine.execStealLane part px py s
  | .bulkWatchdog core => Sys2Proof.Machine.execBulkWatchdog core s

end Sys2Proof.Machine
end

