-- ==== Sys2Proof/Machine/Sched.lean ====
section
/-!
DEFINITION. What one step can be: a strand's turn, an event, a write of the host, an error in a core's cells (R233, R257, R396, R397), and the
model's own order of them when the schedule names none.
-/
namespace Sys2Proof.Machine
open Sys2Proof.Num

/-- What a step answers. -/
abbrev Turn := Host.Outcome State Fault Refusal

/-! ## A strand's turn -/

/-- R396, R397: an instruction reads a register that fails parity; a second one on the same tile amends the chart. -/
def State.parityTrap (s : State) (n r : Nat) : State :=
  let p := cPart s.cur.1
  let i := s.tileNo s.cur.1
  let again := (s.wafer p).parity.contains i
  let s := s.trap (sysCause n 0) (BitVec.ofNat 64 (if n == 12 && 4 ≤ r then r - 4 else r))
  if again then s.askAmend p .coreHalf (i % 512) (i / 512) else s.modWafer p fun w => { w with parity := nadd i w.parity }

/-- R72 steps 1 to 4, R389: a fetch that traps; an uncorrectable near-store error counts (R56). -/
def State.badFetch (s : State) (cause : Nat) (tval : Word) : State :=
  let s := if cause == 0x00D then
      (match (s.me).nearBad (tval.toNat % 65536) 4 with | some _ => s.nearUeFound s.cur.1 | none => s)
    else s
  s.fetchFault cause tval

/-- What is added to a step that goes on. -/
def onNext (o : Turn) (f : State → State) : Turn :=
  match o with
  | .next s => .next (f s)
  | o => o

/-- R72 step 12, R140: the instruction traps ILL_PRIV before any check of its operands. -/
def privTrap (x : Ctx) (i : Instr) : Bool :=
  !x.priv && (match i with
    | .csrwr _ n | .csrxch _ _ n => 0x010 ≤ n.toNat
    | .chart _ _ | .preq _ | .eret | .eretP => true
    | _ => false)

/-- R252: instruction i of a strand, which was about to issue as number `seq` with `count` instructions completed, has completed or entered a
queue: what it overwrites does not change when older results come, and what it does may be past taking back. -/
def State.overwrote (s : State) (c : CoreId) (t : Fin 4) (i : Instr) (seq : Nat) (count : Word) : State :=
  if (s.strand c t).ctx.instret == count then s
  else s.modStrand c t fun x => if heldByLoads i then (x.supersede i seq).settle seq else x.supersede i seq

/-- A strand's turn: if the issue selector takes it, its instruction issues. -/
def State.turn (s : State) (c : CoreId) (t : Fin 4) : Turn :=
  match s.upcoming c t with
  | none => .next s
  | some (.trap cause tval) =>
    if s.selected c t then .next ((s.starting c t .nop).badFetch cause tval) else .next s
  | some (.instr i) =>
    let x := s.strand c t
    if !s.eligible c t i || !s.selected c t then .next s
    else
      match (if privTrap x.ctx i then none else x.badOf (allReads x.ctx i)) with
      | some (n, r) => .next ((s.starting c t i).parityTrap n r)
      | none => onNext (exec i (s.starting c t i)) fun u => u.overwrote c t i (s.core c).seq x.ctx.instret

/-! ## Errors in a core's cells -/

/-- R233: the product of element (i, j) of the executing MMA's k-step mismatches its residue again; `State.strike` makes it poison. -/
def State.residue (s : State) (c : CoreId) (i j : Nat) : State :=
  match (s.core c).unitq with
  | u :: _ =>
    (match u.executing, u.instr with
      | true, .mma _ _ _ _ _ _ =>
        s.modCore c fun k => { k with unitq := { u with struck := nadd (16 * (i % 16) + j % 16) u.struck } :: k.unitq.tail }
      | _, _ => s)
  | [] => s

/-- R396: a parity error, or for a near-store word an uncorrectable error, strikes. -/
def State.upset (s : State) (c : CoreId) (u : Upset) : State :=
  let k := s.core c
  match u with
  | .reg t n r => s.modStrand c t fun x => { x with ctx := { x.ctx with bad := if x.ctx.bad.contains (n, r) then x.ctx.bad else x.ctx.bad ++ [(n, r)] } }
  | .acc a row =>
    let bad := BitVec.ofNat 80 (poisonCode AX80 (s.coord c))
    let set (v : Vector (BitVec 80) 256) : Vector (BitVec 80) 256 :=
      (List.range 16).foldl (fun v j => vset v (16 * (row % 16) + j) bad) v
    (s.putCore c { k with acc := vset k.acc a (set (vget k.acc a)) }).record c (engCause 15 3) none 0 0 3
  | .stager t g line =>
    (match vget (k.strand t).slots g with
      | none => s
      | some q =>
        let q := { q with lines := lset q.lines (line % 16) (BitVec.ofNat 256 (s.coord c)),
                          poisoned := q.poisoned ||| BitVec.ofNat 16 (2^(line % 16)) }
        (s.modStrand c t fun x => { x with slots := vset x.slots g (some q) }).record c (engCause 14 3) (some t) 0 0 3)
  | .recv i =>
    (match k.recv[i]? with
      | none => s
      | some m => (s.putCore c (k.take m s.now)).record c (msgCause 12 3) none 0 0 3)
  | .deque i => if i < k.deque.length then (s.putCore c { k with deque := k.deque.eraseIdx i }).record c (msgCause 13 3) none 0 0 3 else s
  | .near w => if w < 8192 then s.putCore c { k with nearUe := nadd w k.nearUe } else s
  | .tlb j i =>
    (match s.ptnOf c, ((s.wafer (cPart c)).strait j).tlb[i]? with
      | some q, some e =>
        ((s.modStrait (cPart c) j fun t => { t with tlb := t.tlb.eraseIdx i }).addCount (cPart c) q e).straitRecord (cPart c) j 14 3
      | _, _ => s)
  | .residue i j => s.residue c i j

/-! ## Choices -/

/-- An event; an instruction is none. -/
def isEvent (i : Instr) : Bool := (encode i).isNone

/-- What a choice of the schedule does. -/
def State.take (s : State) (h : Choice) : Turn :=
  match h with
  | .strand c t => s.turn c t
  | .event e => if isEvent e then exec e s else .next s
  | .host p port fn off v => .next (s.hostWrite p port fn off v)
  | .upset c u => .next (s.upset c u)
  | .sense p off v => .next (s.sense p off v)
  | .device p j ok rate width ide ext => .next (s.attach p j ok rate width ide ext)
  | .cable p n gen => .next (s.cable p n gen)
  | .line p j n kind => .next (s.deviceLine p j n kind)

/-! ## The model's own order (log 1) -/

/-- Events that may be pending at a core. -/
def Core.choices (k : Core) (c : CoreId) : List (State → Turn) :=
  let four := [(0 : Fin 4), 1, 2, 3]
  (four.flatMap fun t =>
    [execStoreQueueRelease c t.1, execStrandWake c t.1, execHandlerEntry c t.1, execStealSend c t.1, execRetryReissue c t.1]
      ++ ((k.strand t).loads.map fun l => execLoadReturn c t.1 l.seq) ++ ((k.strand t).sq.map fun l => execLoadReturn c t.1 l.seq))
    ++ [execUnitExecute c, execMmaKstep c]
    ++ (k.sendq.flatMap fun m => [execSendQueueSend c m.id, execMessageResend c m.id])
    ++ ((List.range 16).map fun n => execBarrierPhase c n)
    ++ (k.streams.map fun p => execStreamPosition c p.1)
    ++ (k.eps.flatMap fun p => [execSinkWrite c p.vs.toNat, execSinkEnd c p.vs.toNat])
    ++ ((match k.bulk with | m :: _ => List.range (m.beats + 1) | [] => []).map fun n => execBulkExecute c n)
    ++ (k.addrq.mapIdx fun n _ => execAddressedBeat c n) ++ (k.addrq.mapIdx fun n _ => execBulkEndFlit c n)
    ++ [execPreemptStop c, execPreemptSave c, execRefusalHoldExpire c]
    ++ four.map (fun t => fun s => s.turn c t)
    ++ four.map (fun t => execPromotion c t.1) ++ four.map (fun t => execWaitevTimeout c t.1)
    ++ (k.streams.map fun p => execStreamWatchdog c p.1) ++ [execBulkWatchdog c]

/-- Events that may be pending at a part. -/
def Wafer.choices (w : Wafer) (p : Nat) : List (State → Turn) :=
  [execPowerOn p, execErrorRecord p, execChartAmendment p] ++ (w.moves.mapIdx fun n _ => execMoveCopyDone p n)
    ++ [execForm p, execTeardown p, execPreempt p, execResume p, execAttest p, execKeyload p, execKeyrevoke p, execDomain p, execLogread p,
        execSensors p, execPlimit p]
    ++ (w.ptns.flatMap fun q =>
      [execHoldRelease p q.slot, execLeafCommit p q.slot, execFlush p q.slot, execCntop p q.slot]
        ++ ((List.range 64).map fun r => execRingStep p q.slot r) ++ [execLaunchIdleComplete p q.slot])
    ++ (w.straits.flatMap fun x =>
      [execStraitLinkTraining p x.1, execDynamicCapacityExtent p x.1] ++ (List.range 16).map fun i => execFaultPwaitExpire p x.1 i)
    ++ (w.halifs.flatMap fun x => [execHalifLinkTrain p x.1, execHalifPeerConfirmation p x.1])

/-- The cores of a partition, listed or not. -/
def Ptn.cores (q : Ptn) (p : Nat) : List CoreId :=
  (List.range (30 * q.count)).flatMap fun x => (List.range 512).map fun y => mkCore p y (30 * q.first + x)

/-- R402, R403: what the next core of a partition that is saving does. -/
def State.savers (s : State) (p : Nat) : List (State → Turn) :=
  (s.wafer p).ptns.flatMap fun q =>
    if q.pre.saving then
      match (q.cores p).find? fun c => !(s.core c).saved && (s.exempt c).isNone with
      | some c => [execPreemptStop c, execPreemptSave c]
      | none => []
    else []

/-- Everything that may be pending; ids name what is on its way. -/
def State.choices (s : State) : List (State → Turn) :=
  (s.acks.map fun a => execWriteAck a.id) ++ (s.net.flatMap fun r => [execQuayAdmit r.id, execFeBusyReissue r.id])
    ++ (s.msgs.map fun m => execMessageAccept m.id) ++ (s.notices.map fun n => execAcceptanceNotice n.id)
    ++ (s.steals.flatMap fun r => [execStealRequest r.id, execStealReply r.id]) ++ (s.slotNotes.map fun n => execSlotFreeNotice n.id)
    ++ (s.reports.map fun r => execRootReport r.id) ++ (s.bulkAcks.map fun a => execBulkAck a.core a.id)
    ++ (s.semq.map fun q => execSemIncrement q.1 q.2)
    ++ (s.fars.flatMap fun m => [execStraitAdmit m.id, execFarCommandComplete m.id]
          ++ ((List.range (farCount m.kind m.spb)).flatMap fun n => [execFarLineComplete m.id n, execTableWalk m.id n]))
    ++ ((List.range 8).flatMap fun p => (s.wafer p).choices p ++ s.savers p)
    ++ (s.cores.flatMap fun c => c.2.choices c.1)

/-- The first choice that changes the state, and what it answers. -/
def State.firstOf (s : State) : List (State → Turn) → Option Turn
  | [] => none
  | h :: hs =>
    match h s with
    | .next t => if t = s then s.firstOf hs else some (.next t)
    | o => some o

/-- What moves when the schedule is empty: the choices in turn, each step starting one place further; nothing may be pending. -/
def State.default (s : State) : Turn :=
  let l := s.choices
  let n := s.ticks % (l.length + 1)
  match s.firstOf (l.drop n ++ l.take n) with
  | some o => o
  | none => .next s

/-- The free values of a step pass. -/
def State.drawn (s : State) : State := { s with ticks := s.ticks + 1, draws := s.draws + 2 }

/-- The cycles a step takes: as many as the implementation takes, but no more than R133 leaves. -/
def State.cycles (s : State) : Nat :=
  match s.slack with
  | some n => if n ≤ Config.elapsed s.ticks then n else Config.elapsed s.ticks
  | none => Config.elapsed s.ticks

/-- Time passes before a step, with what it brings about. -/
def State.tick (s : State) : State := { s.drawn with now := s.now + s.cycles }.due

/-- R440: no part is powered. -/
def State.dark (s : State) : Bool := (List.range 8).all fun p => (s.wafer p).power == .off

/-! ## Placing an instruction -/

/-- R424: where no partition holds the running core, one of a single isle is placed on its part. -/
def State.withPartition (s : State) : State :=
  let (c, _) := s.cur
  match s.ptnOf c with
  | some _ => s
  | none =>
    s.modWafer (cPart c) fun w =>
      { w with power := .run, ptns := w.ptns ++ [Ptn.new 0 (cX c / 30) 1 false false s.now] }

/-- The running strand ready to fetch `len` bytes `data` at its PC, in an execute line; a PC that cannot be fetched from becomes 0. -/
def State.placed (s : State) (data : List Byte) : State :=
  let (c, t) := s.cur
  let k := s.core c
  let x := k.strand t
  let fits : Bool := x.ctx.pc.toNat % 4 == 0 && x.ctx.pc.toNat ≤ 0xFFF8
  let pc : Word := if fits then x.ctx.pc else 0
  let lines := 2^(pc.toNat / 64) ||| 2^((pc.toNat + 7) / 64)
  let runs : Bool := x.st == .ready || x.st == .handler
  let ctx := { x.ctx with pc := pc, priv := x.ctx.priv || !runs }
  s.putCore c
    { k.putStrand t { x with st := if runs then x.st else .ready, hold := none, since := none, wake := none, ctx := ctx } with
      near := k.near.writeN pc.toNat data, exec := k.exec ||| BitVec.ofNat 1024 lines, stale := [], nearUe := [], stopped := false }

end Sys2Proof.Machine
end

