-- ==== Sys2Proof/Machine/Step.lean ====
section
/-!
DEFINITION. One step of the machine: the head of the schedule moves, or what the model's own order lets move; and where the host places an
instruction.
-/
namespace Sys2Proof.Machine

/-- What moves: a promoted strand that the selector takes now (R133), else the schedule's head, before which time passes, or, of an empty
schedule, what the model's own order lets move. -/
def State.move (s : State) : Turn :=
  match s.forced with
  | some (c, t) => s.drawn.turn c t
  | none =>
    match s.agenda with
    | h :: hs => ({ s with agenda := hs } : State).tick.take h
    | [] => if s.dark then .fault .unpowered else s.tick.default

/-- One step, after which it is seen which strands are eligible (R133). -/
def step (s : State) : Host.Outcome State Fault Refusal := onNext s.move State.watch

/-- The state with an instruction's bits (the first word lowest, zero above `nbits`) where the running strand fetches next, and that strand
next in the schedule. Where no partition holds its core, the state stands for a part on which one has been formed and its program loaded
(log 16). -/
def State.withFetchWord (s : State) (nbits w : Nat) : State :=
  let t := s.withPartition.placed (leBytes (w % 2^nbits) 8)
  { t with agenda := [.strand t.cur.1 t.cur.2] }

end Sys2Proof.Machine
end

