-- ==== Sys2Proof/Safety.lean ====
section
/-!
DEFINITION. The terms statements are made in: the invariants of State that rule out what no run reaches, what an instruction that
completes, traps, issues or leaves its queue changes, and that it changes nothing else.
-/
namespace Sys2Proof.Machine

/-- The byte memories of a core have their canonical form. -/
def Core.memOk (k : Core) : Bool := k.near.wf && k.vault.wf

/-- The byte memories of every core have their canonical form: addresses strictly rising, no byte 0 listed. -/
def State.memOk (s : State) : Bool := s.cores.all fun c => c.2.memOk

end Sys2Proof.Machine

namespace Sys2Proof.Spec
open Sys2Proof.Machine

/-! ## What a next state keeps -/

/-- No core but c has changed, nor any byte of a near store or vault, nor anything outside the cores. -/
structure OnlyCore (c : CoreId) (s t : State) : Prop where
  rest : { t with cores := s.cores } = s
  others : ∀ d, d ≠ c → t.core d = s.core d
  near : ∀ d a, (t.core d).near.read a = (s.core d).near.read a
  vault : ∀ d a, (t.core d).vault.read a = (s.core d).vault.read a

/-- From s to t nothing changes but the registers of the running strand. -/
structure RegsOnly (s t : State) : Prop extends OnlyCore s.cur.1 s t where
  shared : { t.core s.cur.1 with strands := (s.core s.cur.1).strands } = s.core s.cur.1
  strands : ∀ u, u ≠ s.cur.2 → t.strand s.cur.1 u = s.strand s.cur.1 u
  strand : { t.strand s.cur.1 s.cur.2 with ctx := s.ctx } = s.strand s.cur.1 s.cur.2

/-- No hardware loop of the strand is active. -/
def NoLoop (c : Ctx) : Prop := ∀ n < 3, (c.getLc n).active = false

/-- R126, R164: an instruction of `len` bytes has completed: INSTRET counts it, and where no loop is active the strand goes on to the
next instruction. -/
structure Counted (c c' : Ctx) (len : Nat) : Prop where
  instret : c'.instret = c.instret + 1
  next : NoLoop c → c'.pc = c.pc + BitVec.ofNat 64 len ∧ c'.lc = c.lc

/-- Instruction i, of `len` bytes, runs to its end in state s: it changes the registers of its strand alone, as P says, and is counted. -/
def Completes (i : Instr) (s : State) (len : Nat) (P : Ctx → Ctx → Prop) : Prop :=
  ∃ t, exec i s = .next t ∧ RegsOnly s t ∧ Counted s.ctx t.ctx len ∧ P s.ctx t.ctx

/-- No register has changed but PC, the loop counters and INSTRET. -/
def SameRegs (c c' : Ctx) : Prop := { c' with pc := c.pc, lc := c.lc, instret := c.instret, bad := c.bad } = c

/-- R75: x[d] has got v (nothing where d is x0), and no other register has changed: neither x, v, p, descriptor nor control registers but
PC, the loop counters and INSTRET. (`bad` is the parity of the registers, which a write makes good.) -/
def WroteX (d : BitVec 5) (v : Word) (c c' : Ctx) : Prop :=
  (∀ r, c'.getX r = if r = d ∧ d ≠ 0 then v else c.getX r)
    ∧ { c' with x := c.x, pc := c.pc, lc := c.lc, instret := c.instret, bad := c.bad } = c

/-- v[d] has got v, and no other register has changed but PC, the loop counters, INSTRET, FLAGS by `fl` and STEP by `st`. -/
def WroteV (d : BitVec 5) (v : VReg) (fl : BitVec 7) (st : Word) (c c' : Ctx) : Prop :=
  (∀ r, c'.getV r = if r = d then v else c.getV r) ∧ c'.flags = c.flags ||| fl ∧ c'.stepc = c.stepc + st
    ∧ { c' with v := c.v, flags := c.flags, stepc := c.stepc, pc := c.pc, lc := c.lc, instret := c.instret, bad := c.bad } = c

/-- R75: p[d] has got v (nothing where d is p0), and no other register has changed but PC, the loop counters, INSTRET, and FLAGS by `fl`. -/
def WroteP (d : BitVec 3) (v : PReg) (fl : BitVec 7) (c c' : Ctx) : Prop :=
  (∀ r, c'.getP r = if r = d ∧ d ≠ 0 then v else c.getP r) ∧ c'.flags = c.flags ||| fl
    ∧ { c' with p := c.p, flags := c.flags, pc := c.pc, lc := c.lc, instret := c.instret, bad := c.bad } = c

/-- R386: an exception entry of the running strand: EPC is the instruction's address, CAUSE and TVAL are given, STATUS.PRIV is saved in
PPRIV and set, PC is TVEC; no other register changes, and the instruction is not counted. (`bad` is the parity of the registers: EPC, CAUSE
and TVAL, written anew, are good.) -/
structure TrapsAt (c c' : Ctx) (cause : Nat) (tval : Word) : Prop where
  epc : c'.epc = c.pc
  cause : c'.cause = BitVec.ofNat 9 cause
  tval : c'.tval = tval
  ppriv : c'.ppriv = c.priv
  priv : c'.priv = true
  pc : c'.pc = c.tvec
  parity : ∀ n r, (n, r) ∈ c'.bad ↔ (n, r) ∈ c.bad ∧ ¬(n = 11 ∧ (r = 0x011 ∨ r = 0x012 ∨ r = 0x013))
  rest : { c' with epc := c.epc, cause := c.cause, tval := c.tval, ppriv := c.ppriv, priv := c.priv, pc := c.pc, trapAt := c.trapAt,
                   bad := c.bad } = c

/-- Instruction i traps in state s and changes nothing else. -/
def Traps (i : Instr) (s : State) (cause : Nat) (tval : Word) : Prop :=
  ∃ t, exec i s = .next t ∧ RegsOnly s t ∧ TrapsAt s.ctx t.ctx cause tval

/-- Instruction i transfers control to `target`: it is counted, and the registers change as P says. -/
def Jumps (i : Instr) (s : State) (target : Word) (P : Ctx → Ctx → Prop) : Prop :=
  ∃ t, exec i s = .next t ∧ RegsOnly s t ∧ t.ctx.pc = target ∧ t.ctx.instret = s.ctx.instret + 1 ∧ P s.ctx t.ctx

/-! ## Instructions that outlive their issue (R252) -/

/-- Instruction i, of `len` bytes, has been issued and stands at the end of the strand's store queue with the registers as they were;
the strand is past it, and held until it completes where `hold` says so. Nothing else has changed but the core's count of such
instructions. -/
structure Queued (i : Instr) (len : Nat) (hold : Bool) (s t : State) : Prop extends OnlyCore s.cur.1 s t where
  shared : { t.core s.cur.1 with strands := (s.core s.cur.1).strands, seq := (s.core s.cur.1).seq } = s.core s.cur.1
  seq : (t.core s.cur.1).seq = (s.core s.cur.1).seq + 1
  strands : ∀ u, u ≠ s.cur.2 → t.strand s.cur.1 u = s.strand s.cur.1 u
  queue : ∃ e : Entry, (t.strand s.cur.1 s.cur.2).sq = (s.strand s.cur.1 s.cur.2).sq ++ [e] ∧ e.instr = i ∧ e.snap = s.ctx
    ∧ e.seq = (s.core s.cur.1).seq ∧ e.phase = 0 ∧ e.parts = []
  holds : (t.strand s.cur.1 s.cur.2).hold = if hold then some (s.core s.cur.1).seq else (s.strand s.cur.1 s.cur.2).hold
  strand : { t.strand s.cur.1 s.cur.2 with
    ctx := s.ctx, sq := (s.strand s.cur.1 s.cur.2).sq, hold := (s.strand s.cur.1 s.cur.2).hold } = s.strand s.cur.1 s.cur.2
  counted : Counted s.ctx t.ctx len
  regs : SameRegs s.ctx t.ctx

/-- Instruction i enters the store queue in state s. -/
def Queues (i : Instr) (s : State) (len : Nat) (hold : Bool) : Prop := ∃ t, exec i s = .next t ∧ Queued i len hold s t

/-- Instruction i waits in the scalar pipe: the strand stands at it and issues nothing. Nothing else has changed but the core's count. -/
structure Waiting (i : Instr) (s t : State) : Prop extends OnlyCore s.cur.1 s t where
  shared : { t.core s.cur.1 with strands := (s.core s.cur.1).strands, seq := (s.core s.cur.1).seq } = s.core s.cur.1
  seq : (t.core s.cur.1).seq = (s.core s.cur.1).seq + 1
  strands : ∀ u, u ≠ s.cur.2 → t.strand s.cur.1 u = s.strand s.cur.1 u
  wait : ∃ e : Entry, (t.strand s.cur.1 s.cur.2).wait = some e ∧ e.instr = i ∧ e.snap = s.ctx ∧ e.seq = (s.core s.cur.1).seq
  holds : (t.strand s.cur.1 s.cur.2).hold = some (s.core s.cur.1).seq
  regs : t.ctx = s.ctx

end Sys2Proof.Spec
end

