-- ==== Sys2Proof/Certificates/Slice0/Obligations.lean ====
section
/-!
DEFINITION. The statements for the provers, and the words of their own they are stated in.
-/
namespace Sys2Proof.Spec
open Sys2Proof.Machine

/-! ## Integer operations (R143 to R145), said of bit vectors of the operation's width -/

/-- R143, R145: an operation on 64 bits, or for a .W form on the low 32 bits of both operands with its result sign-extended. -/
def wide (w : Bool) (f : ∀ n, BitVec n → BitVec n → BitVec n) (x y : Word) : Word :=
  if w then (f 32 (x.setWidth 32) (y.setWidth 32)).signExtend 64 else f 64 x y

/-- R143: the amount of a shift, and the width that SEXT and ZEXT extend from. -/
def amount {n : Nat} (y : BitVec n) : Nat := y.toNat % n
def extent {n : Nat} (y : BitVec n) : Nat := if y.toNat % n = 0 then n else y.toNat % n

/-- A truth value as a number. -/
def flagBit {n : Nat} (b : Bool) : BitVec n := if b then 1 else 0

/-- R153: the coordinate word of a part index, a row and a column. -/
def coordWord (p y x : Nat) : Word := BitVec.ofNat 64 (p * 2^18 + y * 2^9 + x)

/-- R165: a taken branch or J to `target` leaves loop n: it is active, and some active loop of no higher rank holds PC in its body and not
the target. -/
def Leaves (c : Ctx) (target : Word) (n : Nat) : Prop :=
  (c.getLc n).active = true ∧ ∃ m < 3, (c.getLc m).active = true ∧ (c.getLc m).rank.toNat ≤ (c.getLc n).rank.toNat
    ∧ (c.getLc m).start.toNat ≤ c.pc.toNat ∧ c.pc.toNat < (c.getLc m).stop.toNat
    ∧ ¬((c.getLc m).start.toNat ≤ target.toNat ∧ target.toNat < (c.getLc m).stop.toNat)

/-- R162: the active loops of a strand are those of `order`, the innermost first. -/
structure Nested (c : Ctx) (order : List Nat) : Prop where
  active : ∀ k < 3, (c.getLc k).active = true ↔ k ∈ order
  named : ∀ k ∈ order, k < 3
  ranks : order.map (fun k => (c.getLc k).rank.toNat) = (List.range order.length).reverse

/-- R164: the loop step rule for the loops of a list, innermost first, with sequential next PC n: the loop counters and PC after it. -/
def loopStep (n : Word) : List Nat → (Nat → Loop) → (Nat → Loop) × Word
  | [], f => (f, n)
  | k :: ks, f =>
    if (f k).stop.setWidth 64 ≠ n then loopStep n ks f
    else if 1 < (f k).count.toNat then (fun m => if m = k then { f k with count := (f k).count - 1 } else f m, (f k).start.setWidth 64)
    else
      loopStep n ks fun m =>
        if m = k then { f m with active := false }
        else if (f m).active = true ∧ (f k).rank.toNat < (f m).rank.toNat then { f m with rank := (f m).rank - 1 } else f m

/-- R164: a step from registers c to c' with sequential next PC n and loops `order`, of counters f. -/
def Steps (n : Word) (order : List Nat) (f : Nat → Loop) (c' : Ctx) : Prop :=
  c'.pc = (loopStep n order f).2 ∧ ∀ k < 3, (c'.getLc k).active = ((loopStep n order f).1 k).active
    ∧ ((c'.getLc k).active = true → c'.getLc k = (loopStep n order f).1 k)

/-- The core at logical column x and row y lies in the partition of core c (R156). -/
def InPartition (s : State) (c : CoreId) (x y : Nat) : Prop := s.x0 c ≤ x ∧ x < s.x0 c + s.width c ∧ y < 512

end Sys2Proof.Spec

open Sys2Proof Sys2Proof.Machine Sys2Proof.Spec

/-! ## Scalar instructions -/

/-- R143, R145: the arithmetic, logical and comparing register forms, shifts, rotations and extensions, products, and the counts of zeros and
ones and the reversal of bits complete in every state with the result the table gives, at both widths, and change nothing else. -/
def Obligations.IntegerResult : Prop :=
  ∀ (s : State) (d a b : BitVec 5) (w : Bool),
    let run (i : Instr) (f : ∀ n, BitVec n → BitVec n → BitVec n) : Prop :=
      Completes i s 4 (WroteX d (wide w f (s.ctx.getX a) (s.ctx.getX b)))
    let one (i : Instr) (f : ∀ n, BitVec n → BitVec n) : Prop := Completes i s 4 (WroteX d (wide w (fun n x _ => f n x) (s.ctx.getX a) 0))
    run (.add d a b w) (fun _ x y => x + y) ∧ run (.sub d a b w) (fun _ x y => x - y)
      ∧ run (.and d a b w) (fun _ x y => x &&& y) ∧ run (.or d a b w) (fun _ x y => x ||| y) ∧ run (.xor d a b w) (fun _ x y => x ^^^ y)
      ∧ run (.andn d a b w) (fun _ x y => x &&& ~~~y) ∧ run (.orn d a b w) (fun _ x y => x ||| ~~~y)
      ∧ run (.min d a b w) (fun _ x y => if y.slt x then y else x) ∧ run (.max d a b w) (fun _ x y => if x.slt y then y else x)
      ∧ run (.minu d a b w) (fun _ x y => if y.ult x then y else x) ∧ run (.maxu d a b w) (fun _ x y => if x.ult y then y else x)
      ∧ run (.slt d a b w) (fun _ x y => flagBit (x.slt y)) ∧ run (.sltu d a b w) (fun _ x y => flagBit (x.ult y))
      ∧ run (.sll d a b w) (fun _ x y => x <<< amount y) ∧ run (.srl d a b w) (fun _ x y => x >>> amount y)
      ∧ run (.sra d a b w) (fun _ x y => x.sshiftRight (amount y))
      ∧ run (.rol d a b w) (fun _ x y => x.rotateLeft (amount y)) ∧ run (.ror d a b w) (fun _ x y => x.rotateRight (amount y))
      ∧ run (.sext d a b w) (fun n x y => (x.setWidth (extent y)).signExtend n)
      ∧ run (.zext d a b w) (fun n x y => (x.setWidth (extent y)).setWidth n)
      ∧ run (.mul d a b w) (fun _ x y => x * y)
      ∧ run (.mulh d a b w) (fun n x y => ((x.signExtend (2 * n) * y.signExtend (2 * n)) >>> n).setWidth n)
      ∧ run (.mulhu d a b w) (fun n x y => ((x.setWidth (2 * n) * y.setWidth (2 * n)) >>> n).setWidth n)
      ∧ one (.clz d a w) (fun _ x => x.clz) ∧ one (.ctz d a w) (fun _ x => x.ctz) ∧ one (.popc d a w) (fun _ x => x.cpop)
      ∧ one (.brev d a w) (fun _ x => x.reverse)

/-- R144: division never traps and sets no flag (it changes its destination alone); quotients truncate towards zero, remainders take
the sign of the dividend, and the edge cases have the table's results at both widths. -/
def Obligations.DivisionResult : Prop :=
  ∀ (s : State) (d a b : BitVec 5) (w : Bool),
    let run (i : Instr) (f : ∀ n, BitVec n → BitVec n → BitVec n) : Prop :=
      Completes i s 4 (WroteX d (wide w f (s.ctx.getX a) (s.ctx.getX b)))
    run (.div d a b w) (fun n x y => if y = 0 then BitVec.allOnes n else BitVec.ofInt n (x.toInt.tdiv y.toInt))
      ∧ run (.divu d a b w) (fun n x y => if y = 0 then BitVec.allOnes n else x / y)
      ∧ run (.rem d a b w) (fun n x y => if y = 0 then x else BitVec.ofInt n (x.toInt.tmod y.toInt))
      ∧ run (.remu d a b w) (fun _ x y => if y = 0 then x else x % y)

/-- R146 to R150: the immediate forms complete in every state with their results. -/
def Obligations.ImmediateResult : Prop :=
  ∀ (s : State) (d a : BitVec 5) (i : BitVec 15) (n : BitVec 6) (u : BitVec 20),
    let x := s.ctx.getX a
    Completes (.addi d a i) s 4 (WroteX d (x + i.signExtend 64)) ∧ Completes (.andi d a i) s 4 (WroteX d (x &&& i.signExtend 64))
      ∧ Completes (.ori d a i) s 4 (WroteX d (x ||| i.signExtend 64)) ∧ Completes (.xori d a i) s 4 (WroteX d (x ^^^ i.signExtend 64))
      ∧ Completes (.slli d a n) s 4 (WroteX d (x <<< n.toNat)) ∧ Completes (.srli d a n) s 4 (WroteX d (x >>> n.toNat))
      ∧ Completes (.srai d a n) s 4 (WroteX d (x.sshiftRight n.toNat))
      ∧ Completes (.slti d a i) s 4 (WroteX d (flagBit (x.slt (i.signExtend 64))))
      ∧ Completes (.lui d u) s 4 (WroteX d (u.signExtend 64 * 32768)) ∧ Completes (.addpc d u) s 4 (WroteX d (s.ctx.pc + 4 * u.signExtend 64))

/-- R151, R152: a bit field is taken out or put in where it lies inside the register, and traps ILL_FIELD where it does not; SEL takes
xa where its condition on xc holds and xb where not.
TVAL of that ILL_FIELD is the model's reading (log 18). -/
def Obligations.BitFieldResult : Prop :=
  ∀ (s : State) (d a b c : BitVec 5) (w l : BitVec 6),
    let x := s.ctx.getX a
    let y := s.ctx.getX b
    let z := s.ctx.getX c
    (l.toNat + (w.toNat + 1) ≤ 64 →
      Completes (.bfx d a false w l) s 4 (WroteX d (((x >>> l.toNat).setWidth (w.toNat + 1)).setWidth 64))
        ∧ Completes (.bfx d a true w l) s 4 (WroteX d (((x >>> l.toNat).setWidth (w.toNat + 1)).signExtend 64))
        ∧ ∃ v, Completes (.bfi d a w l) s 4 (WroteX d v)
            ∧ ∀ n < 64, v.getLsbD n = if l.toNat ≤ n ∧ n ≤ l.toNat + w.toNat then x.getLsbD (n - l.toNat) else (s.ctx.getX d).getLsbD n)
      ∧ (64 < l.toNat + (w.toNat + 1) →
        (∀ g, Traps (.bfx d a g w l) s 0x004 (illTval (.bfx d a g w l))) ∧ Traps (.bfi d a w l) s 0x004 (illTval (.bfi d a w l)))
      ∧ Completes (.sel d a b c 0) s 4 (WroteX d (if z = 0 then y else x)) ∧ Completes (.sel d a b c 1) s 4 (WroteX d (if z = 0 then x else y))
      ∧ Completes (.sel d a b c 2) s 4 (WroteX d (if z.slt 0 then x else y)) ∧ Completes (.sel d a b c 3) s 4 (WroteX d (if z.slt 0 then y else x))

/-- R153 to R157: the coordinate operations complete in every state. GADDR builds a GLOBAL address; GCOORD takes one, or a SELF address,
apart; GNBR names the neighbour inside the partition; GSELF names the core. -/
def Obligations.CoordinateResult : Prop :=
  ∀ (s : State) (d a b : BitVec 5),
    let x := s.ctx.getX a
    let y := s.ctx.getX b
    let c := s.cur.1
    Completes (.gaddr d a b) s 4 (WroteX d
        (2#4 ++ 0#1 ++ x.extractLsb' 18 3 ++ x.extractLsb' 9 9 ++ x.extractLsb' 0 9 ++ 0#19 ++ y.extractLsb' 0 19))
      ∧ Completes (.gcoord d a) s 4 (WroteX d
        (if x.extractLsb' 60 4 = 2#4 then 0#24 ++ x.extractLsb' 0 19 ++ x.extractLsb' 56 3 ++ x.extractLsb' 47 9 ++ x.extractLsb' 38 9
         else if x.extractLsb' 60 4 = 1#4 then 0#24 ++ x.extractLsb' 0 19 ++ (coordWord (s.partIdx c) (cY c) (cX c)).setWidth 21
         else BitVec.allOnes 64))
      ∧ (∀ (dir px py : Nat) (p : Nat), dir < 4 → p < 8 → px < 512 → py < 512 → x.setWidth 21 = (coordWord p py px).setWidth 21 →
        let nx := if dir = 1 then px + 1 else px - 1
        let ny := if dir = 2 then py + 1 else py - 1
        (dir % 2 = 0 → (dir = 0 → 0 < py) → InPartition s c px ny →
          Completes (.gnbr d a (BitVec.ofNat 5 dir)) s 4 (WroteX d (coordWord p ny px)))
        ∧ (dir % 2 = 1 → (dir = 3 → 0 < px) → InPartition s c nx py →
          Completes (.gnbr d a (BitVec.ofNat 5 dir)) s 4 (WroteX d (coordWord p py nx)))
        ∧ ((dir = 0 ∧ py = 0) ∨ (dir = 3 ∧ px = 0) ∨ (dir % 2 = 0 ∧ ¬InPartition s c px ny) ∨ (dir % 2 = 1 ∧ ¬InPartition s c nx py) →
          Completes (.gnbr d a (BitVec.ofNat 5 dir)) s 4 (WroteX d (BitVec.allOnes 64))))
      ∧ Completes (.gself d) s 4 (WroteX d
        (coordWord (s.partIdx c) (cY c) (cX c) + BitVec.ofNat 64 (s.x0 c * 2^21) + BitVec.ofNat 64 (s.width c * 2^30)))

/-- R158 to R160, R165: a branch whose comparison holds, a J, a JAL and a JALR set PC and are counted; a branch whose comparison does not
hold completes at PC + 4. A taken branch or J leaves exactly the loops whose body holds it and not its target, with those of higher rank
(and deactivates no other); JAL and JALR deactivate none.
What a loop that has been left reads as, all zeros, is the model's choice (log 109). -/
def Obligations.TransferResult : Prop :=
  ∀ (s : State) (d a b : BitVec 5) (i : BitVec 15) (j : BitVec 25),
    let x := s.ctx.getX a
    let y := s.ctx.getX b
    let pc := s.ctx.pc
    let out (target : Word) (c c' : Ctx) : Prop := SameRegs c c'
      ∧ ∀ n < 3, (Leaves c target n → c'.getLc n = Loop.off) ∧ (¬Leaves c target n → c'.getLc n = c.getLc n)
    let branch (i' : Instr) (taken : Prop) : Prop :=
      (taken → Jumps i' s (pc + 4 * i.signExtend 64) (out (pc + 4 * i.signExtend 64))) ∧ (¬taken → Completes i' s 4 SameRegs)
    branch (.beq a b i) (x = y) ∧ branch (.bne a b i) (x ≠ y) ∧ branch (.blt a b i) (x.toInt < y.toInt) ∧ branch (.bge a b i) (y.toInt ≤ x.toInt)
      ∧ branch (.bltu a b i) (x.toNat < y.toNat) ∧ branch (.bgeu a b i) (y.toNat ≤ x.toNat)
      ∧ Jumps (.j j) s (pc + 4 * j.signExtend 64) (out (pc + 4 * j.signExtend 64))
      ∧ Jumps (.jal j) s (pc + 4 * j.signExtend 64) (fun c c' => WroteX 1 (pc + 4) c c' ∧ c'.lc = c.lc)
      ∧ Jumps (.jalr d a i) s (x + i.signExtend 64) (fun c c' => WroteX d (pc + 4) c c' ∧ c'.lc = c.lc)

/-- R163, R164: the step rule: however many loops are active, and whatever of them end together, an instruction that completes without a taken
transfer (of one word or two, at its issue or in the store queue, a branch that is not taken, a LOOP that starts or skips its body) steps the
innermost loop that ends there, and those around it as each is done. So, with no loop active, LOOP starts loop counter n at its body, or skips a body of trip count 0; inside one active loop that
does not end at the new body's start it becomes the loop of rank 1. A body length of 0 or above 16,382 traps ILL_FIELD. Where the instruction
after a NOP is the end of the one active loop, the loop goes back to its start while iterations are left, and ends after the last.
TVAL of that ILL_FIELD is the model's reading (log 18). -/
def Obligations.LoopResult : Prop :=
  (∀ (s : State) (n a : BitVec 5) (len : BitVec 16), n.toNat < 3 →
     let x := s.ctx.getX a
     let pc := s.ctx.pc
     let stop := pc + BitVec.ofNat 64 (8 + 4 * len.toNat)
     let keeps (m : Nat) (l : Loop) (c c' : Ctx) : Prop := SameRegs c c' ∧ c'.getLc n.toNat = l ∧ ∀ k < 3, k ≠ m → c'.getLc k = c.getLc k
     (1 ≤ len.toNat → len.toNat ≤ 16382 →
       (NoLoop s.ctx → x ≠ 0 →
         Jumps (.loop n a len) s (pc + 8) (keeps n.toNat ⟨x, (pc + 8).setWidth 16, stop.setWidth 17, 0, true⟩))
       ∧ (NoLoop s.ctx → x = 0 → Jumps (.loop n a len) s stop (fun c c' => SameRegs c c' ∧ c'.lc = c.lc))
       ∧ (∀ m < 3, m ≠ n.toNat → (s.ctx.getLc m).active = true → (s.ctx.getLc m).rank = 0 →
           (∀ k < 3, k ≠ m → (s.ctx.getLc k).active = false) → (s.ctx.getLc m).stop.setWidth 64 ≠ pc + 8 → x ≠ 0 →
         Jumps (.loop n a len) s (pc + 8) (keeps n.toNat ⟨x, (pc + 8).setWidth 16, stop.setWidth 17, 1, true⟩)))
       ∧ (len = 0 ∨ 16382 < len.toNat → Traps (.loop n a len) s 0x004 (illTval (.loop n a len))))
  ∧ (∀ (s : State) (m : Nat), m < 3 → (s.ctx.getLc m).active = true → (∀ k < 3, k ≠ m → (s.ctx.getLc k).active = false) →
      (s.ctx.getLc m).rank = 0 → (s.ctx.getLc m).stop.setWidth 64 = s.ctx.pc + 4 →
      let l := s.ctx.getLc m
      (1 < l.count.toNat → Jumps .nop s (l.start.setWidth 64)
        (fun c c' => SameRegs c c' ∧ c'.getLc m = { l with count := l.count - 1 } ∧ ∀ k < 3, k ≠ m → c'.getLc k = c.getLc k))
      ∧ (l.count.toNat ≤ 1 → Jumps .nop s (s.ctx.pc + 4)
        (fun c c' => SameRegs c c' ∧ (c'.getLc m).active = false ∧ ∀ k < 3, k ≠ m → c'.getLc k = c.getLc k)))
  ∧ ∀ (s : State) (order : List Nat) (d a b : BitVec 5) (w e f r q : Bool) (i : BitVec 15) (j : BitVec 15) (sc : BitVec 2) (n : BitVec 5)
      (len : BitVec 16), Nested s.ctx order →
      let goes (y : Instr) (bytes : Nat) : Prop := ∃ t, exec y s = .next t ∧ t.ctx.instret = s.ctx.instret + 1
        ∧ Steps (s.ctx.pc + BitVec.ofNat 64 bytes) order s.ctx.getLc t.ctx
      (∀ y ∈ [Instr.nop, .add d a b w, .mul d a b w, .div d a b w, .addi d a i, .fence sc e f r q, .yield], goes y 4)
      ∧ (s.ctx.getX a ≠ s.ctx.getX b → goes (.beq a b j) 4) ∧ (s.ctx.getX a = s.ctx.getX b → goes (.bne a b j) 4)
      ∧ ((s.strand s.cur.1 s.cur.2).willBind 5 (vget (s.core s.cur.1).bindings 5).isSome = false → goes (.recv d a b n d 5) 8)
      ∧ (n.toNat < 3 → n.toNat ∉ order → 1 ≤ len.toNat → len.toNat ≤ 16382 →
          let stop := s.ctx.pc + BitVec.ofNat 64 (8 + 4 * len.toNat)
          let new : Loop := ⟨s.ctx.getX a, (s.ctx.pc + 8).setWidth 16, stop.setWidth 17, BitVec.ofNat 2 order.length, true⟩
          ∃ t, exec (.loop n a len) s = .next t ∧ t.ctx.instret = s.ctx.instret + 1
            ∧ (s.ctx.getX a = 0 → Steps stop order s.ctx.getLc t.ctx)
            ∧ (s.ctx.getX a ≠ 0 → Steps (s.ctx.pc + 8) (n.toNat :: order) (fun k => if k = n.toNat then new else s.ctx.getLc k) t.ctx))

/-! ## Control registers, strands, traps -/

namespace Sys2Proof.Spec
open Sys2Proof.Machine

/-- R126: the assigned control registers. -/
def Assigned (n : BitVec 12) : Prop := n.toNat ≤ 0x00E ∨ (0x010 ≤ n.toNat ∧ n.toNat ≤ 0x016) ∨ n = 0x018

/-- R127: STATUS as software reads it. -/
def statusWord (c : Ctx) : Word :=
  0#60 ++ (flagBit c.hnd : BitVec 1) ++ (flagBit c.bg : BitVec 1) ++ (flagBit c.ppriv : BitVec 1) ++ (flagBit c.priv : BitVec 1)

/-- From c to c' nothing changes but what `put` puts back, PC, the loop counters and INSTRET. -/
def Kept (put : Ctx → Ctx) (c c' : Ctx) : Prop := { put c' with pc := c.pc, lc := c.lc, instret := c.instret, bad := c.bad } = c

/-- R252: nothing younger has overwritten a register that instruction number n of strand k still has to write, and no younger one kept a snapshot
in which that has happened. -/
structure Apart (s : State) (c : CoreId) (k : Fin 4) (n : Nat) : Prop where
  strand : ∀ p ∈ (s.strand c k).lost, p.1 ≠ n
  entries : ∀ e, e ∈ (s.strand c k).loads ∨ e ∈ (s.strand c k).sq ∨ (s.strand c k).wait = some e → ∀ p ∈ e.lost, p.1 ≠ n
  unit : ∀ u ∈ (s.core c).unitq, ∀ p ∈ u.lost, p.1 ≠ n

/-- R402, R410, R429: in s, where partition q of part p is held, the host reads STATE 4 of its mailbox; in t it reads the mailbox that the partition
itself has all the time. -/
def ShownInHold (s t : State) (p : Nat) (q : Ptn) : Prop :=
  ((s.wafer p).mailShown q.slot).st = 4 ∧ (t.wafer p).mailShown q.slot = vget (s.wafer p).mail q.slot ∧ vget (t.wafer p).mail q.slot = vget (s.wafer p).mail q.slot

/-- A record of a cause has been made on part p. -/
def Recorded (s t : State) (p cause : Nat) : Prop := ∃ r, (t.wafer p).errq = (s.wafer p).errq ++ [r] ∧ r.cause = cause

/-- The running strand has nothing under way and no fault pending, and nothing stops its core: what HALT and HRET wait for (R136, R252, R222,
R343). Other strands may have unit instructions and endpoints, and its own sinks may hold flits. -/
structure Quiet (s : State) : Prop where
  going : s.halted s.cur.1 s.cur.2 = false
  loads : (s.strand s.cur.1 s.cur.2).loads = []
  queue : (s.strand s.cur.1 s.cur.2).sq = []
  pbc : (s.strand s.cur.1 s.cur.2).pbc = 0
  fpbc : (s.strand s.cur.1 s.cur.2).fpbc = 0
  faults : (s.strand s.cur.1 s.cur.2).faults = []
  unit : ∀ u ∈ (s.core s.cur.1).unitq, u.strand ≠ s.cur.2
  sources : ∀ p ∈ (s.core s.cur.1).eps, p.strand = s.cur.2 → p.role = 0 → p.queue = []
  local_ : s.localDone s.cur.1 s.cur.2 = true

end Sys2Proof.Spec

/-- R126, R127, R128, R140: CSRRD and CSRXCH read the register their number names. R115, R126, R127, R140: CSRWR and CSRXCH write
the fields of their register that are not RO, and CSRWR changes no other register, CSRXCH only its destination besides; in U mode a number at or above 0x010 traps ILL_PRIV, and an unassigned number traps
ILL_CSR.
TVAL of that ILL_CSR is the model's reading (log 18). -/
def Obligations.ControlRegisterResult : Prop :=
  (∀ (s : State) (d a : BitVec 5),
     let c := s.ctx
     let x := s.strand s.cur.1 s.cur.2
     let reads (n : BitVec 12) (v : Word) : Prop := Completes (.csrrd d n) s 4 (WroteX d v)
       ∧ (s.ctx.priv = true ∨ n.toNat < 0x010 → ∃ t, exec (.csrxch d a n) s = .next t ∧ RegsOnly s t ∧ Counted c t.ctx 4
         ∧ (d ≠ 0 → t.ctx.getX d = v) ∧ ∀ r, r ≠ d → t.ctx.getX r = c.getX r)
     reads 0x000 (statusWord c) ∧ reads 0x001 (c.mode.setWidth 64) ∧ reads 0x002 (c.flags.setWidth 64) ∧ reads 0x003 c.seed
       ∧ reads 0x004 (BitVec.ofNat 64 x.pbc) ∧ reads 0x005 (BitVec.ofNat 64 x.fpbc) ∧ reads 0x006 (BitVec.ofNat 64 (s.cycle s.cur.1))
       ∧ reads 0x007 c.instret
       ∧ reads 0x008 (BitVec.ofNat 64 (s.cur.2.1 + 2^8 * cX s.cur.1 + 2^17 * cY s.cur.1 + 2^26 * s.partIdx s.cur.1
           + 2^32 * (cY s.cur.1 * s.width s.cur.1 + (cX s.cur.1 - s.x0 s.cur.1))))
       ∧ reads 0x009 (s.me.launchid.setWidth 64) ∧ reads 0x00A (s.me.barmask.setWidth 64) ∧ reads 0x00B c.stealdom ∧ reads 0x00C c.spillbase
       ∧ reads 0x00D c.spilllim ∧ reads 0x00E c.stepc ∧ reads 0x010 c.tvec ∧ reads 0x011 c.epc ∧ reads 0x012 (c.cause.setWidth 64)
       ∧ reads 0x013 c.tval ∧ reads 0x014 c.tscratch ∧ reads 0x015 c.savebase ∧ reads 0x016 (flagBit c.note)
       ∧ reads 0x018 (BitVec.ofNat 64 (s.classinfo s.cur.1)))
  ∧ ∀ (s : State) (d a : BitVec 5),
      let v := s.ctx.getX a
      let writes (n : BitVec 12) (put : Ctx → Ctx → Ctx) (is : Ctx → Ctx → Prop) : Prop :=
        s.ctx.priv = true ∨ n.toNat < 0x010 → Completes (.csrwr a n) s 4 (fun c c' => is c c' ∧ Kept (put c) c c')
          ∧ Completes (.csrxch d a n) s 4 (fun c c' => is c c' ∧ Kept (fun e => { put c e with x := c.x }) c c' ∧ ∀ r, r ≠ d → c'.getX r = c.getX r)
      writes 0x000 (fun c e => { e with bg := c.bg, ppriv := c.ppriv })
          (fun c c' => c'.bg = v.getLsbD 2 ∧ c'.ppriv = if c.priv then v.getLsbD 1 else c.ppriv)
        ∧ writes 0x001 (fun c e => { e with mode := c.mode })
          (fun c c' => c'.mode = v.extractLsb' 3 6 ++ (if 6 ≤ (v.extractLsb' 0 3).toNat then c.mode.extractLsb' 0 3 else v.extractLsb' 0 3))
        ∧ writes 0x002 (fun c e => { e with flags := c.flags }) (fun _ c' => c'.flags = v.setWidth 7)
        ∧ writes 0x003 (fun c e => { e with seed := c.seed }) (fun _ c' => c'.seed = v)
        ∧ (∀ n, n ∈ [(0x004 : BitVec 12), 0x005, 0x006, 0x007, 0x008, 0x009, 0x00A, 0x018] → writes n (fun _ e => e) (fun _ _ => True))
        ∧ writes 0x00B (fun c e => { e with stealdom := c.stealdom }) (fun _ c' => c'.stealdom = v)
        ∧ writes 0x00C (fun c e => { e with spillbase := c.spillbase }) (fun _ c' => c'.spillbase = v &&& 0x7FFE0)
        ∧ writes 0x00D (fun c e => { e with spilllim := c.spilllim }) (fun _ c' => c'.spilllim = v &&& 0x7FFE0)
        ∧ writes 0x00E (fun c e => { e with stepc := c.stepc }) (fun _ c' => c'.stepc = v)
        ∧ writes 0x010 (fun c e => { e with tvec := c.tvec }) (fun _ c' => c'.tvec = v &&& 0xFFFF)
        ∧ writes 0x011 (fun c e => { e with epc := c.epc }) (fun _ c' => c'.epc = v)
        ∧ writes 0x012 (fun c e => { e with cause := c.cause }) (fun _ c' => c'.cause = v.setWidth 9)
        ∧ writes 0x013 (fun c e => { e with tval := c.tval }) (fun _ c' => c'.tval = v)
        ∧ writes 0x014 (fun c e => { e with tscratch := c.tscratch }) (fun _ c' => c'.tscratch = v)
        ∧ writes 0x015 (fun c e => { e with savebase := c.savebase }) (fun _ c' => c'.savebase = v &&& 0x7F000)
        ∧ writes 0x016 (fun c e => { e with note := c.note }) (fun _ c' => c'.note = v.getLsbD 0)
        ∧ (∀ n : BitVec 12, s.ctx.priv = false → 0x010 ≤ n.toNat →
            Traps (.csrwr a n) s 0x008 (illTval (.csrwr a n)) ∧ Traps (.csrxch d a n) s 0x008 (illTval (.csrxch d a n)))
        ∧ (∀ n : BitVec 12, ¬Assigned n → Traps (.csrrd d n) s 0x009 (illTval (.csrrd d n))
            ∧ (s.ctx.priv = true ∨ n.toNat < 0x010 →
                Traps (.csrwr a n) s 0x009 (illTval (.csrwr a n)) ∧ Traps (.csrxch d a n) s 0x009 (illTval (.csrxch d a n))))

/-- R414, R137: NOP and YIELD change nothing but PC and INSTRET; YIELD moves the round-robin order of its core past its strand, which may
not issue in the next cycle. R138, R139:
with no load outstanding, a WAITEV that finds an event, or asks for none without a timeout, writes what it found, clears it from EVPEND, and
completes; else it waits. -/
def Obligations.NopYieldAndWait : Prop :=
  (∀ s : State, Completes .nop s 4 SameRegs
     ∧ ∃ t, exec .yield s = .next t ∧ OnlyCore s.cur.1 s t ∧ (t.core s.cur.1).last = s.cur.2
         ∧ { t.core s.cur.1 with strands := (s.core s.cur.1).strands, last := (s.core s.cur.1).last } = s.core s.cur.1
         ∧ (∀ u, u ≠ s.cur.2 → t.strand s.cur.1 u = s.strand s.cur.1 u)
         ∧ (t.strand s.cur.1 s.cur.2).wake = some (s.now + 2)
         ∧ { t.strand s.cur.1 s.cur.2 with ctx := s.ctx, wake := (s.strand s.cur.1 s.cur.2).wake } = s.strand s.cur.1 s.cur.2
         ∧ Counted s.ctx t.ctx 4 ∧ SameRegs s.ctx t.ctx)
  ∧ ∀ (s : State) (d a b : BitVec 5), (s.strand s.cur.1 s.cur.2).loads = [] → (s.strand s.cur.1 s.cur.2).sq = [] → s.halted s.cur.1 s.cur.2 = false →
      Apart s s.cur.1 s.cur.2 (s.core s.cur.1).seq →
      let x := s.strand s.cur.1 s.cur.2
      let m := (s.ctx.getX a).extractLsb' 0 6
      let level : BitVec 1 := flagBit (m.getLsbD 5 && x.pbc == 0 && x.fpbc == 0)
      let hit : BitVec 6 := level ++ (x.evpend &&& m.extractLsb' 0 5)
      (hit ≠ 0 ∨ (m = 0 ∧ s.ctx.getX b = 0) →
        ∃ t, exec (.waitev d a b) s = .next t ∧ OnlyCore s.cur.1 s t ∧ Counted s.ctx t.ctx 4 ∧ WroteX d (hit.setWidth 64) s.ctx t.ctx
          ∧ (t.strand s.cur.1 s.cur.2).evpend = x.evpend &&& ~~~(hit.extractLsb' 0 5) ∧ ∀ u, u ≠ s.cur.2 → t.strand s.cur.1 u = s.strand s.cur.1 u)
      ∧ (hit = 0 → ¬(m = 0 ∧ s.ctx.getX b = 0) → x.st = .ready →
        ∃ t, exec (.waitev d a b) s = .next t ∧ Waiting (.waitev d a b) s t ∧ (t.strand s.cur.1 s.cur.2).st = .waiting)

/-- R386, R415: TRAP completes, is counted and steps the loops, and then enters a trap with cause 0x010 + n, TVAL x[ra], and EPC the next
PC; `TRAP 5, x10` is 0xE005_0051. -/
def Obligations.TrapEntersAfterCompletion : Prop :=
  (∀ (s : State) (a : BitVec 5) (n : BitVec 4), ∃ t, exec (.trap a n) s = .next t ∧ RegsOnly s t
      ∧ t.ctx.cause = BitVec.ofNat 9 (0x010 + n.toNat) ∧ t.ctx.tval = s.ctx.getX a ∧ t.ctx.epc = (s.ctx.seqTo (s.ctx.pc + 4)).pc
      ∧ t.ctx.lc = (s.ctx.seqTo (s.ctx.pc + 4)).lc ∧ t.ctx.instret = s.ctx.instret + 1
      ∧ t.ctx.ppriv = s.ctx.priv ∧ t.ctx.priv = true ∧ t.ctx.pc = s.ctx.tvec
      ∧ Kept (fun e => { e with cause := s.ctx.cause, tval := s.ctx.tval, epc := s.ctx.epc, ppriv := s.ctx.ppriv, priv := s.ctx.priv,
                                trapAt := s.ctx.trapAt }) s.ctx t.ctx)
    ∧ decodeTableWord 32 0xE0050051 = some (.trap 10 5)

/-- R386, R416: BRK does not complete: it traps with cause 0x020 + n, EPC its own address and TVAL its word, and changes neither INSTRET nor
a loop counter; `BRK 0` is 0xE000_0003 and `BRK 31` is 0xE000_01F3. -/
def Obligations.BreakpointTraps : Prop :=
  (∀ (s : State) (n : BitVec 5), Traps (.brk n) s (0x020 + n.toNat) (0xE0000003 + n.setWidth 64 * 16))
    ∧ decodeTableWord 32 0xE0000003 = some (.brk 0) ∧ decodeTableWord 32 0xE00001F3 = some (.brk 31)

/-- R417: ERET in S mode goes to EPC with the privilege of PPRIV and clears PPRIV, leaving HND and the loop counters; in U mode it traps
ILL_PRIV. R410, R417: ERET.P of the exempt strand of a held partition ends the hold, counts it and restores the mailbox (whose STATE the
host saw as 4 until then), and its strand goes on at PC + 4 with its privilege; elsewhere in S mode it traps ERET_FRAME, and in U mode ILL_PRIV. -/
def Obligations.ReturnResult : Prop :=
  (∀ s : State,
     (s.ctx.priv = true → Jumps .eret s s.ctx.epc (fun c c' => c'.priv = c.ppriv ∧ c'.ppriv = false ∧ c'.lc = c.lc
       ∧ Kept (fun e => { e with priv := c.priv, ppriv := c.ppriv }) c c'))
     ∧ (s.ctx.priv = false → Traps .eret s 0x008 (illTval .eret)))
  ∧ ∀ s : State,
      (∀ q, s.ptnOf s.cur.1 = some q → s.ctx.priv = true → q.pre.held = true → q.pre.exempt = some s.cur → (s.core s.cur.1).saved = false →
          (s.wafer (cPart s.cur.1)).ptnIn q.slot = some q →
        ∃ t, exec .eretP s = .next t ∧ Counted s.ctx t.ctx 4 ∧ SameRegs s.ctx t.ctx
          ∧ ShownInHold s t (cPart s.cur.1) q
          ∧ ∃ r, (t.wafer (cPart s.cur.1)).ptnIn q.slot = some r ∧ r.pre.held = false ∧ r.pre.saving = false ∧ r.pre.exempt = none
              ∧ r.pre.count = q.pre.count + 1)
      ∧ (s.ctx.priv = true → (∀ q, s.ptnOf s.cur.1 = some q → ¬(q.pre.held = true ∧ q.pre.exempt = some s.cur)) → Traps .eretP s 0x00E 0)
      ∧ (s.ctx.priv = false → Traps .eretP s 0x008 (illTval .eretP))

/-- R135, R125, R126: SPAWN starts the lowest strand that is FREE, and not only since this cycle, and that no tag is bound to, to issue 4 cycles
later, with its entry, its argument in x10 and every other register
as R125 and R126 give it; with none it writes all ones. It changes no other strand. -/
def Obligations.SpawnStartsStrand : Prop :=
  ∀ (s : State) (d a b : BitVec 5) (bg user : Bool),
    let k := s.me
    let cand (u : Fin 4) : Prop := (k.strand u).st = .free ∧ (k.strand u).wake = none ∧ ∀ g < 64, ∀ b, vget k.bindings g = some b → b.strand ≠ u
    ((∀ u, ¬cand u) → Completes (.spawn d a b bg user) s 4 (WroteX d (BitVec.allOnes 64)))
    ∧ ∀ n, cand n → (∀ u, u < n → ¬cand u) → s.cur.2 ≠ n →
      ∃ t, exec (.spawn d a b bg user) s = .next t ∧ OnlyCore s.cur.1 s t ∧ Counted s.ctx t.ctx 4 ∧ WroteX d (BitVec.ofNat 64 n.1) s.ctx t.ctx
        ∧ (∀ u, u ≠ s.cur.2 → u ≠ n → t.strand s.cur.1 u = s.strand s.cur.1 u)
        ∧ { t.core s.cur.1 with strands := k.strands, lfsr := k.lfsr } = k
        ∧ (let y := t.strand s.cur.1 n
           let c := y.ctx
           y.st = .ready ∧ y.wake = some (s.now + 4) ∧ y.evpend = 0 ∧ y.pbc = 0 ∧ y.fpbc = 0 ∧ c.pc = s.ctx.getX a
            ∧ (∀ r, c.getX r = if r = 10 then s.ctx.getX b else 0) ∧ (∀ r, c.getV r = 0) ∧ (∀ r, c.getP r = if r = 0 then 0xFFFF else 0)
            ∧ (∀ r, c.getD r = 0) ∧ NoLoop c
            ∧ c.priv = (s.ctx.priv && !user) ∧ c.ppriv = false ∧ c.bg = bg ∧ c.hnd = false ∧ c.mode = s.ctx.mode ∧ c.flags = 0
            ∧ c.seed = BitVec.ofNat 2 n.1 ++ s.ctx.seed.extractLsb' 0 62 ∧ c.instret = 0 ∧ c.stepc = 0 ∧ c.stealdom = s.ctx.stealdom
            ∧ c.spillbase = s.ctx.spillbase ∧ c.spilllim = s.ctx.spilllim ∧ c.tvec = s.ctx.tvec ∧ c.epc = 0 ∧ c.cause = 0 ∧ c.tval = 0
            ∧ c.tscratch = 0 ∧ c.savebase = s.ctx.savebase ∧ c.note = s.ctx.note)

/-- R136, R302, R343: with nothing of the strand under way, HALT frees it, HALT.R retains it with its registers at PC + 4 and no loop, and HRET in a
handler frees or retains it as it was before and clears HND; each leaves the strand's registers as they are, gives back its accumulators, detaches
its endpoints, sets event bit 4 of every other strand, and changes nothing else of the core: not what other strands have in the matrix unit's
queue, nor their endpoints. HALT in a handler traps HALT_IN_HANDLER, HRET outside one HRET_OUTSIDE. -/
def Obligations.HaltEndsStrand : Prop :=
  ∀ s : State,
    let c := s.cur.1
    let k := s.cur.2
    let ends (i : Instr) (retain : Bool) : Prop := ∃ t, exec i s = .next t ∧ OnlyCore c s t
      ∧ (∀ u, u ≠ k → t.strand c u = { s.strand c u with evpend := (s.strand c u).evpend ||| 16 })
      ∧ (∀ n < 8, vget (t.core c).holder n = if vget (s.core c).holder n = some k then none else vget (s.core c).holder n)
      ∧ (t.core c).eps = (s.core c).eps.filter (fun p => p.strand ≠ k)
      ∧ { t.core c with strands := (s.core c).strands, seq := (s.core c).seq, holder := (s.core c).holder, eps := (s.core c).eps } = s.core c
      ∧ (t.strand c k).ctx.hnd = false
      ∧ (t.strand c k).st = (if retain then .retained else .free)
      ∧ (t.strand c k).ctx.x = s.ctx.x ∧ (t.strand c k).ctx.v = s.ctx.v ∧ (t.strand c k).ctx.p = s.ctx.p ∧ (t.strand c k).ctx.d = s.ctx.d
      ∧ (retain = true → (t.strand c k).ctx.pc = s.ctx.pc + 4 ∧ NoLoop (t.strand c k).ctx ∧ (t.strand c k).evpend = (s.strand c k).evpend)
    (s.ctx.hnd = false → Quiet s → ends .halt false ∧ ends .haltR true)
    ∧ (s.ctx.hnd = true → Quiet s → ends .hret (s.strand c k).fromRetained)
    ∧ (s.ctx.hnd = true → Traps .halt s 0x0CC 0 ∧ Traps .haltR s 0x0CC 0)
    ∧ (s.ctx.hnd = false → Traps .hret s 0x0C8 0)

/-! ## Scalar floating point (R168 to R173) -/

namespace Sys2Proof.Spec
open Sys2Proof.Machine Sys2Proof.Num

/-- R119, R169: an instruction with exceptions e: it completes as P says where none of them traps under MODE, and else traps with the
arithmetic cause of the exception's kind and of the format group `grp`, writing nothing. -/
def Arith (i : Instr) (s : State) (grp : Nat) (e : Exc) (P : Ctx → Ctx → Prop) : Prop :=
  (trapKind s.ctx.mode e = none → Completes i s 4 P) ∧ ∀ k, trapKind s.ctx.mode e = some k → Traps i s (0x040 + 8 * k + grp) 0

/-- x[d] has got v, FLAGS the exceptions e, and STEP one more under stochastic rounding; no other register has changed. -/
def WroteF (d : BitVec 5) (v : Word) (e : Exc) (sr : Bool) (c c' : Ctx) : Prop :=
  (∀ r, c'.getX r = if r = d ∧ d ≠ 0 then v else c.getX r) ∧ c'.flags = c.flags ||| e.setWidth 7
    ∧ c'.stepc = c.stepc + (if sr then 1 else 0)
    ∧ { c' with x := c.x, flags := c.flags, stepc := c.stepc, pc := c.pc, lc := c.lc, instret := c.instret, bad := c.bad } = c

/-- R171: the pair (x[d], x[d + 1]) has got (h, l). -/
def WrotePair (d : BitVec 5) (h l : Word) (e : Exc) (sr : Bool) (c c' : Ctx) : Prop :=
  c'.getX d = h ∧ c'.getX (d + 1) = l ∧ (∀ r, r ≠ d → r ≠ d + 1 → c'.getX r = c.getX r) ∧ c'.flags = c.flags ||| e.setWidth 7
    ∧ c'.stepc = c.stepc + (if sr then 1 else 0)
    ∧ { c' with x := c.x, flags := c.flags, stepc := c.stepc, pc := c.pc, lc := c.lc, instret := c.instret, bad := c.bad } = c

/-- R168: the widths of exponent and fraction of a precision code. -/
def expBits (p : BitVec 2) : Nat := if p = 0 then 5 else if p = 2 then 11 else 8
def fracBits (p : BitVec 2) : Nat := if p = 0 then 10 else if p = 1 then 23 else if p = 2 then 52 else 7

/-- A finite number of an IEEE format with `ew` exponent and `fw` fraction bits, times 2^1074; none for infinities and NaNs. -/
def finite (ew fw raw : Nat) : Option Int :=
  let frac := raw % 2^fw
  let ex := raw / 2^fw % 2^ew
  let bias := 2^(ew - 1) - 1
  let mag : Nat := if ex = 0 then frac * 2^(1075 - bias - fw) else (2^fw + frac) * 2^(1074 + ex - bias - fw)
  if ex = 2^ew - 1 then none else some (if raw / 2^(ew + fw) % 2 = 1 then -(mag : Int) else mag)

/-- R92, R94: a code is a NaN (or poison), and a signalling one. -/
def IsNaN (ew fw raw : Nat) : Prop := raw / 2^fw % 2^ew = 2^ew - 1 ∧ raw % 2^fw ≠ 0
def Signals (ew fw raw : Nat) : Prop := IsNaN ew fw raw ∧ raw / 2^(fw - 1) % 2 = 0

/-- The order of the codes that are no NaN: finite numbers by value, and an infinity beyond them. -/
def ordered (ew fw raw : Nat) : Option Int :=
  if raw / 2^fw % 2^ew = 2^ew - 1 ∧ raw % 2^fw = 0 then some (if raw / 2^(ew + fw) % 2 = 1 then -(2^2200) else 2^2200) else finite ew fw raw

end Sys2Proof.Spec

/-- R169 to R173: each scalar floating-point instruction writes its operation's result under the effective rounding code, raises its flags and
advances STEP under stochastic rounding; or, where MODE enables a raised exception, traps and writes nothing. FCMP writes exactly one of equal,
less, greater and unordered, by the values of its operands, infinities among them; −0 equals +0, and a NaN or poison is unordered. It raises NV for a
signalling NaN alone, and traps where MODE enables that.
That POISON_VALUE comes before the other exceptions is the model's reading (log 20). -/
def Obligations.ScalarFloatResult : Prop :=
  (∀ (s : State) (d a b c : BitVec 5) (r : BitVec 3) (p : BitVec 2),
     let f := precF p
     let rc : Nat := if r = 6 then (s.ctx.mode.extractLsb' 0 3).toNat else r.toNat
     let sr : Bool := rc == 5
     let x := (s.ctx.getX a).toNat % 2^f.width
     let y := (s.ctx.getX b).toNat % 2^f.width
     let z := (s.ctx.getX c).toNat % 2^f.width
     let rnd := (Num.philox s.ctx.seed.toNat 0 0 (s.ctx.stepc.toNat % 2^32) (s.c3 s.cur.1)).1
     let sat := s.ctx.mode.getLsbD 3
     let run (i : Instr) (v : Num.Res) (sr : Bool) : Prop := Arith i s f.grp v.2 (WroteF d (BitVec.ofNat 64 v.1) v.2 sr)
     let pair (i : Instr) (op : Num.Val → Num.Val → Num.XR) : Prop := d.toNat % 2 = 0 → d ≠ 0 →
       let v := Num.pairOp f rc sat rnd op x y
       Arith i s f.grp v.2.2 (WrotePair d (BitVec.ofNat 64 v.1) (BitVec.ofNat 64 v.2.1) v.2.2 sr)
     run (.fadd d a b r false p) (Num.fAdd f rc rnd x y) sr ∧ run (.fsub d a b r false p) (Num.fSub f rc rnd x y) sr
       ∧ run (.fmul d a b r false p) (Num.fMul f rc rnd x y) sr ∧ run (.fdiv d a b r p) (Num.fDiv f rc rnd x y) sr
       ∧ run (.fsqrt d a r p) (Num.fSqrt f rc rnd x) sr ∧ run (.fma d a b c r p) (Num.fFma f rc rnd false x y z) sr
       ∧ run (.fmin d a b p) (Num.fMinMax f false x y) false ∧ run (.fmax d a b p) (Num.fMinMax f true x y) false
       ∧ run (.fclass d a p) (2^(Num.fClass f x), 0) false
       ∧ pair (.fadd d a b r true p) (Num.xAdd rc) ∧ pair (.fsub d a b r true p) (fun u v => Num.xAdd rc u v.negate)
       ∧ pair (.fmul d a b r true p) Num.xMul
       ∧ ∀ fr tt : BitVec 3,
           let v := cvt fr tt rc sat rnd (s.ctx.getX a)
           Arith (.fcvt d a r fr tt) s (if tt = 0 then 0 else if tt = 1 then 1 else if tt = 2 then 2 else if tt = 3 then 3 else 7) v.2
             (WroteF d v.1 v.2 sr))
  ∧ ∀ (s : State) (d a b : BitVec 5) (p : BitVec 2),
      let raw (r : BitVec 5) := (s.ctx.getX r).toNat
      let v (r : BitVec 5) := ordered (expBits p) (fracBits p) (raw r)
      let signals : Prop := Signals (expBits p) (fracBits p) (raw a) ∨ Signals (expBits p) (fracBits p) (raw b)
      (∀ m n, v a = some m → v b = some n →
        Completes (.fcmp d a b p) s 4 (WroteX d (if m = n then 1 else if m < n then 2 else 4)))
      ∧ (∀ q : BitVec 5, q = a ∨ q = b → IsNaN (expBits p) (fracBits p) (raw q) →
          (¬signals → Completes (.fcmp d a b p) s 4 (WroteX d 8))
          ∧ (signals → s.ctx.mode.getLsbD 4 = false → Completes (.fcmp d a b p) s 4 (WroteF d 8 1 false))
          ∧ (signals → s.ctx.mode.getLsbD 4 = true → Traps (.fcmp d a b p) s (0x068 + (precF p).grp) 0))

/-- R92, R108, R170: the sum of two finite numbers of one format is rounded once: to nearest, no finite number of the format lies nearer to
the exact sum than a finite result, and NX is raised exactly where the two differ; rounding down and up, a finite result bounds the exact
sum and no finite number lies between them. -/
def Obligations.SumIsRoundedOnce : Prop :=
  ∀ (p : BitVec 2) (a b : Nat) (x y r : Int),
    let f := precF p
    let fin := finite (expBits p) (fracBits p)
    fin a = some x → fin b = some y →
    let res (rc : Nat) := Num.fAdd f rc 0 (a % 2^f.width) (b % 2^f.width)
    (fin (res 0).1 = some r → ∀ n z, fin n = some z → (r - (x + y)).natAbs ≤ (z - (x + y)).natAbs)
    ∧ (fin (res 0).1 = some r → ((res 0).2.getLsbD 4 = true ↔ r ≠ x + y))
    ∧ (fin (res 2).1 = some r → r ≤ x + y ∧ ∀ n z, fin n = some z → z ≤ x + y → z ≤ r)
    ∧ (fin (res 3).1 = some r → x + y ≤ r ∧ ∀ n z, fin n = some z → x + y ≤ z → r ≤ z)

/-! ## The vector unit (R175 to R186, R192 to R218) -/

namespace Sys2Proof.Spec
open Sys2Proof.Machine Sys2Proof.Num

/-- R175: element e of width w of a vector register. -/
def el (w : Nat) (v : VReg) (e : Nat) : BitVec w := v.extractLsb' (w * e) w

/-- R176, R178: the lane of element e is active under a guard. -/
def On (g : PReg) (w e : Nat) : Prop := e < 512 / w ∧ g.getLsbD (e * w / 32) = true

/-- R177: the active elements of v[d] have got `r`, the inactive ones their old bits; no other v register has changed. -/
def WroteEls (d : BitVec 5) (g : BitVec 3) (w : Nat) (r : Nat → BitVec w) (c c' : Ctx) : Prop :=
  (∀ q, q ≠ d → c'.getV q = c.getV q)
    ∧ ∀ e < 512 / w, (On (c.getP g) w e → el w (c'.getV d) e = r e) ∧ (¬On (c.getP g) w e → el w (c'.getV d) e = el w (c.getV d) e)

/-- No register has changed but v registers, FLAGS, STEP, PC, the loop counters and INSTRET. -/
def VRest (c c' : Ctx) : Prop :=
  { c' with v := c.v, flags := c.flags, stepc := c.stepc, pc := c.pc, lc := c.lc, instret := c.instret, bad := c.bad } = c

/-- An exact vector instruction: it completes in every state, writes elements, and raises nothing. -/
def VecExact (i : Instr) (s : State) (d : BitVec 5) (g : BitVec 3) (w : Nat) (r : Nat → BitVec w) : Prop :=
  Completes i s 4 (fun c c' => WroteEls d g w r c c' ∧ c'.flags = c.flags ∧ c'.stepc = c.stepc ∧ VRest c c')

/-- R119, R177, R178: an instruction whose element e (of n) has exceptions `x e` in lane `lane e`, active where `on e`: with x all the
exceptions of its active elements it completes as P says, FLAGS taking them in and STEP advancing under `sr`, or, where MODE enables one of
them, traps with the kind's cause and the lanes that raised it, and writes nothing. -/
def LanesArith (i : Instr) (s : State) (grp : Nat) (sr : Bool) (on : Nat → Prop) (lane : Nat → Nat) (x : Nat → Exc) (P : Ctx → Ctx → Prop) : Prop :=
  ∃ all : Exc, (∀ b < 11, all.getLsbD b = true ↔ ∃ e, on e ∧ (x e).getLsbD b = true)
    ∧ (trapKind s.ctx.mode all = none → Completes i s 4 (fun c c' => P c c' ∧ c'.flags = c.flags ||| all.setWidth 7
        ∧ c'.stepc = c.stepc + (if sr then 1 else 0) ∧ VRest c c'))
    ∧ ∀ k, trapKind s.ctx.mode all = some k → ∃ tv : Word, Traps i s (0x040 + 8 * k + grp) tv ∧ tv.toNat < 2^16
        ∧ ∀ l < 16, tv.getLsbD l = true ↔ ∃ e, on e ∧ lane e = l ∧ raised k (x e) = true

/-- A guarded vector operation of type t with result and exceptions `r e` for element e. -/
def VecArith (i : Instr) (s : State) (d : BitVec 5) (g t : BitVec 3) (sr : Bool) (r : Nat → Res) : Prop :=
  LanesArith i s (typeGrp t) sr (On (s.ctx.getP g) (typeW t)) (fun e => e * typeW t / 32) (fun e => (r e).2)
    (WroteEls d g (typeW t) fun e => BitVec.ofNat (typeW t) (r e).1)

/-- The same with a pair of results for the pair (vd, vd + 1). -/
def VecPairArith (i : Instr) (s : State) (d : BitVec 5) (g t : BitVec 3) (sr : Bool) (r : Nat → Nat × Nat × Exc) : Prop :=
  LanesArith i s (typeGrp t) sr (On (s.ctx.getP g) (typeW t)) (fun e => e * typeW t / 32) (fun e => (r e).2.2)
    (fun c c' => (∀ q, q ≠ d → q ≠ d + 1 → c'.getV q = c.getV q)
      ∧ ∀ e < 512 / typeW t,
        (On (c.getP g) (typeW t) e → el (typeW t) (c'.getV d) e = BitVec.ofNat (typeW t) (r e).1
            ∧ el (typeW t) (c'.getV (d + 1)) e = BitVec.ofNat (typeW t) (r e).2.1)
        ∧ (¬On (c.getP g) (typeW t) e → el (typeW t) (c'.getV d) e = el (typeW t) (c.getV d) e
            ∧ el (typeW t) (c'.getV (d + 1)) e = el (typeW t) (c.getV (d + 1)) e))

end Sys2Proof.Spec

/-- R177, R180, R182: on integer types each vector operation writes its active elements alone, modulo the width, and raises nothing. -/
def Obligations.VectorIntegerResult : Prop :=
  ∀ (s : State) (d a b : BitVec 5) (g t : BitVec 3), t ≠ 4 → t ≠ 5 → t ≠ 6 →
    let w := typeW t
    let signed : Bool := t == 0 || t == 2 || t == 7
    let run (i : Instr) (f : BitVec w → BitVec w → BitVec w → BitVec w) : Prop := VecExact i s d g w fun e =>
      f (el w (s.ctx.getV a) e) (el w (s.ctx.getV b) e) (el w (s.ctx.getV d) e)
    let less (x y : BitVec w) : Bool := if signed then x.slt y else x.ult y
    run (.vadd d a b g t) (fun x y _ => x + y) ∧ run (.vsub d a b g t) (fun x y _ => x - y) ∧ run (.vmul d a b g t) (fun x y _ => x * y)
      ∧ run (.vma d a b g t) (fun x y z => x * y + z) ∧ run (.vms d a b g t) (fun x y z => z - x * y)
      ∧ run (.vmin d a b g t) (fun x y _ => if less y x then y else x) ∧ run (.vmax d a b g t) (fun x y _ => if less x y then y else x)
      ∧ (signed = true → run (.vabs d a g t) (fun x _ _ => if x.msb then -x else x) ∧ run (.vneg d a g t) (fun x _ _ => -x))
      ∧ run (.vshl d a b g t) (fun x y _ => if w ≤ y.toNat then 0 else x <<< y.toNat)
      ∧ run (.vshr d a b g t) (fun x y _ => if signed then x.sshiftRight y.toNat else if w ≤ y.toNat then 0 else x >>> y.toNat)

/-- R177, R178, R180, R185: on float types each vector operation writes the once rounded result of its active elements under MODE's rounding
code, each element with its own random word, and raises its flags or traps.
That POISON_VALUE comes before the other exceptions is the model's reading (log 20). -/
def Obligations.VectorFloatCompletes : Prop :=
  ∀ (s : State) (d a b : BitVec 5) (g t : BitVec 3) (f : Num.Fmt), typeF t = some f →
    let w := typeW t
    let rc := (s.ctx.mode.extractLsb' 0 3).toNat
    let rnd (e : Nat) := (Num.philox s.ctx.seed.toNat e 0 (s.ctx.stepc.toNat % 2^32) (s.c3 s.cur.1)).1
    let x (e : Nat) := (el w (s.ctx.getV a) e).toNat
    let y (e : Nat) := (el w (s.ctx.getV b) e).toNat
    let z (e : Nat) := (el w (s.ctx.getV d) e).toNat
    let rounds (i : Instr) (r : Nat → Num.Res) : Prop := VecArith i s d g t (rc == 5) r
    let plain (i : Instr) (r : Nat → Num.Res) : Prop := VecArith i s d g t false r
    rounds (.vadd d a b g t) (fun e => Num.fAdd f rc (rnd e) (x e) (y e)) ∧ rounds (.vsub d a b g t) (fun e => Num.fSub f rc (rnd e) (x e) (y e))
      ∧ rounds (.vmul d a b g t) (fun e => Num.fMul f rc (rnd e) (x e) (y e))
      ∧ rounds (.vma d a b g t) (fun e => Num.fFma f rc (rnd e) false (x e) (y e) (z e))
      ∧ rounds (.vms d a b g t) (fun e => Num.fFma f rc (rnd e) true (x e) (y e) (z e))
      ∧ plain (.vmin d a b g t) (fun e => Num.fMinMax f false (x e) (y e)) ∧ plain (.vmax d a b g t) (fun e => Num.fMinMax f true (x e) (y e))
      ∧ plain (.vabs d a g t) (fun e => (x e % 2^(w - 1), 0)) ∧ plain (.vneg d a g t) (fun e => (x e ^^^ 2^(w - 1), 0))
      ∧ rounds (.vrcp d a g t) (fun e => Num.op1 f rc false (rnd e) Num.xRcp (x e))
      ∧ rounds (.vrsq d a g t) (fun e => Num.op1 f rc false (rnd e) Num.xRsqrt (x e))
      ∧ rounds (.vexp2 d a g t) (fun e => Num.op1 f rc false (rnd e) Num.xExp2 (x e))
      ∧ rounds (.vlog2 d a g t) (fun e => Num.op1 f rc false (rnd e) Num.xLog2 (x e))

/-- R182, R184: bitwise operations, selection, moves and permutes complete in every state, move plain bits, and raise nothing; an index at
or beyond the number of elements gives zero, by its full value. R183, R186: VCMP and the predicate operations write the bits that their
guard names and leave the others; PCNT and PFIRST read them. On float types VCMP goes by value: −0 equals +0, a NaN or poison makes EQ, LT and LE
false and NE true, and a signalling NaN of an active element raises NV, which traps where MODE enables it. -/
def Obligations.MoveAndPredicateResult : Prop :=
  (∀ (s : State) (d a b : BitVec 5) (g t : BitVec 3),
     let w := typeW t
     let n := 512 / w
     let va := s.ctx.getV a
     let vb := s.ctx.getV b
     let xa := s.ctx.getX a
     let xb := s.ctx.getX b
     let idx (e : Nat) := (el w vb e).toNat
     let own (e : Nat) := (el w (s.ctx.getV d) e).toNat
     VecExact (.vand d a b g) s d g 32 (fun e => el 32 va e &&& el 32 vb e) ∧ VecExact (.vor d a b g) s d g 32 (fun e => el 32 va e ||| el 32 vb e)
       ∧ VecExact (.vxor d a b g) s d g 32 (fun e => el 32 va e ^^^ el 32 vb e) ∧ VecExact (.vmov d a g) s d g 32 (fun e => el 32 va e)
       ∧ Completes (.vsel d a b g) s 4 (fun c c' => (∀ q, q ≠ d → c'.getV q = c.getV q) ∧ c'.flags = c.flags ∧ c'.stepc = c.stepc ∧ VRest c c'
           ∧ ∀ k < 16, el 32 (c'.getV d) k = if (c.getP g).getLsbD k then el 32 va k else el 32 vb k)
       ∧ VecExact (.vbcast d b g t) s d g w (fun _ => xb.setWidth w)
       ∧ VecExact (.vperm d a b g t) s d g w (fun e => if idx e < n then el w va (idx e) else 0)
       ∧ VecExact (.vshuf d a b g t) s d g w
           (fun e => if own e < n then el w va (own e) else if own e < 2 * n then el w vb (own e - n) else 0)
       ∧ VecExact (.vslide d a b g t) s d g w
           (fun e => if 0 ≤ (e : Int) + xb.toInt ∧ (e : Int) + xb.toInt < n then el w va ((e : Int) + xb.toInt).toNat else 0)
       ∧ Completes (.vext d a b t) s 4 (WroteX d
           (let v := if xb.toNat < n then el w va xb.toNat else 0
            if t = 0 ∨ t = 2 ∨ t = 7 then v.signExtend 64 else v.setWidth 64))
       ∧ VecExact (.vins d a b g t) s d g w (fun e => if e = xa.toNat then xb.setWidth w else el w (s.ctx.getV d) e))
  ∧ ∀ (s : State) (d a b : BitVec 5) (p g t : BitVec 3),
      let A := s.ctx.getP (a.setWidth 3)
      let B := s.ctx.getP (b.setWidth 3)
      let G := s.ctx.getP g
      let merged (p : BitVec 3) (v : PReg) : PReg := (s.ctx.getP p &&& ~~~G) ||| (v &&& G)
      let writes (i : Instr) (p : BitVec 3) (v : PReg) : Prop := Completes i s 4 (WroteP p (merged p v) 0)
      let q := d.setWidth 3
      let xa := s.ctx.getX a
      let w := typeW t
      let raw (r : BitVec 5) (e : Nat) := el w (s.ctx.getV r) e
      let lanes (holds : Nat → Prop) (v : PReg) : Prop := ∀ k < 16, v.getLsbD k = true ↔ ∀ e < 512 / w, e * w / 32 = k → holds e
      (d.toNat < 8 →
        writes (.pand d a b g) q (A &&& B) ∧ writes (.por d a b g) q (A ||| B) ∧ writes (.pxor d a b g) q (A ^^^ B) ∧ writes (.pnot d a g) q (~~~A)
          ∧ writes (.pset d a g) q (xa.setWidth 16)
          ∧ ∀ m : Nat, (xa.toNat < 16 → m = xa.toNat) → (16 ≤ xa.toNat → m = 16) → writes (.psetN d a g) q (BitVec.ofNat 16 (2^m - 1)))
        ∧ Completes (.pcnt d a g) s 4 (WroteX d ((A &&& G).cpop.setWidth 64))
        ∧ (∃ v, Completes (.pfirst d a g) s 4 (WroteX d v) ∧ v.toNat ≤ 16 ∧ (v.toNat < 16 → (A &&& G).getLsbD v.toNat = true)
            ∧ ∀ k < v.toNat, (A &&& G).getLsbD k = false)
        ∧ ∀ cc : BitVec 2,
            (t ≠ 4 → t ≠ 5 → t ≠ 6 →
              let less (x y : BitVec w) : Bool := if t = 0 ∨ t = 2 ∨ t = 7 then x.slt y else x.ult y
              let holds (x y : BitVec w) : Bool :=
                if cc = 0 then x == y else if cc = 1 then x != y else if cc = 2 then less x y else less x y || x == y
              ∃ v, writes (.vcmp cc p a b g t) p v ∧ lanes (fun e => holds (raw a e) (raw b e) = true) v)
            ∧ ∀ ew fw : Nat, (t = 4 ∧ ew = 8 ∧ fw = 23) ∨ (t = 5 ∧ ew = 5 ∧ fw = 10) ∨ (t = 6 ∧ ew = 8 ∧ fw = 7) →
              let holds (e : Nat) : Prop := match ordered ew fw (raw a e).toNat, ordered ew fw (raw b e).toNat with
                | some m, some n => if cc = 0 then m = n else if cc = 1 then m ≠ n else if cc = 2 then m < n else m ≤ n
                | _, _ => cc = 1
              let raises (e : Nat) : Prop := On G w e ∧ (Signals ew fw (raw a e).toNat ∨ Signals ew fw (raw b e).toNat)
              ((∀ e, ¬raises e) → ∃ v, writes (.vcmp cc p a b g t) p v ∧ lanes holds v)
              ∧ ((∃ e, raises e) → s.ctx.mode.getLsbD 4 = false →
                  ∃ v, Completes (.vcmp cc p a b g t) s 4 (WroteP p (merged p v) 1) ∧ lanes holds v)
              ∧ ((∃ e, raises e) → s.ctx.mode.getLsbD 4 = true →
                  ∃ tv : Word, Traps (.vcmp cc p a b g t) s (0x068 + typeGrp t) tv ∧ tv.toNat < 2^16
                    ∧ ∀ l < 16, tv.getLsbD l = true ↔ ∃ e, raises e ∧ e * w / 32 = l)

/-- R192 to R198: the exact pair forms and the double-word operations write both halves of each active element, with their flags. -/
def Obligations.ExactPairCompletes : Prop :=
  ∀ (s : State) (d a b : BitVec 5) (g t : BitVec 3), t = 4 ∨ t = 5 → d.toNat % 2 = 0 →
    let f := if t = 4 then Num.F32 else Num.F16
    let w := typeW t
    let rc := (s.ctx.mode.extractLsb' 0 3).toNat
    let sat := s.ctx.mode.getLsbD 3
    let rnd (e : Nat) := (Num.philox s.ctx.seed.toNat e 0 (s.ctx.stepc.toNat % 2^32) (s.c3 s.cur.1)).1
    let x (e : Nat) := (el w (s.ctx.getV a) e).toNat
    let xl (e : Nat) := (el w (s.ctx.getV (a + 1)) e).toNat
    let y (e : Nat) := (el w (s.ctx.getV b) e).toNat
    let yl (e : Nat) := (el w (s.ctx.getV (b + 1)) e).toNat
    let pair (i : Instr) (op : Num.Val → Num.Val → Num.XR) : Prop :=
      VecPairArith i s d g t (rc == 5) fun e => Num.pairOp f rc sat (rnd e) op (x e) (y e)
    pair (.vaddX d a b g t) (Num.xAdd rc) ∧ pair (.vsubX d a b g t) (fun u v => Num.xAdd rc u v.negate) ∧ pair (.vmulX d a b g t) Num.xMul
      ∧ VecPairArith (.vdwadd d a b g t) s d g t false (fun e =>
          dwOp f [x e, xl e, y e, yl e] (xBind (dwAdd f (x e) (xl e)) (dwAdd f (y e) (yl e)) (Num.xAdd 0)) (dwAddSteps f (x e) (xl e) (y e) (yl e)))
      ∧ VecPairArith (.vdwmul d a b g t) s d g t false (fun e =>
          dwOp f [x e, xl e, y e, yl e] (xBind (dwAdd f (x e) (xl e)) (dwAdd f (y e) (yl e)) Num.xMul) (dwMulSteps f (x e) (xl e) (y e) (yl e)))
      ∧ VecPairArith (.vdwnorm d a g t) s d g t false (fun e => dwOp f [x e, xl e] (dwAdd f (x e) (xl e)) (dwTwo f (dwAdd f (x e) (xl e))))

/-- R188 to R194: where the exact sum, difference or product of two finite operands has a finite half and a finite error term and PAIR_INEXACT is
not raised, the two halves sum to it exactly, whatever the rounding code, SAT and random word; and so it is in the registers that the scalar and
the vector .X forms write where they complete with PAIR_INEXACT clear in FLAGS. -/
def Obligations.ExactPairIsExact : Prop :=
  let sum (x y z : Int) : Prop := z = x + y
  let difference (x y z : Int) : Prop := z = x - y
  let product (x y z : Int) : Prop := z * 2^1074 = x * y
  (∀ (p : BitVec 2) (rc rnd a b : Nat) (sat : Bool) (x y h l : Int), rc < 6 → rnd < 2^32 →
     let f := precF p
     let fin := finite (expBits p) (fracBits p)
     fin a = some x → fin b = some y →
     let exact (op : Num.Val → Num.Val → Num.XR) (law : Int → Int → Int → Prop) : Prop :=
       let r := Num.pairOp f rc sat rnd op (a % 2^f.width) (b % 2^f.width)
       fin r.1 = some h → fin r.2.1 = some l → r.2.2.getLsbD 5 = false → law x y (h + l)
     exact (Num.xAdd rc) sum ∧ exact (fun u v => Num.xAdd rc u v.negate) difference ∧ exact Num.xMul product)
  ∧ ∀ (s t : State) (d a b : BitVec 5) (x y h l : Int), t.ctx.instret = s.ctx.instret + 1 → t.ctx.flags.getLsbD 5 = false → d.toNat % 2 = 0 →
      (∀ (r : BitVec 3) (p : BitVec 2), d ≠ 0 →
        let fin (v : Word) := finite (expBits p) (fracBits p) v.toNat
        let exact (i : Instr) (law : Int → Int → Int → Prop) : Prop := exec i s = .next t → fin (s.ctx.getX a) = some x → fin (s.ctx.getX b) = some y →
          fin (t.ctx.getX d) = some h → fin (t.ctx.getX (d + 1)) = some l → law x y (h + l)
        exact (.fadd d a b r true p) sum ∧ exact (.fsub d a b r true p) difference ∧ exact (.fmul d a b r true p) product)
      ∧ ∀ (g t' : BitVec 3) (n : Nat), t' = 4 ∨ t' = 5 → On (s.ctx.getP g) (typeW t') n →
          let p : BitVec 2 := if t' = 4 then 1 else 0
          let fin (v : VReg) := finite (expBits p) (fracBits p) (el (typeW t') v n).toNat
          let exact (i : Instr) (law : Int → Int → Int → Prop) : Prop := exec i s = .next t → fin (s.ctx.getV a) = some x → fin (s.ctx.getV b) = some y →
            fin (t.ctx.getV d) = some h → fin (t.ctx.getV (d + 1)) = some l → law x y (h + l)
          exact (.vaddX d a b g t') sum ∧ exact (.vsubX d a b g t') difference ∧ exact (.vmulX d a b g t') product

/-- R205 to R216: conversions, packing, unpacking, scaling and block quantisation complete with their results on the active elements,
raising the flags of each, or trap. R199 to R201, R217, R218: the reductions over their fixed trees, the Hadamard transform and random
elements complete with their results, raising the flags of all their nodes, or trap.
That POISON_VALUE comes before the other exceptions is the model's reading (log 20). -/
def Obligations.ConversionAndReductionResult : Prop :=
  (∀ (s : State) (d a b : BitVec 5) (g t f' : BitVec 3) (f : BitVec 4) (h : Bool),
     let w := typeW t
     let W := codeW f.toNat
     let rc := (s.ctx.mode.extractLsb' 0 3).toNat
     let sat := s.ctx.mode.getLsbD 3
     let sr : Bool := rc == 5
     let rnd (e : Nat) := (Num.philox s.ctx.seed.toNat e 0 (s.ctx.stepc.toNat % 2^32) (s.c3 s.cur.1)).1
     let x (e : Nat) := (el w (s.ctx.getV a) e).toNat
     let lane (r : BitVec 5) (k : Nat) : Num.Val :=
       if (s.ctx.getP g).getLsbD k then Num.unpack Num.F32 (el 32 (s.ctx.getV r) k).toNat else .num false 0 0
     let two (k : Nat) : Num.Val := if k < 16 then lane a k else lane (a + 1) (k - 16)
     let whole (v : VReg) (c c' : Ctx) : Prop := ∀ q, c'.getV q = if q = d then v else c.getV q
     (vcvtPair f' t = true → VecArith (.vcvt d a f' g t) s d g t (((typeF f').isSome || (typeF t).isSome) && sr)
         (fun e => vcvtEl f' t rc sat (rnd e) (x e)))
       ∧ (∀ fm, typeF t = some fm → VecArith (.vscale d a b g t) s d g t sr (fun e => Num.op1 fm rc false (rnd e) (fun v => match v with
           | .num n m k => .num n m (k + (el w (s.ctx.getV b) e).toInt)
           | .inf n => .inf n 0
           | _ => .inv) (x e)))
       ∧ (f ≠ 0 → f.toNat < 9 → a.toNat % 2 = 0 → ∃ v : VReg,
           (∀ k < 32, el W v k = BitVec.ofNat W (packVal f.toNat rc sat (rnd k) (two k)).1) ∧ v.toNat < 2^(32 * W)
             ∧ LanesArith (.vpack d a false f g) s (codeGrp f.toNat) sr (· < 32) (· % 16)
                 (fun k => (packVal f.toNat rc sat (rnd k) (two k)).2) (whole v))
       ∧ (3 ≤ f.toNat → f.toNat ≤ 8 → a.toNat % 2 = 0 → ∃ v : VReg,
           let m := mxBlock f.toNat rc rnd ((List.range 32).map two)
           (∀ k < 32, el W v k = BitVec.ofNat W (m.2.getD k (0, 0)).1) ∧ v.extractLsb' 504 8 = BitVec.ofNat 8 m.1
             ∧ LanesArith (.vpack d a true f g) s (codeGrp f.toNat) sr (· < 32) (· % 16) (fun k => (m.2.getD k (0, 0)).2) (whole v))
       ∧ (check (.vunpk d a h f g t) = none →
           let r (e : Nat) := vunpkEl (s.ctx.getV a).toNat h f t (s.coord s.cur.1) e
           LanesArith (.vunpk d a h f g t) s (if f = 0 ∧ typeF t = none then 7 else 1) false
             (fun e => e < 32 ∧ (s.ctx.getP g).getLsbD (e % 16) = true) (· % 16) (fun e => (r e).2)
             (fun c c' => (∀ q, q ≠ d → q ≠ d + 1 → c'.getV q = c.getV q) ∧ ∀ e < 16,
               if (c.getP g).getLsbD e then el 32 (c'.getV d) e = BitVec.ofNat 32 (r e).1 ∧ el 32 (c'.getV (d + 1)) e = BitVec.ofNat 32 (r (e + 16)).1
               else el 32 (c'.getV d) e = el 32 (c.getV d) e ∧ el 32 (c'.getV (d + 1)) e = el 32 (c.getV (d + 1)) e))
       ∧ (9 ≤ f.toNat → f.toNat ≤ 11 →
           let q := Num.toSbf W rc rnd (s.coord s.cur.1) ((List.range 16).map (lane a))
           LanesArith (.vqnt d a f g) s 6 sr (· < 16) id (fun k => q.2.getD k 0) (whole (BitVec.ofNat 512 (q.1.image W)))
             ∧ VecExact (.vqntDeq d a f g) s d g 32 (fun k => BitVec.ofNat 32 (sbfF32 W (Num.Sbf.ofImage W (s.ctx.getV a).toNat) k))))
  ∧ ∀ (s : State) (d a m : BitVec 5) (g t : BitVec 3) (sh : BitVec 4),
      let w := typeW t
      let x (e : Nat) := (el w (s.ctx.getV a) e).toNat
      let leaf (e : Nat) := if (s.ctx.getP g).getLsbD (e * w / 32) then x e else 0
      let ls := (List.range (512 / w)).map leaf
      let levels := if w = 32 then 4 else 5
      (∀ fm, t = 4 ∨ t = 5 → typeF t = some fm → d.toNat % 2 = 0 →
          let r := vsumx fm levels ls
          LanesArith (.vsumx d a g t) s (typeGrp t) false (· = 0) id (fun _ => r.2.2) (fun c c' => ∀ q,
            c'.getV q = if q = d then BitVec.ofNat 512 r.1 else if q = d + 1 then BitVec.ofNat 512 r.2.1 else c.getV q))
        ∧ (∀ fm, typeF t = some fm →
            let r := vred t levels ls
            LanesArith (.vred d a g t) s (typeGrp t) false (· = 0) id (fun _ => r.2) (fun c c' => ∀ q,
              c'.getV q = if q = d then BitVec.ofNat 512 r.1 else c.getV q))
        ∧ (t = 0 ∨ t = 1 → Completes (.vred d a g t) s 4 (WroteV d (BitVec.ofNat 512 (ls.foldl (fun n v => (n + v) % 2^32) 0)) 0 0))
        ∧ (∀ fm, typeF t = some fm → (t = 4 → m.toNat < 16) →
            let stages := (List.range 5).filter fun j => m.getLsbD j
            VecArith (.vhad d a m g t sh) s d g t false fun e =>
              if stages = [] then Num.op1 fm 0 false 0 (fun v => match v with
                | .num n u k => .num n u (k - (sh.toNat : Int))
                | .inf n => .inf n 0
                | _ => .inv) (x e)
              else (hadAll fm sh.toNat stages ((List.range (512 / w)).map fun i => (x i, 0))).getD e (0, 0))
        ∧ ∀ k : BitVec 2, Completes (.vrand d a g t k) s 4 (fun c c' => WroteEls d g w (fun e =>
              let o := Num.philox s.ctx.seed.toNat e ((s.ctx.getX a).toNat % 2^32) (s.ctx.stepc.toNat % 2^32) (s.c3 s.cur.1)
              BitVec.ofNat w (randEl t (if k = 0 then o.1 else if k = 1 then o.2.1 else if k = 2 then o.2.2.1 else o.2.2.2))) c c'
            ∧ c'.flags = c.flags ∧ c'.stepc = c.stepc + 1 ∧ VRest c c')

/-! ## Accumulators and the matrix unit (R220 to R241) -/

namespace Sys2Proof.Spec
open Sys2Proof.Machine

/-- R222: instruction i, of `len` bytes, has entered the unit's queue with the registers as they were; the strand is past it, its STEP
advanced under `step`, and held until it completes where `hold` says so. Of the core nothing else has changed but its count of such
instructions. -/
structure UnitQueued (i : Instr) (len : Nat) (hold step : Bool) (s t : State) : Prop extends OnlyCore s.cur.1 s t where
  shared : { t.core s.cur.1 with strands := (s.core s.cur.1).strands, seq := (s.core s.cur.1).seq, unitq := (s.core s.cur.1).unitq }
    = s.core s.cur.1
  strands : ∀ u, u ≠ s.cur.2 → t.strand s.cur.1 u = s.strand s.cur.1 u
  queue : ∃ u : UnitEntry, (t.core s.cur.1).unitq = (s.core s.cur.1).unitq ++ [u] ∧ u.instr = i ∧ u.snap = s.ctx ∧ u.strand = s.cur.2
    ∧ u.seq = (s.core s.cur.1).seq ∧ u.executing = false ∧ u.ksteps = 0
  holds : (t.strand s.cur.1 s.cur.2).hold = if hold then some (s.core s.cur.1).seq else (s.strand s.cur.1 s.cur.2).hold
  counted : Counted s.ctx t.ctx len
  step : t.ctx.stepc = s.ctx.stepc + (if step then 1 else 0)
  regs : Kept (fun e => { e with stepc := s.ctx.stepc }) s.ctx t.ctx

/-- Instruction i enters the unit's queue in state s. -/
def UnitQueues (i : Instr) (s : State) (len : Nat) (hold step : Bool) : Prop := ∃ t, exec i s = .next t ∧ UnitQueued i len hold step s t

/-- The unit's head instruction, and that the unit may go on with it (R241, R58). -/
def Head (s : State) (c : CoreId) (u : UnitEntry) (us : List UnitEntry) : Prop :=
  (s.core c).unitq = u :: us ∧ (s.core c).stopped = false ∧ s.amending c = false

/-- R226: the fields of a descriptor, and the width of its elements. -/
def dBase (d : BitVec 128) : Nat := (d.extractLsb' 0 19).toNat
def dRpitch (d : BitVec 128) : Nat := (d.extractLsb' 64 16).toNat
def dPpitch (d : BitVec 128) : Nat := (d.extractLsb' 80 20).toNat
def dFmt (d : BitVec 128) : Nat := (d.extractLsb' 104 4).toNat
def dWidth (d : BitVec 128) : Nat := codeW (dFmt d)
def dHofs (d : BitVec 128) : Nat := (d.extractLsb' 112 16).toNat
def dSbf (d : BitVec 128) : Bool := 9 ≤ dFmt d && dFmt d ≤ 11
def dMx (d : BitVec 128) : Bool := d.getLsbD 109

/-- R227: byte b of the segment of line i in k-step s, before and after the swizzle; the header bytes, or the scale, of the line. -/
def plainAt (d : BitVec 128) (i s b : Nat) : Nat := dBase d + s * dPpitch d + i * dRpitch d + b
def segAt (d : BitVec 128) (i s b : Nat) : Nat :=
  let off := plainAt d i s b
  if d.getLsbD 108 then off / 1024 * 1024 + ((off / 64 % 16 ^^^ i % 16) + (d.extractLsb' 100 4).toNat) % 16 * 64 + off % 64 else off
def headAt (d : BitVec 128) (L i s : Nat) : List Nat :=
  let hb := dBase d + 32 * dHofs d
  if dSbf d then [hb + 2 * (s * L + i), hb + 2 * (s * L + i) + 1] else if dMx d then [hb + s / 2 * L + i] else []

/-- R228: a use of L lines and n k-steps of a descriptor traps: an address no core's vault has, a byte beyond the vault before the swizzle (the first
element that has one, log 25), TR where it may not stand, and a format or MX that the use does not accept. -/
def DescTraps (s : State) (d : BitVec 128) (L n : Nat) (drain ok : Bool) (cause : Nat) (tval : Word) : Prop :=
  let base : Word := d.extractLsb' 0 64
  let place := s.check s.cur.1 s.ctx.priv accQuay base 0 1 false
  let beyond : Prop := ∃ i < L, ∃ st < n, (∃ b < 2 * dWidth d, 0x80000 ≤ plainAt d i st b) ∨ ∃ o ∈ headAt d L i st, 0x80000 ≤ o
  (∃ m, place = some m ∧ cause = 0x080 + 4 * m ∧ tval = base)
    ∨ (place = none ∧ beyond ∧ cause = 0x090 ∧ tval = base + BitVec.ofNat 64 ((Desc.of d).beyond L n - dBase d))
    ∨ (place = none ∧ ¬beyond ∧ d.getLsbD 110 = true ∧ drain = false ∧ cause = 0x10C ∧ tval = 0)
    ∨ (place = none ∧ ¬beyond ∧ (d.getLsbD 110 = true → drain = true) ∧ ok = false ∧ cause = 0x108 ∧ tval = 0)

/-- R234, R235: a byte of a vault among the beats that an instruction has read, and whether its beat reads as poison. -/
def gotByte (u : UnitEntry) (h : CoreId) (o : Nat) : Byte :=
  match u.beats.find? fun b => b.home == h && b.block == o / 32 with | some b => b.data.getD (o % 32) 0 | none => 0
def gotBad (u : UnitEntry) (h : CoreId) (o : Nat) : Bool :=
  match u.beats.find? fun b => b.home == h && b.block == o / 32 with | some b => b.bad.isSome | none => false

/-- R227, R234: a segment's bit string, its header or scale, whether that reads as poison, and whether an element does. -/
def segStr (u : UnitEntry) (h : CoreId) (d : BitVec 128) (i s : Nat) : Nat := leNat ((List.range (2 * dWidth d)).map fun b => gotByte u h (segAt d i s b))
def segHead (u : UnitEntry) (h : CoreId) (d : BitVec 128) (L i s : Nat) : Nat := leNat ((headAt d L i s).map (gotByte u h))
def headBad (u : UnitEntry) (h : CoreId) (d : BitVec 128) (L i s : Nat) : Bool := (headAt d L i s).any (gotBad u h)
def elBad (u : UnitEntry) (h : CoreId) (d : BitVec 128) (L i s k : Nat) : Bool :=
  headBad u h d L i s || (List.range (2 * dWidth d)).any fun b =>
    dWidth d * k / 8 ≤ b && b ≤ (dWidth d * k + dWidth d - 1) / 8 && gotBad u h (segAt d i s b)

/-- R237: what MDRAIN has for element (i, j) before it rounds: the accumulator's value, dropped, and with its residual; and its exceptions. -/
def drained (s : State) (c : CoreId) (u : UnitEntry) (t b : BitVec 5) (d r : BitVec 128) (rc : Nat) (drop res : Bool) (q : BitVec 8) (i j : Nat) :
    Num.Val × Num.Exc :=
  let x := u.snap
  let col0 := ((x.getX b).extractLsb' 0 32).toNat
  let row0 := ((x.getX b).extractLsb' 32 32).toNat
  let v := Num.unpack Num.AX80 (vget (vget (s.core c).acc t.toNat) (16 * i + j)).toNat
  let w1 := (Num.philox x.seed.toNat (col0 + j) (row0 + i) (x.stepc.toNat % 2^32) (s.c3 c)).2.1
  let kept := if drop && q.toNat < w1 / 2^24 && !v.isPoison then .num false 0 0 else v
  let h := s.descHome c (Desc.of r)
  let (l, k) := if r.getLsbD 110 then (j, i) else (i, j)
  let old := if elBad u h r 16 l 0 k then .poison 0 (s.coord h)
    else (drainVals (dFmt r) (if dSbf r then segHead u h r 16 l 0 else 0) (s.coord c) (segStr u h r l 0)).getD k (.num false 0 0)
  if res then resAdd (if dFmt d = 12 then Num.rcRNE else rc) kept old else (kept, 0)

/-- R237: line l of a destination: its bit string, its header and its exceptions. -/
def drainedLine (s : State) (c : CoreId) (u : UnitEntry) (t b : BitVec 5) (d r : BitVec 128) (rcf : BitVec 3) (drop res : Bool) (q : BitVec 8) (l : Nat) :
    Nat × Nat × Num.Exc :=
  let x := u.snap
  let rc := rcOf x.mode rcf
  let at_ (k : Nat) : Nat × Nat := if d.getLsbD 110 then (k, l) else (l, k)
  let es := (List.range 16).map fun k => drained s c u t b d r rc drop res q (at_ k).1 (at_ k).2
  let rnd (k : Nat) : Nat := rndWord x.seed x.stepc (((x.getX b).extractLsb' 0 32).toNat + (at_ k).2) (((x.getX b).extractLsb' 32 32).toNat + (at_ k).1) (s.c3 c)
  let y := drainLine (dFmt d) rc (satOf x.mode) rnd (s.coord c) (es.map Prod.fst)
  (y.1, y.2.1, es.foldl (fun a e => a ||| e.2) y.2.2)

/-- R240: column k of the tile as a line of the destination: its elements with their exceptions, and its scale. -/
def requantised (s : State) (c : CoreId) (u : UnitEntry) (e : BitVec 128) (a : BitVec 5) (rcf : BitVec 3) (k : Nat) : List Num.Res × Nat :=
  let x := u.snap
  let h := s.descHome c (Desc.of e)
  let pr := ((x.getX a).extractLsb' 0 6).toNat
  let pc := ((x.getX a).extractLsb' 8 6).toNat
  let scale (r : Nat) : Nat := if dMx e && !dSbf e then segHead u h e 32 r 0 else 0
  let code (r : Nat) : Nat := elem (segStr u h e r (k / 16)) (dWidth e) (k % 16)
  let bad (r : Nat) : Bool := elBad u h e 32 r (k / 16) (k % 16)
  let top := ((List.range pr).filter fun r => !headBad u h e 32 r 0).foldl (fun m r => max m (scale r)) 0
  if pc ≤ k ∨ pr = 0 then (List.replicate 32 (0, 0), 0)
  else if 5 ≤ dFmt e ∧ ∃ r < pr, bad r = true then (List.replicate 32 (0, 0), 0xFF)
  else ((List.range 32).map fun r => if pr ≤ r then (0, 0) else if bad r then (0x7F, 0)
    else mxpqEl (dFmt e) (rcOf x.mode rcf) (rndWord x.seed x.stepc r k (s.c3 c)) (scale r) top (code r), top)

/-- R238: the bytes of one write of a unit instruction, in ascending address order, one request for each aligned beat. -/
def SentAs (c : CoreId) (u : UnitEntry) (h : CoreId) (cells : List Host.Cell) (g : List Req) : Prop :=
  ∃ parts : List (List Host.Cell), g.map (fun q => (q.core, q.strand, q.seq, q.home, q.unit, q.toLoad, q.op)) = parts.map (fun p => (c, u.strand, u.seq, h, true, false, .scatter p))
    ∧ g.map (fun q => (q.off, q.len)) = parts.map (fun p => ((p.headD (0, 0)).1, p.length))
    ∧ (∀ p ∈ parts, p ≠ [] ∧ ∀ x ∈ p, ∀ y ∈ p, x.1 / 32 = y.1 / 32)
    ∧ parts.Pairwise (fun p q => ∀ x ∈ p, ∀ y ∈ q, x.1 / 32 < y.1 / 32)
    ∧ parts.flatten.Pairwise (fun x y => x.1 ≤ y.1) ∧ ∀ a, parts.flatten.filter (fun x => x.1 = a) = cells.filter fun x => x.1 = a

end Sys2Proof.Spec

/-- R220, R221: ATAKE takes a free accumulator, and says who holds another; AGIVE gives a held one back with its contents, and traps
ACC_NOT_HELD on another. Neither changes an accumulator. -/
def Obligations.AccumulatorOwnership : Prop :=
  ∀ (s : State) (d a : BitVec 5), a.toNat < 8 →
    let c := s.cur.1
    let h (n : Nat) := vget (s.core c).holder n
    let moves (i : Instr) (v : Option (Fin 4)) (P : Ctx → Ctx → Prop) : Prop := ∃ t, exec i s = .next t ∧ OnlyCore c s t ∧ Counted s.ctx t.ctx 4
      ∧ P s.ctx t.ctx ∧ (∀ n < 8, vget (t.core c).holder n = if n = a.toNat then v else h n)
      ∧ { t.core c with strands := (s.core c).strands, holder := (s.core c).holder } = s.core c
      ∧ (∀ u, u ≠ s.cur.2 → t.strand c u = s.strand c u)
      ∧ { t.strand c s.cur.2 with ctx := s.ctx } = s.strand c s.cur.2
    (h a.toNat = none → moves (.atake d a) (some s.cur.2) (WroteX d 0))
      ∧ (∀ k, h a.toNat = some k → moves (.atake d a) (some k) (WroteX d (if k = s.cur.2 then 0 else BitVec.ofNat 64 (1 + k.1))))
      ∧ (h a.toNat = some s.cur.2 → moves (.agive a) none SameRegs)
      ∧ (h a.toNat ≠ some s.cur.2 → Traps (.agive a) s 0x100 0)

/-- R226, R229: MDESC writes a descriptor whose fields are in order, and traps MAT_DESC on any other. -/
def Obligations.DescriptorWrite : Prop :=
  ∀ (s : State) (d a b : BitVec 5), d.toNat < 4 →
    let x := s.ctx.getX a
    let y := s.ctx.getX b
    let fmt := (y.extractLsb' 40 4).toNat
    let bad : Prop := 14 ≤ fmt ∨ y.getLsbD 47 = true ∨ (y.extractLsb' 36 4 ≠ 0 ∧ y.getLsbD 44 = false)
      ∨ (y.getLsbD 45 = true ∧ ¬(3 ≤ fmt ∧ fmt ≤ 8)) ∨ x.toNat % 4 ≠ 0 ∨ (y.extractLsb' 0 16).toNat % 4 ≠ 0 ∨ (y.extractLsb' 16 20).toNat % 4 ≠ 0
    (bad → Traps (.mdesc d a b) s 0x10C 0)
      ∧ (¬bad → Completes (.mdesc d a b) s 4 (fun c c' => (∀ r : BitVec 5, r.toNat < 4 → c'.getD r = if r = d then y ++ x else c.getD r)
          ∧ Kept (fun e => { e with d := c.d }) c c'))

/-- R221, R222, R228 to R231, R237, R239, R240: an instruction of the matrix unit whose checks pass enters its queue with its operands
captured. The others trap: MZERO, MMA and MDRAIN of an accumulator that the strand does not hold with ACC_NOT_HELD, first; MMA of an empty slot with
MAT_NOT_STAGED; then each descriptor, in turn, as R228 has it; MXPQ of two formats with MAT_FORMAT, and of too many rows or columns with MAT_SHAPE;
R276: last an MDRAIN or MXPQ whose bytes would take PBC past its limit with PBC_OVERFLOW.
That of two sources A's descriptor, of two descriptors MDRAIN's destination and MXPQ's destination, are checked first, that slots are before
descriptors, and which element VAULT_RANGE names, are the model's readings (logs 25 and 115). -/
def Obligations.MatrixIssue : Prop :=
  ∀ (s : State) (t a b dd ds : BitVec 5) (acc z drop res : Bool) (ofmt kb : BitVec 4) (rc : BitVec 3) (dr : BitVec 2) (q : BitVec 8), t.toNat < 8 →
    let held : Prop := vget (s.core s.cur.1).holder t.toNat = some s.cur.2
    let desc (n : BitVec 5) := Desc.of (s.ctx.getD n)
    let fine (n : BitVec 5) (L k : Nat) (drain ok : Bool) : Prop := s.checkDesc s.cur.1 s.ctx.priv (desc n) L k drain ok = none
    let sr : Bool := (if rc = 6 then (s.ctx.mode.extractLsb' 0 3).toNat else rc.toNat) == 5
    (held → UnitQueues (.mzero t) s 4 false false) ∧ (¬held → Traps (.mzero t) s 0x100 0)
      ∧ (fine dd 16 1 false (desc dd).forMma → ∃ u, exec (.mld dd) s = .next u ∧ UnitQueued (.mld dd) 4 false false s u
          ∧ (vget (u.strand s.cur.1 s.cur.2).slots dd.toNat).isSome = true)
      ∧ (held → s.checkMma a b (kb.toNat + 1) = none → UnitQueues (.mma t a b acc ofmt kb) s 8 false false)
      ∧ (held → ∀ n, n = a ∨ n = b → selKind n = 2 → vget (s.strand s.cur.1 s.cur.2).slots (n.toNat % 4) = none →
          Traps (.mma t a b acc ofmt kb) s 0x104 0)
      ∧ (¬held → Traps (.mma t a b acc ofmt kb) s 0x100 0 ∧ Traps (.mdrain t dd b z drop res rc dr q) s 0x100 0)
      ∧ (∀ cause v, DescTraps s (s.ctx.getD dd) 16 1 false (desc dd).forMma cause v → Traps (.mld dd) s cause v)
      ∧ (held → (∀ n, n = a ∨ n = b → selKind n = 2 → (vget (s.strand s.cur.1 s.cur.2).slots (n.toNat % 4)).isSome = true) →
          let source (n : BitVec 5) := BitVec.ofNat 5 (n.toNat % 4)
          let faults (n : BitVec 5) (cause : Nat) (v : Word) : Prop :=
            selKind n = 1 ∧ DescTraps s (s.ctx.getD (source n)) 16 (kb.toNat + 1) false (desc (source n)).forMma cause v
          ∀ cause v, (faults a cause v → Traps (.mma t a b acc ofmt kb) s cause v)
            ∧ ((∀ cause v, ¬faults a cause v) → faults b cause v → Traps (.mma t a b acc ofmt kb) s cause v))
      ∧ (held → ∀ cause v, (DescTraps s (s.ctx.getD dd) 16 1 true (desc dd).forDrain cause v → Traps (.mdrain t dd b z drop res rc dr q) s cause v)
          ∧ (fine dd 16 1 true (desc dd).forDrain → res = true →
            DescTraps s (s.ctx.getD (BitVec.ofNat 5 dr.toNat)) 16 1 true (desc (BitVec.ofNat 5 dr.toNat)).forDrain cause v →
            Traps (.mdrain t dd b z drop res rc dr q) s cause v))
      ∧ (∀ cause v, (DescTraps s (s.ctx.getD dd) 32 2 false (desc dd).forMxpq cause v → Traps (.mxpq dd ds a rc) s cause v)
          ∧ (fine dd 32 2 false (desc dd).forMxpq → DescTraps s (s.ctx.getD ds) 32 2 false (desc ds).forMxpq cause v → Traps (.mxpq dd ds a rc) s cause v))
      ∧ (fine dd 32 2 false (desc dd).forMxpq → fine ds 32 2 false (desc ds).forMxpq →
          ((desc dd).fmt ≠ (desc ds).fmt → Traps (.mxpq dd ds a rc) s 0x108 0)
          ∧ ((desc dd).fmt = (desc ds).fmt → 32 < ((s.ctx.getX a).extractLsb' 0 6).toNat ∨ 32 < ((s.ctx.getX a).extractLsb' 8 6).toNat →
            Traps (.mxpq dd ds a rc) s 0x110 0))
      ∧ (held → fine dd 16 1 true (desc dd).forDrain → (res = true → fine (BitVec.ofNat 5 dr.toNat) 16 1 true (desc (BitVec.ofNat 5 dr.toNat)).forDrain) →
          let bytes := 16 * (2 * (desc dd).w + if (desc dd).sbf then 2 else 0)
          (s.unitOver (desc dd) bytes = true → Traps (.mdrain t dd b z drop res rc dr q) s 0x0AC 0) ∧ (s.unitOver (desc dd) bytes = false →
          UnitQueues (.mdrain t dd b z drop res rc dr q) s 8
            (s.ctx.mode.extractLsb' 4 5 != 0 || (5 ≤ (desc dd).fmt && (desc dd).fmt ≤ 8) || (desc dd).fmt == 13) (sr || drop)))
      ∧ ((desc dd).forMxpq = true → (desc ds).forMxpq = true → (desc dd).fmt = (desc ds).fmt → ((s.ctx.getX a).extractLsb' 0 6).toNat ≤ 32 →
          ((s.ctx.getX a).extractLsb' 8 6).toNat ≤ 32 → fine dd 32 2 false true → fine ds 32 2 false true →
          (s.unitOver (desc dd) (32 * (4 * (desc dd).w + 1)) = true → Traps (.mxpq dd ds a rc) s 0x0AC 0)
          ∧ (s.unitOver (desc dd) (32 * (4 * (desc dd).w + 1)) = false → UnitQueues (.mxpq dd ds a rc) s 8 (s.ctx.mode.extractLsb' 4 5 != 0) sr))

/-- R222, R230, R232, R235, R241: UNIT_EXECUTE on a core that is not stopped starts an MMA at the head of its queue, and zeroes the accumulator of
an MZERO. An MLD, MDRAIN or MXPQ whose operands can be read reads one of the beats that it still has to read and changes nothing else; an MLD that
has them all fills its slot with the lines, headers and scales that it has read, a line with an element that reads as poison as its origin and the
index of the first (R474), and leaves the queue. MDRAIN and MXPQ wait while an access of their strand to the vault they write is to be sent again
after RETRY (R59). Nothing starts on a stopped core.
That MDRAIN and MXPQ read one beat in a step of its own, as R236 has MMA and MLD do, is the model's reading (log 22). -/
def Obligations.UnitExecutes : Prop :=
  ∀ (s : State) (c : CoreId) (u : UnitEntry) (us : List UnitEntry),
    (Head s c u us →
      (∀ t a b acc o k, u.instr = .mma t a b acc o k → u.executing = false → ∃ r, exec (.unitExecute c) s = .next r ∧ OnlyCore c s r
          ∧ { r.core c with unitq := (s.core c).unitq } = s.core c ∧ (r.core c).unitq = { u with executing := true } :: us)
      ∧ (∀ a : BitVec 5, a.toNat < 8 → u.instr = .mzero a → ∃ r, exec (.unitExecute c) s = .next r ∧ OnlyCore c s r ∧ (r.core c).unitq = us
          ∧ (∀ n < 8, ∀ e < 256, vget (vget (r.core c).acc n) e = if n = a.toNat then 0 else vget (vget (s.core c).acc n) e)
          ∧ { r.core c with strands := (s.core c).strands, acc := (s.core c).acc, unitq := (s.core c).unitq } = s.core c
          ∧ ∀ k, (r.strand c k).ctx = (s.strand c k).ctx)
      ∧ (∀ d dd ds a rc t b z drop res dr q, d = u.instr → d = .mld dd ∨ ((d = .mxpq dd ds a rc ∨ d = .mdrain t dd b z drop res rc dr q) ∧ s.queueLeft c u = true ∧ s.unitSends c u dd = true) →
          s.unitReads c u (s.unitHomes c u) (if d = .mld dd then s.inFlight c u else []) = true → s.beatsLeft c u ≠ [] →
          ∃ r p, exec (.unitExecute c) s = .next r ∧ p ∈ s.beatsLeft c u ∧ OnlyCore c s r ∧ { r.core c with unitq := (s.core c).unitq } = s.core c
            ∧ (r.core c).unitq = { u with executing := true, beats := u.beats ++ [⟨p.1, p.2, (s.core p.1).vault.readN (32 * p.2) 32,
                (s.stops c p.1).or (if p.2 ∈ (s.core p.1).poison then some 9 else none)⟩] } :: us)
      ∧ (∀ d : BitVec 5, d.toNat < 4 → u.instr = .mld d → s.unitReads c u (s.unitHomes c u) (s.inFlight c u) = true → s.beatsLeft c u = [] →
          ∃ r, exec (.unitExecute c) s = .next r ∧ (r.core c).unitq = us ∧ (r.core c).acc = (s.core c).acc ∧ (∀ k, (r.strand c k).ctx = (s.strand c k).ctx)
            ∧ (∀ e, e ≠ c → r.core e = s.core e) ∧ (r.core c).vault = (s.core c).vault ∧ (r.core c).near = (s.core c).near
            ∧ let D := u.snap.getD d
              let h := s.descHome c (Desc.of D)
              let head (i : Nat) : Nat := segHead u h D 16 i 0
              let val (i k : Nat) : Num.Val := if elBad u h D 16 i 0 k then .poison 0 (s.coord h)
                else (lineVals (dFmt D) (dMx D) (if dSbf D then head i else 0) (if dMx D then head i else 0) (s.coord c) (segStr u h D i 0)).getD k (.num false 0 0)
              ∃ g, vget (r.strand c u.strand).slots d.toNat = some g ∧ g.fmt = BitVec.ofNat 4 (dFmt D) ∧ g.mx = dMx D
                ∧ g.lines.length = 16 ∧ g.hdrs.length = 16 ∧ g.scales.length = 16
                ∧ ∀ i < 16, (dSbf D = true → g.hdrs.getD i 0 = BitVec.ofNat 16 (head i)) ∧ (dSbf D = false → g.hdrs.getD i 0 = 0)
                  ∧ (dMx D = true → dSbf D = false → g.scales.getD i 0 = BitVec.ofNat 8 (head i)) ∧ (dMx D = false → g.scales.getD i 0 = 0)
                  ∧ ((∀ k < 16, elBad u h D 16 i 0 k = false) → g.poisoned.getLsbD i = false ∧ g.lines.getD i 0 = BitVec.ofNat 256 (segStr u h D i 0))
                  ∧ ∀ k < 16, ∀ raw o, (∃ k < 16, elBad u h D 16 i 0 k = true) → val i k = .poison raw o → (∀ j < k, (val i j).isPoison = false) →
                    g.poisoned.getLsbD i = true ∧ g.lines.getD i 0 = BitVec.ofNat 256 (o + k * 2^21)))
    ∧ (∀ t dd ds a rc b z drop res dr q, (s.core c).unitq = u :: us → u.instr = .mxpq dd ds a rc ∨ u.instr = .mdrain t dd b z drop res rc dr q →
        (∃ r ∈ s.net, r.core = c ∧ r.strand = u.strand ∧ r.seq ≠ u.seq ∧ r.home = s.descHome c (Desc.of (u.snap.getD dd)) ∧ ∃ at_, r.st = .retry at_) →
        exec (.unitExecute c) s = .next s)
    ∧ ((s.core c).unitq = u :: us → (s.core c).stopped = true → u.beats = [] → exec (.unitExecute c) s = .next s)

/-- R232, R235: an executing MMA with beats of its next k-step still to read reads one of them; a k-step of an MMA on two register octets adds to each
accumulator element, or sets it to where the MMA is fresh, the block dot product of its line and column; the last k-step completes the MMA and
gives its flags to the strand. R233: an element whose product has mismatched its residue twice becomes poison.
That a k-step whose beats have been read is one step is the model's choice (log 22). -/
def Obligations.MmaKstepAccumulates : Prop :=
  ∀ (s : State) (c : CoreId) (u : UnitEntry) (us : List UnitEntry) (t a b : BitVec 5) (acc : Bool) (o k : BitVec 4), Head s c u us →
    u.executing = true → u.instr = .mma t a b acc o k →
    (s.beatsLeft c u ≠ [] → s.unitReads c u (s.unitHomes c u) (s.inFlight c u) = true →
      ∃ r p, exec (.mmaKstep c) s = .next r ∧ p ∈ s.beatsLeft c u ∧ OnlyCore c s r ∧ { r.core c with unitq := (s.core c).unitq } = s.core c
        ∧ (r.core c).unitq = { u with executing := true, beats := u.beats ++ [⟨p.1, p.2, (s.core p.1).vault.readN (32 * p.2) 32,
            (s.stops c p.1).or (if p.2 ∈ (s.core p.1).poison then some 9 else none)⟩] } :: us)
    ∧ (selKind a = 0 → selKind b = 0 → t.toNat < 8 → u.ksteps ≤ k.toNat → Apart s c u.strand u.seq →
      let A := octetLines o.toNat (u.snap.octet (a.toNat % 4)) (s.coord c)
      let B := octetLines o.toNat (u.snap.octet (b.toNat % 4)) (s.coord c)
      ∃ r, exec (.mmaKstep c) s = .next r ∧ (u.struck = [] → OnlyCore c s r)
        ∧ (∀ i < 16, ∀ j < 16, vget (vget (r.core c).acc t.toNat) (16 * i + j) = BitVec.ofNat 80
            (if 16 * i + j ∈ u.struck then Num.poisonCode Num.AX80 (s.coord c)
             else (axAdd (if u.ksteps = 0 ∧ acc = false then 0 else (vget (vget (s.core c).acc t.toNat) (16 * i + j)).toNat)
              (blockDot ((A.getD i []).zip (B.getD j []))).1).1))
        ∧ (∀ n < 8, n ≠ t.toNat → vget (r.core c).acc n = vget (s.core c).acc n)
        ∧ (u.ksteps < k.toNat → ∃ v : UnitEntry, (r.core c).unitq = v :: us ∧ v.ksteps = u.ksteps + 1 ∧ v.instr = u.instr ∧ v.beats = [])
        ∧ (u.ksteps = k.toNat → (r.core c).unitq.length = us.length
            ∧ ∃ fl, (r.strand c u.strand).ctx = { (s.strand c u.strand).ctx with flags := (s.strand c u.strand).ctx.flags ||| fl }))

/-- R227, R237 to R240: an MDRAIN or MXPQ that has read what it reads and may send its writes: where an exception of its elements traps under the
captured MODE, it traps with the lines that raised it, and writes nothing. Otherwise it leaves the queue, ORs the exceptions of all its elements into
the strand's FLAGS, and sends its lines as stores to the vault of its destination, in ascending order, each in ascending address order and cut into
aligned 32-byte beats: of MDRAIN each line's elements as the accumulator has them, dropped and with their residual, rounded to the destination format, at
the places R227 gives them, and the header of an SBF line after it; of MXPQ each column of the tile, brought to its largest scale, and that scale. MDRAIN
with .Z zeroes its accumulator, and otherwise leaves it.
That the writes of one MDRAIN or MXPQ set out in one step is the model's choice (log 22). -/
def Obligations.DrainSendsLines : Prop :=
  ∀ (s : State) (c : CoreId) (u : UnitEntry) (us : List UnitEntry) (dd a : BitVec 5) (rc : BitVec 3), Head s c u us →
    s.queueLeft c u = true → s.unitReads c u (s.unitHomes c u) [] = true → s.beatsLeft c u = [] → s.unitSends c u dd = true →
    let d := u.snap.getD dd
    let w := dWidth d
    let h := s.descHome c (Desc.of d)
    let bytes (i st : Nat) (str : Nat) : List Host.Cell := (leBytes str (2 * w)).mapIdx fun n b => (segAt d i st n, b)
    let traps (k : Nat) (es : List (Nat × Num.Exc)) : Prop := ∃ r, exec (.unitExecute c) s = .next r ∧ r.net = s.net ∧ (r.core c).unitq = us
      ∧ (r.core c).acc = (s.core c).acc ∧ (r.core c).vault = (s.core c).vault ∧ (∀ e, e ≠ c → r.core e = s.core e)
      ∧ TrapsAt u.snap (r.strand c u.strand).ctx (arithCause k (codeGrp (dFmt d))) (excLanes k es)
    let ends (writes : List (List Host.Cell)) (es : List (Nat × Num.Exc)) (P : State → Prop) : Prop := Apart s c u.strand u.seq →
      ∃ (r : State) (groups : List (List Req)), exec (.unitExecute c) s = .next r ∧ (r.core c).unitq.length = us.length ∧ P r
        ∧ (r.strand c u.strand).ctx = { (s.strand c u.strand).ctx with flags := (s.strand c u.strand).ctx.flags ||| excFlags (excAll es) }
        ∧ r.net = s.net ++ groups.flatten ∧ groups.length = writes.length
        ∧ ∀ (n : Nat) (g : List Req) (cells : List Host.Cell), groups[n]? = some g → writes[n]? = some cells → SentAs c u h cells g
    (∀ t b z drop res dr q, u.instr = .mdrain t dd b z drop res rc dr q → t.toNat < 8 →
        let line (l : Nat) := drainedLine s c u t b d (u.snap.getD (BitVec.ofNat 5 dr.toNat)) rc drop res q l
        let es := (List.range 16).map fun l => (l, (line l).2.2)
        (∀ k, trapKind u.snap.mode (excAll es) = some k → traps k es)
        ∧ (trapKind u.snap.mode (excAll es) = none →
          ends ((List.range 16).flatMap fun l => bytes l 0 (line l).1 :: if dSbf d then [(leBytes (line l).2.1 2).mapIdx fun n b => ((headAt d 16 l 0).getD n 0, b)] else [])
            es fun r => ∀ n < 8, ∀ e < 256, vget (vget (r.core c).acc n) e = if n = t.toNat ∧ z = true then 0 else vget (vget (s.core c).acc n) e))
    ∧ (∀ ds, u.instr = .mxpq dd ds a rc → (Desc.of d).forMxpq = true → dFmt d = dFmt (u.snap.getD ds) → ((u.snap.getX a).extractLsb' 0 6).toNat ≤ 32 →
        let line (k : Nat) := requantised s c u (u.snap.getD ds) a rc k
        let str (k : Nat) : Nat := packElems w ((line k).1.map Prod.fst)
        let es := (List.range 32).map fun k => (k, (line k).1.foldl (fun a r => a ||| r.2) 0)
        (∀ k, trapKind u.snap.mode (excAll es) = some k → traps k es)
        ∧ (trapKind u.snap.mode (excAll es) = none →
          ends ((List.range 32).flatMap fun k => [bytes k 0 (str k) ++ bytes k 1 (str k / 2^(16 * w)), [((headAt d 32 k 0).headD 0, BitVec.ofNat 8 (line k).2)]])
            es fun r => (r.core c).acc = (s.core c).acc))

/-! ## Memory (R243 to R288) -/

namespace Sys2Proof.Spec
open Sys2Proof.Machine

/-- R252: every instruction of the strand that has outlived its issue was issued before number n, and so was each whose result something younger has
overwritten. -/
def Numbered (x : Strand) (n : Nat) : Prop :=
  (∀ p ∈ x.lost, p.1 < n) ∧ ∀ e, e ∈ x.loads ∨ e ∈ x.sq ∨ x.wait = some e → e.seq < n ∧ ∀ p ∈ e.lost, p.1 < n

/-- R222: so was every instruction in the matrix unit's queue. -/
def UnitNumbered (k : Core) : Prop := ∀ u ∈ k.unitq, u.seq < k.seq ∧ ∀ p ∈ u.lost, p.1 < k.seq

/-- The running strand may issue (R131): nothing holds it. -/
structure Issuing (s : State) : Prop where
  hold : (s.strand s.cur.1 s.cur.2).hold = none
  st : (s.strand s.cur.1 s.cur.2).st = .ready ∨ (s.strand s.cur.1 s.cur.2).st = .handler
  numbered : Numbered (s.strand s.cur.1 s.cur.2) (s.core s.cur.1).seq
  unit : UnitNumbered (s.core s.cur.1)

/-- Instruction i has been issued and has run to its end without leaving anything behind: registers as P says; of the core nothing but its
count of such instructions has changed. -/
def Performs (i : Instr) (s : State) (P : Ctx → Ctx → Prop) : Prop :=
  ∃ t, exec i s = .next t ∧ OnlyCore s.cur.1 s t
    ∧ { t.core s.cur.1 with strands := (s.core s.cur.1).strands, seq := (s.core s.cur.1).seq } = s.core s.cur.1
    ∧ (∀ u, u ≠ s.cur.2 → t.strand s.cur.1 u = s.strand s.cur.1 u)
    ∧ { t.strand s.cur.1 s.cur.2 with ctx := s.ctx } = s.strand s.cur.1 s.cur.2
    ∧ Counted s.ctx t.ctx 4 ∧ P s.ctx t.ctx

/-- Every address of a list of elements lies in the near store (R243), inside its 64 KiB. -/
def NearOnly (els : List (Word × Nat)) : Prop := ∀ p ∈ els, p.1.toNat + p.2 ≤ 0x10000

/-- Entry e stands at the head of the store queue of strand k of core c, no load issued before it is outstanding (R252), an operand read of the
matrix unit among them (R235, R272), on a core that has stopped neither has the core saved nor does the hold stand (R402, R403), no access to a home
it would touch waits after RETRY (R59), and nothing younger has overwritten what it writes. -/
structure AtHead (s : State) (c : CoreId) (k : Fin 4) (e : Entry) (es : List Entry) : Prop where
  queue : (s.strand c k).sq = e :: es
  next : ∀ y ∈ es, e.seq < y.seq
  loads : ∀ y ∈ (s.strand c k).loads, e.seq < y.seq
  wait : ∀ y, (s.strand c k).wait = some y → e.seq < y.seq
  operands : s.operandsLeft c k e.seq = false
  runs : (s.core c).stopped = true → s.exempt c ≠ some k → (s.core c).saved = false ∧ s.onHold c = false
  sent : s.heldBack c k e = false
  apart : Apart s c k e.seq

/-- R252, R239: the head entry has completed with result f for the strand's registers, which every younger entry sees, those in the matrix unit's
queue too; the strand goes on where it waited for it. Nothing else of the strand has changed but what `put` puts back. -/
structure Left (f : Ctx → Ctx) (put : Strand → Strand) (c : CoreId) (k : Fin 4) (e : Entry) (es : List Entry) (s r : State) : Prop where
  ctx : (r.strand c k).ctx = f (s.strand c k).ctx
  queue : (r.strand c k).sq = es.map fun y => { y with snap := f y.snap }
  unit : (r.core c).unitq = (s.core c).unitq.map fun u => if u.strand = k ∧ e.seq < u.seq then { u with snap := f u.snap } else u
  hold : (r.strand c k).hold = if (s.strand c k).hold = some e.seq then none else (s.strand c k).hold
  goes : (s.strand c k).hold = some e.seq → (s.strand c k).st = .waiting → (r.strand c k).st = .ready
  stays : (s.strand c k).hold ≠ some e.seq → (r.strand c k).st = (s.strand c k).st
  rest : let x := put (r.strand c k)
    let y := s.strand c k
    (x.fromRetained, x.evpend, x.pbc, x.fpbc, x.spb, x.xpb, x.faults, x.since, x.born, x.lost, x.htag, x.joined, x.wake, x.slots, x.firm)
      = (y.fromRetained, y.evpend, y.pbc, y.fpbc, y.spb, y.xpb, y.faults, y.since, y.born, y.lost, y.htag, y.joined, y.wake, y.slots, y.firm)

/-- Of a core nothing has changed but strand k, the registers that instructions in the matrix unit's queue go back to, and what `put` puts back. -/
def CoreKept (put : Core → Core) (c : CoreId) (k : Fin 4) (s r : State) : Prop :=
  let bare (u : UnitEntry) : UnitEntry := { u with snap := Ctx.zero }
  { put (r.core c) with strands := (s.core c).strands, unitq := (s.core c).unitq } = s.core c ∧ (∀ u, u ≠ k → r.strand c u = s.strand c u)
    ∧ (r.core c).unitq.map bare = (s.core c).unitq.map bare

/-- What an instruction of majors 0x28 to 0x36 and 0x63 is checked for at its issue (R245, R258 to R265): the first failing element's cause n
and address. -/
def accessCheck (s : State) (i : Instr) : Option (Nat × Word) :=
  match i with
  | .ld _ _ _ _ | .ldv _ _ _ _ | .ldvs _ _ _ _ => s.checkEls i accLd 1
  | .lda _ _ z _ => s.checkEls i accLd (szBytes z)
  | .ldvg _ a z o => s.checkIdx i accLd (s.ctx.ls a z o) z
  | .st _ _ _ _ | .stv _ _ _ _ | .stvs _ _ _ _ => s.checkEls i accSt 1
  | .stl _ _ z _ => s.checkEls i accSt (szBytes z)
  | .stvx _ a z o => s.checkIdx i accSt (s.ctx.ls a z o) z
  | .amoAdd _ _ _ z | .amoSub _ _ _ z | .amoAnd _ _ _ z | .amoOr _ _ _ z | .amoXor _ _ _ z | .amoMin _ _ _ z | .amoMax _ _ _ z
  | .amoMinu _ _ _ z | .amoMaxu _ _ _ z | .amoSwap _ _ _ z | .amoAddsat _ _ _ z | .amoFadd _ _ _ z | .amoBfadd _ _ _ z => s.checkEls i accQuay (szBytes z)
  | .cas _ _ _ _ z => s.checkEls i accQuay (szBytes z)
  | .amov _ _ _ _ | .amovR _ _ _ _ _ => s.checkEls i accQuay 64
  | _ => s.checkEls i accQuay 8

/-- The loads; the stores of the store queue; the atomics posted or with a result. -/
def loadsOf (d a : BitVec 5) (z : BitVec 3) (o : BitVec 12) : List Instr :=
  [.ld d a z o, .lda d a z o, .ldv d a z o, .ldvs d a z o, .ldvg d a z o, .ldfe d a o, .ldfeE d a o]

def storesOf (d a : BitVec 5) (z : BitVec 3) (o : BitVec 12) : List Instr :=
  [.st d a z o, .stv d a z o, .stvs d a z o, .stvx d a z o, .stl d a z o, .stfe d a o, .stfeF d a o]

def atomicsOf (d a b c : BitVec 5) (g z : BitVec 3) : List Instr :=
  [.amoAdd d a b z, .amoSub d a b z, .amoAnd d a b z, .amoOr d a b z, .amoXor d a b z, .amoMin d a b z, .amoMax d a b z, .amoMinu d a b z,
   .amoMaxu d a b z, .amoSwap d a b z, .amoAddsat d a b z, .amoFadd d a b z, .amoBfadd d a b z, .cas d a b c z, .amov a b g z, .amovR d a b g z]

/-- A request of strand k of core c, of instruction number n, for `len` bytes at `off` of the vault of `home`. -/
structure Asks (c : CoreId) (k : Fin 4) (n : Nat) (home : CoreId) (off len : Nat) (op : ReqOp) (toLoad : Bool) (r : Req) : Prop where
  core : r.core = c
  strand : r.strand = k
  seq : r.seq = n
  home : r.home = home
  off : r.off = off
  len : r.len = len
  op : r.op = op
  toLoad : r.toLoad = toLoad
  flying : r.st = .flying

end Sys2Proof.Spec

/-- R245, R246: the checks of one access, in their order: a space the instruction does not accept; CTRL space in U mode; reserved address
bits; a range past the near store or past a vault; a misaligned address; a core outside the strand's domain or columns; a U-mode store into an
execute line. R252, R396: an access whose check fails traps at its instruction with cause 0x080 + 4n and the failing element's address. -/
def Obligations.AddressChecks : Prop :=
  (∀ (s : State) (c : CoreId) (priv : Bool) (a : Acc) (ea : Word) (len align : Nat), 0 < align →
     let sp := (ea.extractLsb' 60 4).toNat
     let near := sp = 0 ∧ a.near = true
     let vault := (sp = 1 ∨ sp = 2) ∧ a.vault = true
     let ctrl := sp = 15 ∧ a.ctrl = true
     let mbz := (near ∧ ea.extractLsb' 16 44 ≠ 0) ∨ (sp = 1 ∧ ea.extractLsb' 19 41 ≠ 0) ∨ (sp = 2 ∧ (ea.getLsbD 59 = true ∨ ea.extractLsb' 19 19 ≠ 0))
     let nearEnd := 0x10000 < (ea.extractLsb' 0 16).toNat + len
     let vaultEnd := 0x80000 < (ea.extractLsb' 0 19).toNat + len
     let answers (n : Nat) : Prop := s.check c priv a ea len align true = some n
     (¬near ∧ ¬vault ∧ ¬ctrl → answers 0)
       ∧ (ctrl → priv = false → answers 1)
       ∧ (near ∨ vault → mbz → answers 2)
       ∧ (near → ¬mbz → nearEnd → answers 3)
       ∧ (vault → ¬mbz → vaultEnd → answers 4)
       ∧ ((near ∧ ¬nearEnd) ∨ (vault ∧ ¬vaultEnd) → ¬mbz → ea.toNat % align ≠ 0 → answers 5)
       ∧ (vault → sp = 2 → ¬mbz → ¬vaultEnd → ea.toNat % align = 0 → s.globalCore c ea = none → answers 6)
       ∧ (near → ¬mbz → ¬nearEnd → ea.toNat % align = 0 → a.store = true → priv = false → (s.core c).execIn (ea.extractLsb' 0 16).toNat len = true → answers 7)
       ∧ (near → ¬mbz → ¬nearEnd → ea.toNat % align = 0 → (a.store = false ∨ priv = true) → s.check c priv a ea len align true = none)
       ∧ (sp = 1 → vault → ¬mbz → ¬vaultEnd → ea.toNat % align = 0 → s.check c priv a ea len align true = none))
  ∧ ∀ (s : State) (d a b c : BitVec 5) (g z : BitVec 3) (o : BitVec 12) (i : Instr) (n : Nat) (ea : Word),
      i ∈ loadsOf d a z o ++ storesOf d a z o ++ atomicsOf d a b c g z → (s.ctx.getX a + (o.signExtend 64 <<< z.toNat)).extractLsb' 60 4 ≠ 0xF#4 →
      accessCheck s i = some (n, ea) → Traps i s (0x080 + 4 * n) ea

/-- R258, R259, R262: a load from the near store that no older store of the strand holds back writes its register at once: the little-endian
value of its bytes, sign-extended below 8 bytes, zero-extended in a vector register; LD.Q a pair; LDVS and LDVG one element per lane.
That an access of several near-store events is one step is read from R247 (log 48). -/
def Obligations.NearLoadResult : Prop :=
  ∀ (s : State) (d a : BitVec 5) (z : BitVec 3) (o : BitVec 12), Issuing s → (s.core s.cur.1).nearUe = [] →
    let ea := s.ctx.getX a + (o.signExtend 64 <<< z.toNat)
    let m := (s.core s.cur.1).near
    let ready (i : Instr) : Prop := s.mayLeave s.cur.1 s.cur.2 (s.entry i [] 0) = true
    let at_ (n : Nat) : Prop := ea.toNat + n ≤ 0x10000
    let w := 8 * 2^z.toNat
    (z.toNat ≤ 3 → at_ (2^z.toNat) → ready (.ld d a z o) →
        Performs (.ld d a z o) s (WroteX d (((BitVec.ofNat w (m.le ea.toNat (2^z.toNat))).signExtend 64))))
      ∧ (z.toNat ≤ 3 → at_ (2^z.toNat) → ea.toNat % 2^z.toNat = 0 → ready (.lda d a z o) →
        Performs (.lda d a z o) s (WroteX d (((BitVec.ofNat w (m.le ea.toNat (2^z.toNat))).signExtend 64))))
      ∧ (let eq := s.ctx.getX a + (o.signExtend 64 <<< 4)
         eq.toNat + 16 ≤ 0x10000 → d.toNat % 2 = 0 → d ≠ 0 → s.mayLeave s.cur.1 s.cur.2 (s.entry (.ld d a 4 o) [] 0) = true →
        Performs (.ld d a 4 o) s (fun c c' => (∀ r, c'.getX r = if r = d then BitVec.ofNat 64 (m.le eq.toNat 8)
            else if r = d + 1 then BitVec.ofNat 64 (m.le (eq.toNat + 8) 8) else c.getX r) ∧ Kept (fun e => { e with x := c.x }) c c'))
      ∧ (at_ (vecBytes z) → ready (.ldv d a z o) →
        Performs (.ldv d a z o) s (WroteV d (BitVec.ofNat 512 (m.le ea.toNat (vecBytes z))) 0 0))
      ∧ (∀ i, (i = .ldvs d a z o ∧ z.toNat ≤ 5) ∨ (i = .ldvg d a z o ∧ z.toNat ≤ 2 ∧ ea.toNat < 0x10000) → NearOnly (memElems s.ctx i) → ready i →
        ∃ v, Performs i s (WroteV d v 0 0) ∧ ∀ n < (memElems s.ctx i).length,
          let lane := if i = .ldvs d a z o then w else 32
          (v >>> (lane * n)).setWidth lane = BitVec.ofNat lane (m.le ((memElems s.ctx i).getD n (0, 0)).1.toNat (2^z.toNat)))

/-- R252, R254, R272: a load whose checks pass and that touches a vault stays outstanding and sends a request for each of its events; LDA,
LDFE and LDFE.E hold the strand until it has completed. The registers do not change.
That LDA holds every instruction, not accesses alone, is the model's reading (log 46). -/
def Obligations.VaultLoadSends : Prop :=
  ∀ (s : State) (d a : BitVec 5) (z : BitVec 3) (o : BitVec 12) (i : Instr), Issuing s → i ∈ loadsOf d a z o →
    (s.ctx.getX a + (o.signExtend 64 <<< z.toNat)).extractLsb' 60 4 ≠ 0xF#4 → accessCheck s i = none →
    (∃ p ∈ memElems s.ctx i, ∃ h off, s.place s.cur.1 p.1 = .vault h off) → s.mayLeave s.cur.1 s.cur.2 (s.entry i [] 0) = true →
    let op : ReqOp := if i = .ldfe d a o then .ldfe false else if i = .ldfeE d a o then .ldfe true else .load
    let evs := s.eventsOf s.cur.1 (memElems s.ctx i)
    ∃ t, exec i s = .next t ∧ (∀ e, e ≠ s.cur.1 → t.core e = s.core e)
      ∧ (t.core s.cur.1).near = (s.core s.cur.1).near ∧ (t.core s.cur.1).vault = (s.core s.cur.1).vault
      ∧ Counted s.ctx t.ctx 4 ∧ SameRegs s.ctx t.ctx
      ∧ (∃ rs : List Req, t.net = s.net ++ rs ∧ rs.length = evs.length ∧ ∀ n (h : n < rs.length),
          let v := evs.getD n (0, 0, 0, 0)
          Asks s.cur.1 s.cur.2 (s.core s.cur.1).seq v.2.1 v.2.2.1 v.2.2.2 op true rs[n] ∧ rs[n].idx = n)
      ∧ (∃ e : Entry, (t.strand s.cur.1 s.cur.2).loads = (s.strand s.cur.1 s.cur.2).loads ++ [e] ∧ e.instr = i ∧ e.snap = s.ctx
          ∧ e.parts = List.replicate evs.length .pending)
      ∧ (t.strand s.cur.1 s.cur.2).hold = if i = .lda d a z o ∨ i = .ldfe d a o ∨ i = .ldfeE d a o then some (s.core s.cur.1).seq else none

/-- R252, R258, R263: LOAD_RETURN of an outstanding load, or atomic with a result, whose events have all returned their bytes (as WRITE_ACK
brings them), writes its register from them, in the registers as they then stand, and takes the load off the outstanding ones; a fault among them traps at the load, with the registers as they stood at
its issue, and the instructions issued after it discarded. -/
def Obligations.LoadReturns : Prop :=
  ∀ (s : State) (c : CoreId) (k : Fin 4) (e : Entry) (es : List Entry), (s.strand c k).loads = e :: es →
    (∀ y ∈ es ++ (s.strand c k).sq, e.seq < y.seq) → (s.strand c k).wait = none → e.phase = 1 → Apart s c k e.seq →
    (∀ (d a b cc : BitVec 5) (g z : BitVec 3) (o : BitVec 12) (bs : List (List Byte)), e.parts = bs.map .done →
      let v := leNat bs.flatten
      let gives (f : Ctx → Ctx) : Prop := ∃ r, exec (.loadReturn c k.1 e.seq) s = .next r ∧ OnlyCore c s r ∧ CoreKept id c k s r
        ∧ (r.strand c k).ctx = f (s.strand c k).ctx ∧ (r.strand c k).loads = es.map (fun y => { y with snap := f y.snap })
        ∧ (r.core c).unitq = (s.core c).unitq.map fun u => if u.strand = k ∧ e.seq < u.seq then { u with snap := f u.snap } else u
      (z.toNat ≤ 3 → e.instr = .ld d a z o ∨ e.instr = .lda d a z o ∨ e.instr = .cas d a b cc z ∨ (e.instr ∈ (atomicsOf d a b cc g z).take 11) →
          gives fun x => x.setX d ((BitVec.ofNat (8 * 2^z.toNat) v).signExtend 64))
      ∧ (e.instr = .ld d a 4 o → gives fun x => (x.setX d (BitVec.ofNat 64 v)).setX (d + 1) (BitVec.ofNat 64 (v / 2^64)))
      ∧ (e.instr = .ldfe d a o ∨ e.instr = .ldfeE d a o ∨ e.instr = .amoFadd d a b z ∨ e.instr = .amoBfadd d a b z →
          gives fun x => x.setX d (BitVec.ofNat 64 v))
      ∧ (e.instr = .ldv d a z o ∨ e.instr = .ldvs d a z o ∨ e.instr = .amovR d a b g z → gives fun x => x.setV d (BitVec.ofNat 512 v))
      ∧ (z.toNat ≤ 2 → e.instr = .ldvg d a z o → ∃ f : Ctx → Ctx, gives f ∧ ∀ x, ∃ u, f x = x.setV d u
          ∧ ∀ n < 16, (u >>> (32 * n)).setWidth 32 = BitVec.ofNat 32 (v / 2^(8 * 2^z.toNat * n) % 2^(8 * 2^z.toNat))))
    ∧ (∀ (bs : List (List Byte)) (n : Nat) (ea : Word) (ps : List Resp), e.parts = bs.map .done ++ .fault n ea :: ps → .pending ∉ ps →
      storesBytes e.instr = false →
      ∃ r, exec (.loadReturn c k.1 e.seq) s = .next r ∧ OnlyCore c s r ∧ CoreKept id c k s r
        ∧ TrapsAt e.snap (r.strand c k).ctx (0x080 + 4 * n) ea ∧ (r.strand c k).loads = [] ∧ (r.strand c k).sq = [])

/-- R252, R276: a store or an atomic whose check passes enters the store queue; a count of pending bytes that would reach 2^56 traps PBC_OVERFLOW.
R267: so do FECLR and FESET of at most 4,096 words, whose words are checked by the rows of R245 in their order: a range that leaves the vault comes
before a misaligned address and after a space or reserved bits that are not theirs; with more words they trap ILL_FIELD.
TVAL of that ILL_FIELD, and that the count is looked at first, are the model's readings (logs 18 and 115). -/
def Obligations.StoreIssues : Prop :=
  (∀ (s : State) (d a b c : BitVec 5) (g z : BitVec 3) (o : BitVec 12) (i : Instr),
     i ∈ storesOf d a z o ++ atomicsOf d a b c g z → (s.ctx.getX a + (o.signExtend 64 <<< z.toNat)).extractLsb' 60 4 ≠ 0xF#4 →
     accessCheck s i = none →
     (s.pbcOver i = false → Queues i s 4 false) ∧ (s.pbcOver i = true → Traps i s 0x0AC 0))
  ∧ ∀ (s : State) (a b : BitVec 5) (i : Instr), i = .feclr a b ∨ i = .feset a b →
      let n := (s.ctx.getX b).toNat
      (4096 < n → Traps i s 0x004 (illTval i)) ∧
      let ea := s.ctx.getX a
      let formed := s.check s.cur.1 s.ctx.priv accQuay ea 8 8 false
      let off := (ea.extractLsb' 0 19).toNat
      let beyond : Prop := 0 < n ∧ 0x80000 < off + 8 * n
      (∀ m, n ≤ 4096 → formed = some m → m < 3 ∨ ¬beyond → Traps i s (0x080 + 4 * m) ea)
      ∧ (n ≤ 4096 → beyond → (∀ m, formed = some m → 3 ≤ m) → Traps i s 0x090 (ea + BitVec.ofNat 64 (8 * ((0x80000 - off) / 8))))
      ∧ (n ≤ 4096 → formed = none → ¬beyond → (s.pbcOver i = false → Queues i s 4 false) ∧ (s.pbcOver i = true → Traps i s 0x0AC 0))

/-- R252, R258, R262: STORE_QUEUE_RELEASE of a store writes the near bytes it names, and no other byte of any memory; of a store to one
address of a vault it sends the bytes as the events of R254 and counts them in PBC where the vault is not the strand's own.
That an access of several near-store events is one step is read from R247 (log 48). -/
def Obligations.StoreWritesItsBytes : Prop :=
  ∀ (s : State) (c : CoreId) (k : Fin 4) (e : Entry) (es : List Entry) (d a : BitVec 5) (z : BitVec 3) (o : BitVec 12), s.memOk = true →
    AtHead s c k e es → (e.instr = .stl d a z o → s.released c k e.seq 2 = true ∧ (s.strand c k).faults = []) →
    let ea := e.snap.getX a + (o.signExtend 64 <<< z.toNat)
    let one (n : Nat) (data : Nat) : Prop :=
      (ea.toNat + n ≤ 0x10000 → ∃ r, exec (.storeQueueRelease c k.1) s = .next r ∧ Left id id c k e es s r
          ∧ (∀ f, f ≠ c → r.core f = s.core f) ∧ r.net = s.net ∧ (∀ u, u ≠ k → r.strand c u = s.strand c u)
          ∧ (r.core c).vault = (s.core c).vault
          ∧ ∀ p, (r.core c).near.read p = if ea.toNat ≤ p ∧ p < ea.toNat + n then BitVec.ofNat 8 (data / 256^(p - ea.toNat)) else (s.core c).near.read p)
      ∧ (∀ h off, s.place c ea = .vault h off → ∃ r rs, exec (.storeQueueRelease c k.1) s = .next r ∧ r.net = s.net ++ rs
          ∧ (r.strand c k).sq = es ∧ (r.strand c k).ctx = (s.strand c k).ctx
          ∧ (∀ f p, (r.core f).near.read p = (s.core f).near.read p ∧ (r.core f).vault.read p = (s.core f).vault.read p)
          ∧ (r.strand c k).pbc = (s.strand c k).pbc + (if s.isLocal c h = true then 0 else n)
          ∧ rs.length = (events off n 18).length ∧ ∀ j (hj : j < rs.length),
              let v := (events off n 18).getD j (0, 0)
              Asks c k e.seq h v.1 v.2 (.store (((leBytes data n).drop (v.1 - off)).take v.2)) false rs[j])
    (e.instr = .st d a z o → z.toNat ≤ 3 → one (2^z.toNat) (e.snap.getX d).toNat)
      ∧ (e.instr = .st d a z o → z = 4 → one 16 ((e.snap.getX d).toNat + 2^64 * (e.snap.getX (d + 1)).toNat))
      ∧ (e.instr = .stl d a z o → z.toNat ≤ 3 → one (2^z.toNat) (e.snap.getX d).toNat)
      ∧ (e.instr = .stv d a z o → one (if z = 0 then 64 else 2^z.toNat) (e.snap.getV d).toNat)
      ∧ (∀ i, (i = .stvs d a z o ∧ z.toNat ≤ 5) ∨ (i = .stvx d a z o ∧ z.toNat ≤ 2) → e.instr = i → NearOnly (memElems e.snap i) →
          (memElems e.snap i).Pairwise (fun p q => p.1.toNat + p.2 ≤ q.1.toNat ∨ q.1.toNat + q.2 ≤ p.1.toNat) →
          ∃ r, exec (.storeQueueRelease c k.1) s = .next r ∧ Left id id c k e es s r ∧ (∀ f, f ≠ c → r.core f = s.core f) ∧ r.net = s.net
            ∧ (r.core c).vault = (s.core c).vault
            ∧ (∀ n < (memElems e.snap i).length, ∀ j < 2^z.toNat,
                let lane := if i = .stvs d a z o then 8 * 2^z.toNat else 32
                (r.core c).near.read (((memElems e.snap i).getD n (0, 0)).1.toNat + j)
                  = ((e.snap.getV d) >>> (lane * n + 8 * j)).setWidth 8)
            ∧ ∀ p, (∀ q ∈ memElems e.snap i, p < q.1.toNat ∨ q.1.toNat + q.2 ≤ p) → (r.core c).near.read p = (s.core c).near.read p)

/-- R260, R263 to R265, R267: STORE_QUEUE_RELEASE of an atomic sends the request of its operation to the vault its address names: one without
a result is posted, one with a result becomes an outstanding load; STFE and STFE.F send theirs, as releases at scope .D, and FECLR and FESET
one for each word. -/
def Obligations.AtomicSendsRequest : Prop :=
  ∀ (s : State) (c : CoreId) (k : Fin 4) (e : Entry) (es : List Entry) (d a b cc : BitVec 5) (g z : BitVec 3) (o : BitVec 12), AtHead s c k e es →
    let x := e.snap
    let posts (ea : Word) (n : Nat) (op : ReqOp) : Prop := ∀ h off, s.place c ea = .vault h off →
      ∃ r q, exec (.storeQueueRelease c k.1) s = .next r ∧ r.net = s.net ++ [q] ∧ Asks c k e.seq h off n op false q ∧ (r.strand c k).sq = es
        ∧ (r.strand c k).ctx = (s.strand c k).ctx ∧ (r.strand c k).loads = (s.strand c k).loads
        ∧ (r.strand c k).pbc = (s.strand c k).pbc + (if s.isLocal c h = true then 0 else n)
    let fetches (ea : Word) (n : Nat) (op : ReqOp) : Prop := ∀ h off, s.place c ea = .vault h off →
      ∃ r q, exec (.storeQueueRelease c k.1) s = .next r ∧ r.net = s.net ++ [q] ∧ Asks c k e.seq h off n op true q ∧ (r.strand c k).sq = es
        ∧ (r.strand c k).ctx = (s.strand c k).ctx
        ∧ ∃ y : Entry, y ∈ (r.strand c k).loads ∧ y.seq = e.seq ∧ y.instr = e.instr ∧ y.snap = e.snap ∧ y.parts = [.pending]
    let amo (i : Instr) (op : Nat) : Prop := e.instr = i →
      if d = 0 then posts (x.getX a) (2^z.toNat) (.amo op z.toNat (x.getX b)) else fetches (x.getX a) (2^z.toNat) (.amo op z.toNat (x.getX b))
    amo (.amoAdd d a b z) 0 ∧ amo (.amoSub d a b z) 1 ∧ amo (.amoAnd d a b z) 2 ∧ amo (.amoOr d a b z) 3 ∧ amo (.amoXor d a b z) 4
      ∧ amo (.amoMin d a b z) 5 ∧ amo (.amoMax d a b z) 6 ∧ amo (.amoMinu d a b z) 7 ∧ amo (.amoMaxu d a b z) 8 ∧ amo (.amoSwap d a b z) 9
      ∧ amo (.amoAddsat d a b z) 10 ∧ amo (.amoFadd d a b z) 11 ∧ amo (.amoBfadd d a b z) 12
      ∧ (e.instr = .cas d a b cc z → if d = 0 then posts (x.getX a) (2^z.toNat) (.cas z.toNat (x.getX b) (x.getX cc))
          else fetches (x.getX a) (2^z.toNat) (.cas z.toNat (x.getX b) (x.getX cc)))
      ∧ (e.instr = .amov a b g z → posts (x.getX a) 64 (.amov (x.getP g) z (x.getV b)))
      ∧ (e.instr = .amovR d a b g z → fetches (x.getX a) 64 (.amov (x.getP g) z (x.getV b)))
      ∧ (e.instr = .stfeF d a o → s.released c k e.seq 2 = true → (s.strand c k).faults = [] →
          posts (x.getX a + (o.signExtend 64 <<< 3)) 8 (.stfe false (x.getX d)))
      ∧ (e.instr = .stfe d a o → e.phase = 0 → s.released c k e.seq 2 = true → (s.strand c k).faults = [] → ∀ h off,
          s.place c (x.getX a + (o.signExtend 64 <<< 3)) = .vault h off → ∃ r q, exec (.storeQueueRelease c k.1) s = .next r ∧ r.net = s.net ++ [q]
            ∧ Asks c k e.seq h off 8 (.stfe true (x.getX d)) false q ∧ ∃ y ys, (r.strand c k).sq = y :: ys ∧ y.instr = e.instr ∧ y.phase = 1)
      ∧ (∀ i op, (i = .feclr a b ∧ op = .fecl) ∨ (i = .feset a b ∧ op = .fese) → e.instr = i →
          (∀ n < (x.getX b).toNat, ∃ h off, s.place c (x.getX a + BitVec.ofNat 64 (8 * n)) = .vault h off) →
          ∃ r rs, exec (.storeQueueRelease c k.1) s = .next r ∧ r.net = s.net ++ rs ∧ rs.length = (x.getX b).toNat
            ∧ (∀ n (h : n < rs.length), s.place c (x.getX a + BitVec.ofNat 64 (8 * n)) = .vault rs[n].home rs[n].off ∧ rs[n].op = op ∧ rs[n].len = 8)
            ∧ (r.strand c k).sq = es ∧ (r.strand c k).ctx = (s.strand c k).ctx)

/-! ## The quay (R250 to R265), fences and semaphores -/

namespace Sys2Proof.Spec
open Sys2Proof.Machine

/-- Request q has reached its quay (R272): it is on its way, no earlier one of its strand to the same home is, its home can be reached, and no
access is parked there. -/
structure AtQuay (s : State) (q : Req) : Prop where
  found : s.net.find? (fun r => r.id == q.id && r.st == .flying) = some q
  first : s.net.any q.before = false
  reach : s.stops q.core q.home = none
  still : s.moving q.home = false
  parks : ∀ r ∈ s.parks, r.home ≠ q.home

/-- R251, R274: response a carries what the quay of request q makes of it: to the outstanding load the bytes or the fault, to the strand's counts
the bytes that the write counted, with its fault. -/
structure RepliesTo (q : Req) (r : Resp) (a : Ack) : Prop where
  dest : a.core = q.core ∧ a.strand = q.strand ∧ a.seq = q.seq ∧ a.home = q.home
  load : q.toLoad = true → a.load = some (q.idx, r) ∧ a.bytes = 0 ∧ a.fault = none
  count : q.toLoad = false → a.load = none ∧ a.bytes = q.pbc ∧ a.spb = q.spb ∧ a.xpb = q.xpb
    ∧ a.fault = match r with | .fault n ea => some (n, ea) | _ => none

/-- R251, R274: the quay has performed request q: the bytes of its range in the vault are `new` p (p counted from the start of the range) and
no other byte of any memory has changed; the answer `old` sets out for the outstanding load, or an acknowledgement for the strand's counts. -/
structure Performed (q : Req) (new : Nat → Byte) (old : List Byte) (s t : State) : Prop where
  net : t.net = s.net.filter fun r => r.id ≠ q.id
  vault : ∀ p, (t.core q.home).vault.read p = if q.off ≤ p ∧ p < q.off + q.len then new (p - q.off) else (s.core q.home).vault.read p
  others : ∀ c p, c ≠ q.home → (t.core c).vault.read p = (s.core c).vault.read p
  near : ∀ c p, (t.core c).near.read p = (s.core c).near.read p
  strands : ∀ c, (t.core c).strands = (s.core c).strands
  answer : ∃ a : Ack, t.acks = s.acks ++ [a] ∧ RepliesTo q (.done old) a

/-- R263: the operations of AMO on n bits. -/
def amoWord {n : Nat} (op : Nat) (x y : BitVec n) : BitVec n :=
  match op with
  | 0 => x + y
  | 1 => x - y
  | 2 => x &&& y
  | 3 => x ||| y
  | 4 => x ^^^ y
  | 5 => if y.slt x then y else x
  | 6 => if x.slt y then y else x
  | 7 => if y.ult x then y else x
  | 8 => if x.ult y then y else x
  | 9 => y
  | _ =>
    let v := x.toInt + y.toInt
    if v < -2^(n - 1) then BitVec.ofInt n (-2^(n - 1)) else if 2^(n - 1) ≤ v then BitVec.ofInt n (2^(n - 1) - 1) else BitVec.ofInt n v

end Sys2Proof.Spec

/-- R250, R255, R256, R263 to R265, R267: what a request does at its quay, as one event: a load reads its bytes; a store writes them; an AMO
writes f(old, b), a CAS the new word where the old one matches, and both answer the old bytes; LDFE of a FULL word answers it, and LDFE.E also
empties it; STFE of an EMPTY word, and STFE.F of any, fills it, in a poisoned block as in any other; FECLR empties and FESET fills a word
without touching its bytes. A load, an atomic or LDFE of a poisoned block, and a STFE that would wait there, answer POISON_LOAD (memory cause 9)
and change nothing. -/
def Obligations.QuayPerformsRequest : Prop :=
  ∀ (s : State) (q : Req), s.memOk = true → AtQuay s q →
    let k := s.core q.home
    let old := k.vault.readN q.off q.len
    let same (p : Nat) : Byte := k.vault.read (q.off + p)
    let does (new : Nat → Byte) (ans : List Byte) (P : State → Prop) : Prop := ∃ t, exec (.quayAdmit q.id) s = .next t ∧ Performed q new ans s t ∧ P t
    let good : Prop := k.poisonedIn q.off q.len = false
    let full : Prop := q.off / 8 ∉ k.empty
    let word (v : Word) (p : Nat) : Byte := (v >>> (8 * p)).setWidth 8
    let kept (t : State) : Prop := (t.core q.home).empty = k.empty
    (q.op = .load → good → does same old kept)
      ∧ (∀ d, q.op = .store d → d.length = q.len → does (fun p => d.getD p 0) [] kept)
      ∧ (∀ op sz b, q.op = .amo op sz b → op ≤ 10 → q.len = 2^sz → good →
          does (fun p => ((amoWord op (BitVec.ofNat (8 * 2^sz) (leNat old)) (BitVec.ofNat (8 * 2^sz) b.toNat)) >>> (8 * p)).setWidth 8) old kept)
      ∧ (∀ sz b, q.op = .amo 11 sz b → 1 ≤ sz → sz ≤ 3 → q.len = 2^sz → good →
          does (fun p => BitVec.ofNat 8 ((Num.fAdd (if sz = 1 then Num.F16 else if sz = 2 then Num.F32 else Num.F64) Num.rcRNE 0 (leNat old) b.toNat).1 / 256^p)) old kept)
      ∧ (∀ sz b, q.op = .amo 12 sz b → 1 ≤ sz → sz ≤ 3 → q.len = 2^sz → good →
          does (fun p => BitVec.ofNat 8 ((Num.fAdd Num.BF16 Num.rcRNE 0 (leNat old / 2^(16 * (p / 2)) % 2^16) (b.toNat / 2^(16 * (p / 2)) % 2^16)).1 / 256^(p % 2))) old kept)
      ∧ (∀ lanes t addend, q.op = .amov lanes t addend → q.len = 64 → good →
          does (fun p => BitVec.ofNat 8 (amovFun lanes t (leNat old) addend.toNat / 256^p)) old kept)
      ∧ (∀ sz new cmp, q.op = .cas sz new cmp → q.len = 2^sz → sz ≤ 3 → good →
          does (fun p => if BitVec.ofNat (8 * 2^sz) (leNat old) = BitVec.ofNat (8 * 2^sz) cmp.toNat then word new p else same p) old kept)
      ∧ (∀ take, q.op = .ldfe take → good → full → does same old fun t =>
          ∀ w, w ∈ (t.core q.home).empty ↔ w ∈ k.empty ∨ (take = true ∧ w = q.off / 8))
      ∧ (∀ wait d, q.op = .stfe wait d → q.len = 8 → (wait = true → ¬full) → does (word d) [] fun t =>
          ∀ w, w ∈ (t.core q.home).empty ↔ w ∈ k.empty ∧ w ≠ q.off / 8)
      ∧ (q.op = .fecl → does same [] fun t => ∀ w, w ∈ (t.core q.home).empty ↔ w ∈ k.empty ∨ w = q.off / 8)
      ∧ (q.op = .fese → does same [] fun t => ∀ w, w ∈ (t.core q.home).empty ↔ w ∈ k.empty ∧ w ≠ q.off / 8)
      ∧ (k.poisonedIn q.off q.len = true → (q.op = .load ∨ (∃ op sz b, q.op = .amo op sz b) ∨ (∃ sz n o, q.op = .cas sz n o) ∨ (∃ take, q.op = .ldfe take)
            ∨ (full ∧ ∃ d, q.op = .stfe true d)) →
          ∃ t, exec (.quayAdmit q.id) s = .next t ∧ t.net = s.net.filter (fun r => r.id ≠ q.id) ∧ (∀ c, (t.core c).vault = (s.core c).vault)
            ∧ t.cores = s.cores ∧ ∃ a : Ack, t.acks = s.acks ++ [a] ∧ RepliesTo q (.fault 9 q.addr) a)

/-- R253, R256, R257, R260, R261, R320, R59, R266: what else befalls an access: one that waits for FULL or EMPTY (LDFE, STFE) is parked, or turned
away FE_BUSY where 16 are parked, and is sent again after its time; an access to its word that ends the wait of a parked LDFE, STFE or JOIN
performs it in the same event; a moving home answers RETRY, and RETRY_REISSUE sends every such access again; a response to a load reaches its
event, and an acknowledgement takes its bytes off the counts, PBC and, where they were counted, SPB and XPB, after those that the same quay sent
to the same core before it (R29); patrol scrub of a word with an uncorrectable error poisons its block; an increment adds 1 to its semaphore
and sets event bit 2 of every strand. -/
def Obligations.AccessEvents : Prop :=
  ∀ s : State,
    (∀ q : Req, s.net.find? (fun r => r.id == q.id && r.st == .flying) = some q → s.net.any q.before = false → s.stops q.core q.home = none →
        s.moving q.home = false → (s.core q.home).poisonedIn q.off q.len = false →
        ((q.op = .ldfe true ∨ q.op = .ldfe false) ∧ q.off / 8 ∈ (s.core q.home).empty)
          ∨ (∃ d, q.op = .stfe true d ∧ q.off / 8 ∉ (s.core q.home).empty) →
        let full : Prop := 16 ≤ (s.parks.filter fun r => r.home == q.home).length
        (¬full → exec (.quayAdmit q.id) s = .next { s with net := s.net.filter (fun r => r.id ≠ q.id), parks := s.parks ++ [q] })
        ∧ (full → ∃ t, exec (.quayAdmit q.id) s = .next t ∧ { t with net := s.net } = s
            ∧ t.net = s.net.map fun r => if r.id = q.id then { r with st := .busy (s.now + 64) } else r))
    ∧ (∀ (q : Req) (at_ : Nat), s.net.find? (fun r => r.id == q.id) = some q → q.st = .busy at_ → at_ ≤ s.now →
        exec (.feBusyReissue q.id) s
          = .next { s with net := s.net.filter (fun r => r.id ≠ q.id) ++ [{ q with id := s.ids, st := .flying }], ids := s.ids + 1 })
    ∧ (∀ (q : Req), s.net.find? (fun r => r.id == q.id && r.st == .flying) = some q → s.net.any q.before = false → s.stops q.core q.home = none →
        s.moving q.home = true →
        ∃ t, exec (.quayAdmit q.id) s = .next t ∧ { t with net := s.net } = s
          ∧ t.net = s.net.map fun r => if r.id = q.id then { r with st := .retry (s.now + 256) } else r)
    ∧ (∀ (c : CoreId) (k : Fin 4), ∃ t, exec (.retryReissue c k.1) s = .next t ∧ { t with net := s.net } = s ∧ t.net.length = s.net.length
        ∧ ∀ n (h : n < s.net.length), t.net[n]? = some (match s.net[n].st with
            | .retry at_ => if s.net[n].core = c ∧ s.net[n].strand = k ∧ at_ ≤ s.now then { s.net[n] with st := .flying } else s.net[n]
            | _ => s.net[n]))
    ∧ (∀ q p : Req, s.memOk = true → s.net.find? (fun r => r.id == q.id && r.st == .flying) = some q → s.net.any q.before = false →
        s.stops q.core q.home = none → s.moving q.home = false → (s.core q.home).poisonedIn q.off 8 = false → p ∈ s.parks →
        (∀ r ∈ s.parks, r.home = q.home ∨ r.id = p.id → r = p) → p.home = q.home → p.off = q.off → p.len = 8 → q.len = 8 → q.off % 8 = 0 →
        let k := s.core q.home
        let old := k.vault.readN q.off 8
        let wakes (r : Resp) (word : Word) (full : Bool) : Prop := ∃ t, exec (.quayAdmit q.id) s = .next t
          ∧ t.net = s.net.filter (fun r => r.id ≠ q.id) ∧ t.parks = s.parks.filter (fun r => r.id ≠ p.id)
          ∧ (∃ a b : Ack, t.acks = s.acks ++ [a, b] ∧ RepliesTo p r b)
          ∧ (∀ n, (t.core q.home).vault.read n = if q.off ≤ n ∧ n < q.off + 8 then (word >>> (8 * (n - q.off))).setWidth 8 else k.vault.read n)
          ∧ (∀ w, w ∈ (t.core q.home).empty ↔ if w = q.off / 8 then full = false else w ∈ k.empty)
          ∧ ∀ c, c ≠ q.home → t.core c = s.core c
        (∀ take v d, p.op = .ldfe take → q.op = .stfe v d → q.off / 8 ∈ k.empty → wakes (.done (leBytes d.toNat 8)) d (!take))
        ∧ (∀ take, p.op = .ldfe take → q.op = .fese → q.off / 8 ∈ k.empty → wakes (.done old) (BitVec.ofNat 64 (leNat old)) (!take))
        ∧ (∀ d, p.op = .stfe true d → q.op = .ldfe true ∨ q.op = .fecl → q.off / 8 ∉ k.empty → wakes (.done []) d true)
        ∧ (∀ d, p.op = .join → q.op = .store d → d.length = 8 → leNat d = 0 → wakes (.done []) 0 (decide (q.off / 8 ∉ k.empty)))
        ∧ (∀ b, p.op = .join → q.op = .amo 0 3 b → BitVec.ofNat 64 (leNat old) + b = 0 → wakes (.done []) 0 (decide (q.off / 8 ∉ k.empty))))
    ∧ (∀ (a : Ack), s.acks.find? (fun b => b.id == a.id) = some a →
        (∃ b ∈ s.acks, b.core = a.core ∧ b.home = a.home ∧ b.id < a.id) ∨ (∃ b ∈ s.bulkAcks, b.core = a.core ∧ b.origin = a.home ∧ b.id < a.id) →
        exec (.writeAck a.id) s = .next s)
    ∧ (∀ (a : Ack) (i : Nat) (r : Resp), s.acks.find? (fun b => b.id == a.id) = some a → s.owes a.core a.home a.id = false → a.load = some (i, r) →
        let x := s.strand a.core a.strand
        let f (e : Entry) : Entry := if e.seq = a.seq then { e with parts := e.parts.set i r } else e
        ∃ t, exec (.writeAck a.id) s = .next t ∧ t.acks = s.acks.filter (fun b => b.id ≠ a.id) ∧ (∀ c, c ≠ a.core → t.core c = s.core c)
          ∧ CoreKept id a.core a.strand s t
          ∧ (let y := t.strand a.core a.strand
             y.loads = x.loads.map f ∧ y.sq = x.sq.map f
              ∧ { y with loads := x.loads, sq := x.sq, pbc := x.pbc, spb := x.spb, xpb := x.xpb } = x
              ∧ ((∀ e ∈ x.loads, e.seq = a.seq → storesBytes e.instr = false ∨ .pending ∈ e.parts.set i r) →
                  y.pbc = x.pbc ∧ y.spb = x.spb ∧ y.xpb = x.xpb)
              ∧ (∀ e, x.loads.find? (fun e => e.seq == a.seq) = some e → storesBytes e.instr = true → .pending ∉ e.parts.set i r →
                  let n := e.aux.toNat % 2^32
                  y.pbc = x.pbc - n ∧ y.spb = (if e.aux.getLsbD 32 then x.spb - n else x.spb)
                    ∧ y.xpb = (if e.aux.getLsbD 33 then x.xpb - n else x.xpb))))
    ∧ (∀ (a : Ack), s.acks.find? (fun b => b.id == a.id) = some a → s.owes a.core a.home a.id = false → a.load = none → a.fault = none → (∀ e ∈ (s.strand a.core a.strand).sq, e.seq ≠ a.seq) →
        ∃ t, exec (.writeAck a.id) s = .next t ∧ t.acks = s.acks.filter (fun b => b.id ≠ a.id) ∧ (∀ c, c ≠ a.core → t.core c = s.core c)
          ∧ CoreKept id a.core a.strand s t ∧ (t.strand a.core a.strand).pbc = (s.strand a.core a.strand).pbc - a.bytes
          ∧ (t.strand a.core a.strand).spb = (s.strand a.core a.strand).spb - (if a.spb then a.bytes else 0)
          ∧ (t.strand a.core a.strand).xpb = (s.strand a.core a.strand).xpb - (if a.xpb then a.bytes else 0)
          ∧ { t.strand a.core a.strand with pbc := (s.strand a.core a.strand).pbc, spb := (s.strand a.core a.strand).spb, xpb := (s.strand a.core a.strand).xpb }
            = s.strand a.core a.strand)
    ∧ (∀ (a : Ack) (n : Nat) (ea : Word), s.acks.find? (fun b => b.id == a.id) = some a → s.owes a.core a.home a.id = false → a.load = none → a.fault = some (n, ea) →
        (∀ e ∈ (s.strand a.core a.strand).sq, e.seq ≠ a.seq) →
        ∃ t f, exec (.writeAck a.id) s = .next t ∧ (t.strand a.core a.strand).faults = (s.strand a.core a.strand).faults ++ [f]
          ∧ f.seq = a.seq ∧ f.base = 0x080 + 4 * n ∧ f.addr = ea ∧ f.cmd = false)
    ∧ (∀ (c : CoreId) (w : Nat), w < 65536 → s.parks = [] → ∃ t, exec (.patrolScrub c w 1) s = .next t
        ∧ (∀ b, b ∈ (t.core c).poison ↔ b ∈ (s.core c).poison ∨ b = w / 4) ∧ (∀ d, d ≠ c → t.core d = s.core d)
        ∧ (∀ d p, (t.core d).vault.read p = (s.core d).vault.read p ∧ (t.core d).near.read p = (s.core d).near.read p))
    ∧ (∀ (c : CoreId) (n : Nat), (c, n) ∈ s.semq → n < 16 → (s.core c).saved = false → (vget (s.core c).sems n).toNat < 2^32 - 1 →
        ∃ t, exec (.semIncrement c n) s = .next t ∧ t.semq = s.semq.erase (c, n) ∧ (∀ d, d ≠ c → t.core d = s.core d)
          ∧ { t.core c with strands := (s.core c).strands, sems := (s.core c).sems } = s.core c
          ∧ (∀ m < 16, vget (t.core c).sems m = if m = n then vget (s.core c).sems m + 1 else vget (s.core c).sems m)
          ∧ ∀ u, t.strand c u = { s.strand c u with evpend := (s.strand c u).evpend ||| 4 })

namespace Sys2Proof.Spec
open Sys2Proof.Machine

/-- R471: the pending faults that an instruction receives. -/
def receives (i : Instr) (f : PFault) : Bool :=
  match i with
  | .stl _ _ _ _ | .stfe _ _ _ | .stfeF _ _ _ | .barv _ _ true | .pbwait _ false | .halt | .haltR | .hret | .tdone _ => !f.cmd
  | .pbwait _ true => !f.cmd || f.farw
  | .fence _ e fl r q => (r || fl || e || !q) && (!f.cmd || e || (fl && f.farw))
  | .semw n _ | .semt _ n _ => f.cmd && f.strt && f.sv && f.here && f.sem.toNat == n.toNat
  | _ => false

/-- R259, R260, R266, R285 to R287, R307, R323: the head entry, one that may receive faults, has nothing left to wait for. -/
def Due (s : State) (c : CoreId) (k : Fin 4) (e : Entry) : Prop :=
  let x := s.strand c k
  let amount (b : BitVec 5) : Nat := if b = 0 then 1 else ((e.snap.getX b).setWidth 32).toNat
  match e.instr with
  | .stl _ _ _ _ | .stfeF _ _ _ => s.released c k e.seq 2 = true
  | .stfe _ _ _ | .tdone _ => e.phase = 0 ∧ s.released c k e.seq 2 = true
  | .barv _ n true => (s.core c).barmask.getLsbD n.toNat = true ∧ (s.core c).arrived.getLsbD n.toNat = false ∧ s.released c k e.seq 2 = true
  | .pbwait a f => (if f then x.fpbc else x.pbc) ≤ (e.snap.getX a).toNat ∧ (f = false → e.snap.getX a = 0 → s.released c k e.seq 2 = true)
  | .fence sc ee f r q => (r = true ∨ (ee || f || r || q) = false → s.released c k e.seq sc.toNat = true) ∧ (f = true → x.fpbc = 0)
      ∧ (ee = true → s.engineBusy c k e.seq = false)
  | .semw n b => n.toNat < 16 ∧ amount b ≤ (vget (s.core c).sems n.toNat).toNat ∧ (s.core c).semWait = []
  | .semt _ n _ => n.toNat < 16
  | _ => False

/-- R471: of the faults that instruction e receives strand k traps with that of the oldest instruction, the others are recorded with delivery 3, and those
that it does not receive stay. Nothing else of the core has changed, and nothing has been sent. -/
def TrapsWithOldest (i : Instr) (s : State) (c : CoreId) (k : Fin 4) (e : Entry) : Prop :=
  let faults := (s.strand c k).faults
  let mine := faults.filter fun f => receives e.instr f && decide (f.seq ≤ e.seq)
  ∀ old ∈ mine, faults.Nodup → (∀ f ∈ mine, f ≠ old → old.seq < f.seq) → cPart c < 8 →
    ∃ t rs, exec i s = .next t ∧ t.net = s.net ∧ t.fars = s.fars ∧ (∀ h, h ≠ c → t.core h = s.core h) ∧ CoreKept id c k s t
      ∧ TrapsAt e.snap (t.strand c k).ctx (old.base + if old.cmd then 2 else 1) old.addr
      ∧ (∀ f, f ∈ (t.strand c k).faults ↔ f ∈ faults ∧ f ∉ mine)
      ∧ (t.wafer (cPart c)).errq = (s.wafer (cPart c)).errq ++ rs
      ∧ rs.map (fun r => (r.cause, r.addr)) = (mine.filter fun f => f ≠ old).map fun f => (f.base + 3, f.addr)

end Sys2Proof.Spec

/-- R266, R285 to R287, R471: fences, PBWAIT, RDPB and the semaphore instructions enter the store queue at once; a fence that acquires, SEMW and
SEMT hold the strand. At the head of the queue a fence whose release condition holds and that finds no fault completes, PBWAIT where the count
has fallen to its threshold (for one of zero on PBC the release condition of R277 at scope .D holds as well), and it leaves its strand WAITING
before; RDPB reads the count it names; SEMI adds to its semaphore, SEMW and SEMT take from one that holds enough and on
which nobody waits, SEMT writes 0 where there is too little, SEMS sets it and gives the old value. R253, R379, R471: one of these, an STL, STFE, BARV.R or
TDONE at the head of the queue, or a HALT, HALT.R or HRET that ends its wait, that has pending faults to receive traps instead with that of the oldest
instruction: EPC is at the receiving instruction, CAUSE the fault's with delivery 1 for a deferred store fault and 2 for a command's, TVAL its address; the
others that it receives become records with delivery 3, and those that it does not receive stay. -/
def Obligations.FenceAndSemaphoreResult : Prop :=
  (∀ (s : State) (d a b n : BitVec 5) (sc sel : BitVec 2) (e f r q : Bool),
      Queues (.fence sc e f r q) s 4 (q || !(e || f || r || q)) ∧ Queues (.pbwait a f) s 4 false ∧ Queues (.rdpb d sel) s 4 false
        ∧ Queues (.semi n b) s 4 false ∧ Queues (.semw n b) s 4 true ∧ Queues (.semt d n b) s 4 true ∧ Queues (.sems d n b) s 4 false)
  ∧ (∀ (s : State) (c : CoreId) (k : Fin 4) (e : Entry) (es : List Entry),
      (AtHead s c k e es → Due s c k e → TrapsWithOldest (.storeQueueRelease c k.1) s c k e)
      ∧ ((s.strand c k).wait = some e → (s.strand c k).loadsBack e.seq = true → s.halted c k = false → s.drained c k e.seq = true →
          (e.instr = .halt ∧ e.phase ≠ 1) ∨ e.instr = .haltR ∨ e.instr = .hret → TrapsWithOldest (.strandWake c k.1) s c k e))
  ∧ ∀ (s : State) (c : CoreId) (k : Fin 4) (en : Entry) (es : List Entry) (d a b n : BitVec 5) (sc sel : BitVec 2) (e f r q : Bool),
      AtHead s c k en es → (s.strand c k).faults = [] → n.toNat < 16 →
      let x := s.strand c k
      let sem := vget (s.core c).sems n.toNat
      let amount : Nat := if b = 0 then 1 else ((en.snap.getX b).setWidth 32).toNat
      let ends (g : Ctx → Ctx) (put : Core → Core) (P : State → Prop) : Prop := ∃ t, exec (.storeQueueRelease c k.1) s = .next t
        ∧ Left g id c k en es s t ∧ CoreKept put c k s t ∧ { t with cores := s.cores } = s ∧ (∀ h, h ≠ c → t.core h = s.core h) ∧ P t
      (en.instr = .fence sc e f r q → (r = true ∨ (e || f || r || q) = false → s.released c k en.seq sc.toNat = true) → (f = true → x.fpbc = 0) →
          (e = true → s.engineBusy c k en.seq = false) → ends id (fun m => { m with stale := (s.core c).stale }) fun _ => True)
        ∧ (en.instr = .pbwait a f → (if f = true then x.fpbc else x.pbc) ≤ (en.snap.getX a).toNat →
            (f = false → en.snap.getX a = 0 → s.released c k en.seq 2 = true) → ends id id fun _ => True)
        ∧ (en.instr = .pbwait a f → (en.snap.getX a).toNat < (if f = true then x.fpbc else x.pbc) → x.st = .ready → s.halted c k = false → ∃ t, exec (.storeQueueRelease c k.1) s = .next t
            ∧ (t.strand c k).st = .waiting ∧ (t.strand c k).ctx = x.ctx ∧ (t.strand c k).sq = x.sq ∧ (∀ h, h ≠ c → t.core h = s.core h))
        ∧ (en.instr = .rdpb d sel → ends (fun y => y.setX d (BitVec.ofNat 64
            (if sel = 0 then x.pbc else if sel = 1 then x.fpbc else if sel = 2 then x.xpb else x.spb))) id fun _ => True)
        ∧ (en.instr = .semw n b → amount ≤ sem.toNat → (s.core c).semWait = [] →
            ends id (fun m => { m with sems := (s.core c).sems }) fun t => ∀ m < 16, vget (t.core c).sems m = if m = n.toNat then sem - BitVec.ofNat 32 amount else vget (s.core c).sems m)
        ∧ (en.instr = .semt d n b → amount ≤ sem.toNat → (s.core c).semWait = [] →
            ends (fun y => y.setX d 1) (fun m => { m with sems := (s.core c).sems }) fun t =>
              ∀ m < 16, vget (t.core c).sems m = if m = n.toNat then sem - BitVec.ofNat 32 amount else vget (s.core c).sems m)
        ∧ (en.instr = .semt d n b → sem.toNat < amount → ends (fun y => y.setX d 0) id fun _ => True)
        ∧ (en.instr = .sems d n b → ends (fun y => y.setX d (sem.setWidth 64)) (fun m => { m with sems := (s.core c).sems }) fun t =>
            ∀ m < 16, vget (t.core c).sems m = if m = n.toNat then (en.snap.getX b).setWidth 32 else vget (s.core c).sems m)
        ∧ (en.instr = .semi n b → s.released c k en.seq 0 = true → sem.toNat + amount < 2^32 → ∃ t, exec (.storeQueueRelease c k.1) s = .next t
            ∧ Left id (fun y => { y with evpend := x.evpend }) c k en es s t ∧ (∀ h, h ≠ c → t.core h = s.core h)
            ∧ (∀ m < 16, vget (t.core c).sems m = if m = n.toNat then sem + BitVec.ofNat 32 amount else vget (s.core c).sems m)
            ∧ { t.core c with strands := (s.core c).strands, sems := (s.core c).sems, unitq := (s.core c).unitq } = s.core c
            ∧ ∀ u, (t.strand c u).evpend = (s.strand c u).evpend ||| 4)

/-! ## Waits, messages and handlers (R122, R133, R139, R166, R289 to R303) -/

namespace Sys2Proof.Spec
open Sys2Proof.Machine

/-- R166, R290: the tag is not reserved to another mode. -/
def TagOpen (s : State) (tag : BitVec 6) : Prop := tag ≠ 63 ∨ s.ctx.priv = true

/-- R298, R301: no handler is bound to the tag, nor will an HSET that the strand has issued bind one. -/
def TagFree (s : State) (tag : BitVec 6) : Prop :=
  (s.strand s.cur.1 s.cur.2).willBind tag (vget (s.core s.cur.1).bindings tag.toNat).isSome = false

/-- Word n of a message. -/
def wordOf (v : VReg) (n : Nat) : Word := v.extractLsb' (64 * n) 64

/-- R292: the message that a receive of a tag, of instruction number n, takes now. -/
structure Takes (k : Core) (tag : BitVec 6) (n : Nat) (m : Msg) : Prop where
  unbound : vget k.bindings tag.toNat = none
  turn : k.recvBefore tag n = false
  oldest : k.recv.find? (fun q => q.tag == tag) = some m

/-- R291: the message has left the receive buffer; nothing of the core but that buffer, and what R296 keeps for it, has changed. -/
def Taken (m : Msg) (c : CoreId) (k : Fin 4) (s t : State) : Prop :=
  (t.core c).recv = (s.core c).recv.filter (fun q => q.arr ≠ m.arr)
    ∧ CoreKept (fun x => { x with recv := (s.core c).recv, refused := (s.core c).refused, held := (s.core c).held, heldTop := (s.core c).heldTop }) c k s t
    ∧ (∀ d, d ≠ c → t.core d = s.core d) ∧ { t with cores := s.cores } = s

/-- The head entry has completed with result f and has changed of its core what `put` puts back, and of the rest nothing. -/
def Ends (c : CoreId) (k : Fin 4) (e : Entry) (es : List Entry) (s : State) (f : Ctx → Ctx) (put : Core → Core) (P : State → Prop) : Prop :=
  ∃ t, exec (.storeQueueRelease c k.1) s = .next t ∧ Left f id c k e es s t ∧ CoreKept put c k s t ∧ { t with cores := s.cores } = s
    ∧ (∀ h, h ≠ c → t.core h = s.core h) ∧ P t

/-- The head entry traps, with the registers as they stood at its issue; of its core it has changed what `put` puts back. -/
def HeadTraps (c : CoreId) (k : Fin 4) (e : Entry) (s : State) (cause : Nat) (put : Core → Core := id) (tval : Word := 0) : Prop :=
  ∃ t, exec (.storeQueueRelease c k.1) s = .next t ∧ (∀ h, h ≠ c → t.core h = s.core h) ∧ CoreKept put c k s t
    ∧ TrapsAt e.snap (t.strand c k).ctx cause tval

end Sys2Proof.Spec

/-- R122, R133, R139, R163, R166: LOOPQ waits at its issue; once the strand has nothing outstanding and a message of its tag is queued, it takes
word 0 as its trip count, writes words 1 and 2, and starts its loop. A strand that has been eligible for 60 cycles without issuing is promoted; a
WAITEV whose timeout has passed with no event returns bit 6 and clears no event, whatever comes after the timeout. LOOPQ of a bad length traps ILL_FIELD, of tag 63 in U mode TAG_RESERVED, of a bound tag
TAG_BOUND.
TVAL of that ILL_FIELD, that HSETs already issued count for a binding, and that a bad length comes before the tag's checks, are the model's readings
(logs 18, 27 and 110). -/
def Obligations.QueuedLoopAndWaits : Prop :=
  (∀ (s : State) (n a b : BitVec 5) (len : BitVec 16) (tag : BitVec 6),
      let i : Instr := .loopq n a b len tag
      (1 ≤ len.toNat → len.toNat ≤ 16382 → TagOpen s tag → TagFree s tag → ∃ t, exec i s = .next t ∧ Waiting i s t)
      ∧ (len = 0 ∨ 16382 < len.toNat → Traps i s 0x004 (illTval i))
      ∧ (1 ≤ len.toNat → len.toNat ≤ 16382 → ¬TagOpen s tag → Traps i s 0x0C0 0)
      ∧ (1 ≤ len.toNat → len.toNat ≤ 16382 → TagOpen s tag → ¬TagFree s tag → Traps i s 0x0C4 0))
  ∧ (∀ (s : State) (c : CoreId) (k : Fin 4) (e : Entry) (n a b : BitVec 5) (len : BitVec 16) (tag : BitVec 6) (m : Msg),
      (s.strand c k).wait = some e → e.instr = .loopq n a b len tag → (s.strand c k).hold = some e.seq → (s.strand c k).st = .waiting →
      (s.strand c k).loads = [] → (s.strand c k).sq = [] → s.halted c k = false → Apart s c k e.seq → n.toNat < 3 → NoLoop (s.strand c k).ctx →
      Takes (s.core c) tag e.seq m → wordOf m.payload 0 ≠ 0 →
      let x := (s.strand c k).ctx
      ∃ t, exec (.strandWake c k.1) s = .next t ∧ Taken m c k s t ∧ (t.strand c k).wait = none ∧ (t.strand c k).hold = none ∧ (t.strand c k).st = .ready
        ∧ (let y := (t.strand c k).ctx
           y.pc = x.pc + 8 ∧ y.instret = x.instret + 1 ∧ y.x = ((x.setX a (wordOf m.payload 1)).setX b (wordOf m.payload 2)).x
            ∧ y.getLc n.toNat = ⟨wordOf m.payload 0, (x.pc + 8).setWidth 16, (x.pc + BitVec.ofNat 64 (8 + 4 * len.toNat)).setWidth 17, 0, true⟩))
  ∧ (∀ (s : State) (c : CoreId) (k : Fin 4) (n : Nat), s.candidate c none k = true → (s.strand c k).since = some n → n + 60 ≤ s.now →
      k ∉ (s.core c).promoted → ∃ t, exec (.promotion c k.1) s = .next t ∧ (t.core c).promoted = (s.core c).promoted ++ [k]
        ∧ { t.core c with promoted := (s.core c).promoted } = s.core c ∧ (∀ d, d ≠ c → t.core d = s.core d) ∧ { t with cores := s.cores } = s)
  ∧ ∀ (s : State) (c : CoreId) (k : Fin 4) (e : Entry) (d a b : BitVec 5), (s.strand c k).wait = some e → e.instr = .waitev d a b →
      (s.strand c k).hold = some e.seq → (s.strand c k).loads = [] → (s.strand c k).sq = [] → s.halted c k = false → e.snap.getX b ≠ 0 →
      e.aux.toNat + (e.snap.getX b).toNat ≤ s.now → (e.phase = 0 ∧ waitevHit (s.strand c k) (e.snap.getX a) = 0) ∨ e.phase = 1 → Apart s c k e.seq →
      ∃ t, exec (.waitevTimeout c k.1) s = .next t ∧ WroteX d 64 (s.strand c k).ctx (t.strand c k).ctx ∧ Counted (s.strand c k).ctx (t.strand c k).ctx 4
        ∧ (t.strand c k).evpend = (s.strand c k).evpend
        ∧ (t.strand c k).wait = none ∧ (t.strand c k).hold = none ∧ CoreKept id c k s t ∧ (∀ h, h ≠ c → t.core h = s.core h)

/-- R252, R290, R293, R294, R298, R299, R303: the message instructions enter the store queue, a SEND with its destination; RECV and RECVV
hold the strand. Of tag 63 in U mode each but HMASK traps TAG_RESERVED; RECV and RECVV of a bound tag trap TAG_BOUND, a SEND to a core
outside the partition REMOTE_BOUNDS. R293, R298, R299, R303: what the message instructions do at the head of the store queue: a SEND whose
release condition holds takes a free entry of the send queue; RECV and RECVV take the oldest message of their tag; PEEK reads it and the
count; TFLUSH drops all of the tag and counts them; HSET binds a tag to a strand with the strand's control values and HSET.CLR unbinds it;
HMASK exchanges the mask, bit 63 only in S mode.
That HSETs already issued count for a binding, and what PEEK leaves where ra = rd, are the model's readings (logs 27 and 28). -/
def Obligations.MessageResult : Prop :=
  (∀ (s : State) (d a b c e : BitVec 5) (tag : BitVec 6) (dk : BitVec 3) (u : Bool) (st : BitVec 2), Numbered (s.strand s.cur.1 s.cur.2) (s.core s.cur.1).seq →
     let sends : List Instr := [.send d a b c e tag dk, .sendv d a tag dk]
     let recvs : List Instr := [.recv d a b c e tag, .recvv d a tag]
     let reads : List Instr := [.peek d a tag, .tflush d tag]
     let binds : List Instr := [.hset u st a tag, .hsetClr tag]
     (TagOpen s tag → ∀ i ∈ sends, ∀ h, s.sendDest d dk = some h → ∃ t, exec i s = .next t ∧ Queued i 8 false s t
         ∧ ∃ y, (t.strand s.cur.1 s.cur.2).sq.getLast? = some y ∧ y.aux = BitVec.ofNat 64 h)
       ∧ (TagOpen s tag → s.sendDest d dk = none → ∀ i ∈ sends, Traps i s 0x098 0)
       ∧ (TagOpen s tag → TagFree s tag → ∀ i ∈ recvs, Queues i s 8 true)
       ∧ (TagOpen s tag → ¬TagFree s tag → ∀ i ∈ recvs, Traps i s 0x0C4 0)
       ∧ (TagOpen s tag → ∀ i ∈ reads, Queues i s 8 false) ∧ (TagOpen s tag → ∀ i ∈ binds, Queues i s 4 false)
       ∧ (¬TagOpen s tag → ∀ i ∈ sends ++ recvs ++ reads ++ binds, Traps i s 0x0C0 0)
       ∧ Queues (.hmask d a) s 4 false)
  ∧ ∀ (s : State) (c : CoreId) (k : Fin 4) (en : Entry) (es : List Entry) (d a b cc e : BitVec 5) (tag : BitVec 6) (dk : BitVec 3) (u : Bool) (st : BitVec 2),
      AtHead s c k en es →
      let x := en.snap
      let q := (s.core c).recv.filter fun m => m.tag == tag
      let sent (payload : VReg) : Prop := s.released c k en.seq 0 = true → (s.core c).sendq.length < 32 →
        Ends c k en es s id (fun y => { y with sendq := (s.core c).sendq, sendId := (s.core c).sendId }) fun t =>
          ∃ m, (t.core c).sendq = (s.core c).sendq ++ [m] ∧ m.dest = en.aux.toNat ∧ m.tag = tag ∧ m.payload = payload ∧ m.st = .queued ∧ m.strand = k
            ∧ m.id = (s.core c).sendId ∧ (t.core c).sendId = (s.core c).sendId + 1
      let binding (v : Option Binding) : Prop := Ends c k en es s id (fun y => { y with bindings := (s.core c).bindings }) fun t =>
        ∀ g < 64, vget (t.core c).bindings g = if g = tag.toNat then v else vget (s.core c).bindings g
      (en.instr = .send d a b cc e tag dk → sent (0#256 ++ x.getX e ++ (x.getX cc ++ (x.getX b ++ x.getX a))))
        ∧ (en.instr = .sendv d a tag dk → sent (x.getV a))
        ∧ (∀ m, Takes (s.core c) tag en.seq m →
            (en.instr = .recv d a b cc e tag → ∃ t, exec (.storeQueueRelease c k.1) s = .next t ∧ Taken m c k s t
              ∧ Left (fun y => ((((y.setX d (wordOf m.payload 0)).setX a (wordOf m.payload 1)).setX b (wordOf m.payload 2)).setX cc (wordOf m.payload 3)).setX e
                  (m.sender.setWidth 64)) id c k en es s t)
            ∧ (en.instr = .recvv d a tag → ∃ t, exec (.storeQueueRelease c k.1) s = .next t ∧ Taken m c k s t
              ∧ Left (fun y => (y.setV d m.payload).setX a (m.sender.setWidth 64)) id c k en es s t))
        ∧ (en.instr = .peek d a tag →
            let w : Word := match q with | m :: _ => wordOf m.payload 0 | [] => 0
            Ends c k en es s (fun y => if a = d then y.setX a w else (y.setX a w).setX d (BitVec.ofNat 64 q.length)) id fun _ => True)
        ∧ (en.instr = .tflush d tag → ((s.core c).recv.map (·.arr)).Nodup →
            Ends c k en es s (fun y => y.setX d (BitVec.ofNat 64 q.length))
              (fun y => { y with recv := (s.core c).recv, refused := (s.core c).refused, held := (s.core c).held, heldTop := (s.core c).heldTop })
              fun t => (t.core c).recv = (s.core c).recv.filter fun m => m.tag != tag)
        ∧ (en.instr = .hset u st a tag → binding (some ⟨x.getX a, st.toFin, x.priv && !u, x.mode, x.seed, x.stealdom, x.spillbase, x.spilllim, x.tvec,
            x.savebase, x.note⟩))
        ∧ (en.instr = .hsetClr tag → binding none)
        ∧ (en.instr = .hmask d a → Ends c k en es s (fun y => y.setX d (s.core c).dmask) (fun y => { y with dmask := (s.core c).dmask }) fun t =>
            (t.core c).dmask = if x.priv then x.getX a else (s.core c).dmask.extractLsb' 63 1 ++ (x.getX a).extractLsb' 0 63)

/-- R29, R60, R291, R295, R296, R299, R300: the events of the message class: an entry sets out when no earlier one to its destination is in the queue,
and when none before it that has not been sent could, while a refused one is sent again after its time; one whose way has a port that carries nothing
is discarded with a record (R436). A message with room is put at the end of the buffer with the next arrival number, sets event bit 0 of every
strand where its tag is unbound, and is acknowledged; without room, or at a core on the move, it is refused and its sender listed, and at a saved core
refused alone. A notice takes the entry off the send queue, or sets it to be sent again after 32 cycles. Messages and notices of one core to another
arrive in the order in which it sent them. A hold past its time ends; a strand that a tag is bound to enters its handler with the message in x10 to
x15 and v31.
That every cause for which a message cannot cross to another part discards it is the model's reading (log 94); which buffer entry a message of tag 63
takes is its choice (log 119). -/
def Obligations.MessageEvents : Prop :=
  (∀ (s : State) (c : CoreId) (m : SendEntry), (s.core c).sendq.find? (fun e => e.id == m.id) = some m → (s.core c).stopped = false →
      s.amending c = false → (∀ e ∈ (s.core c).sendq, e.id < m.id → e.dest ≠ m.dest) →
      let free (e : SendEntry) : Prop := ∀ b ∈ (s.core c).sendq, b.id < e.id → b.dest ≠ e.dest
      (m.st = .queued → (∃ e ∈ (s.core c).sendq, e.id < m.id ∧ e.st = .queued ∧ free e) → exec (.sendQueueSend c m.id) s = .next s) ∧
      ∀ i : Instr, (i = .sendQueueSend c m.id ∧ m.st = .queued ∧ ∀ e ∈ (s.core c).sendq, e.id < m.id → e.st = .queued → ¬free e)
          ∨ (∃ at_, i = .messageResend c m.id ∧ m.st = .refused at_ ∧ at_ ≤ s.now) →
      (∀ n, s.crossStop c m.dest = some n → ∃ t, exec i s = .next t ∧ t.msgs = s.msgs ∧ Recorded s t (cPart c) 0x09B
        ∧ (t.core c).sendq = (s.core c).sendq.filter (fun e => e.id ≠ m.id) ∧ { t.core c with sendq := (s.core c).sendq } = s.core c
        ∧ ∀ d, d ≠ c → t.core d = s.core d)
      ∧ (s.crossStop c m.dest = none → ∃ t, exec i s = .next t ∧ t.msgs = s.msgs ++ [⟨s.ids, c, m.id, m.dest, m.tag, m.payload⟩]
        ∧ (t.core c).sendq = (s.core c).sendq.map (fun e => if e.id = m.id then { e with st := .sent } else e)
        ∧ { t.core c with sendq := (s.core c).sendq } = s.core c ∧ ∀ d, d ≠ c → t.core d = s.core d))
  ∧ (∀ (s : State) (f : Flight), s.msgs.find? (fun m => m.id == f.id) = some f → f.src < 2^21 →
      let k := s.core f.dest
      let first : Prop := (∀ m ∈ s.msgs, m.id < f.id → ¬(m.src = f.src ∧ m.dest = f.dest))
        ∧ ∀ n ∈ s.notices, n.id < f.id → ¬(n.origin = f.src ∧ n.src = f.dest)
      let answered (t : State) (ok : Bool) : Prop := t.msgs = s.msgs.filter (fun m => m.id ≠ f.id)
        ∧ t.notices = s.notices ++ [⟨s.ids, f.dest, f.src, f.entry, ok⟩]
      (¬first → exec (.messageAccept f.id) s = .next s)
      ∧ (first → s.crossStop f.src f.dest = none →
        (k.saved = true → ∃ t, exec (.messageAccept f.id) s = .next t ∧ answered t false ∧ t.cores = s.cores)
        ∧ (k.saved = false → s.moving f.dest = false → ∀ top, k.room f.tag f.src = some top → ∃ t m, exec (.messageAccept f.id) s = .next t
            ∧ answered t true ∧ (t.core f.dest).recv = k.recv ++ [m]
            ∧ m.tag = f.tag ∧ m.payload = f.payload ∧ m.arr = k.nextArr ∧ m.sender = BitVec.ofNat 21 (s.coord f.src) ∧ (t.core f.dest).nextArr = k.nextArr + 1
            ∧ (∀ u, (t.strand f.dest u).evpend = (s.strand f.dest u).evpend ||| (if (vget k.bindings f.tag.toNat).isSome then 0 else 1))
            ∧ (∀ u, (t.strand f.dest u).ctx = (s.strand f.dest u).ctx) ∧ ∀ d, d ≠ f.dest → t.core d = s.core d)
        ∧ (k.saved = false → s.moving f.dest = true ∨ k.room f.tag f.src = none → ∃ t, exec (.messageAccept f.id) s = .next t ∧ answered t false
            ∧ t.core f.dest = { k with refused := if k.refused.length < 32 then k.refused ++ [f.src] else k.refused }
            ∧ ∀ d, d ≠ f.dest → t.core d = s.core d)))
  ∧ (∀ (s : State) (n : Notice), s.notices.find? (fun m => m.id == n.id) = some n →
      (∀ m ∈ s.msgs, m.id < n.id → ¬(m.src = n.origin ∧ m.dest = n.src)) → (∀ m ∈ s.notices, m.id < n.id → ¬(m.origin = n.origin ∧ m.src = n.src)) →
      ∃ t, exec (.acceptanceNotice n.id) s = .next t ∧ t.notices = s.notices.filter (fun m => m.id ≠ n.id) ∧ (∀ d, d ≠ n.src → t.core d = s.core d)
        ∧ { t.core n.src with sendq := (s.core n.src).sendq } = s.core n.src
        ∧ (t.core n.src).sendq = if n.ok then (s.core n.src).sendq.filter (fun e => e.id != n.entry)
            else (s.core n.src).sendq.map fun e => if e.id = n.entry then { e with st := .refused (s.now + 32) } else e)
  ∧ (∀ (s : State) (c : CoreId), (s.core c).saved = false → (s.core c).refused = [] →
      ∃ t, exec (.refusalHoldExpire c) s = .next t ∧ (t.core c).held = (s.core c).held.filter (fun h => s.now < h.2)
        ∧ (t.core c).heldTop = (s.core c).heldTop.filter (fun h => s.now < h.2)
        ∧ { t.core c with held := (s.core c).held, heldTop := (s.core c).heldTop } = s.core c ∧ ∀ d, d ≠ c → t.core d = s.core d)
  ∧ ∀ (s : State) (c : CoreId) (k : Fin 4) (m : Msg) (b : Binding), (s.core c).stopped = false → s.onHold c = false → s.amending c = false → (s.core c).handled k = some (m, b) →
      (s.strand c k).st = .free →
      ∃ t, exec (.handlerEntry c k.1) s = .next t ∧ (∀ d, d ≠ c → t.core d = s.core d) ∧ (t.core c).recv = (s.core c).recv.filter (fun q => q.arr ≠ m.arr)
        ∧ (∀ u, u ≠ k → t.strand c u = s.strand c u) ∧ (t.strand c k).st = .handler
        ∧ (let y := (t.strand c k).ctx
           y.pc = b.entry ∧ y.hnd = true ∧ y.priv = b.priv ∧ y.mode = b.mode ∧ y.tvec = b.tvec ∧ NoLoop y ∧ y.flags = 0
            ∧ (∀ n < 4, y.getX (BitVec.ofNat 5 (10 + n)) = wordOf m.payload n) ∧ y.getX 14 = m.sender.setWidth 64 ∧ y.getX 15 = m.tag.setWidth 64
            ∧ y.getV 31 = m.payload ∧ ∀ r : BitVec 5, (r.toNat < 10 ∨ 15 < r.toNat) → y.getX r = 0)

/-! ## Barriers and tasks (R304 to R323) -/

namespace Sys2Proof.Spec
open Sys2Proof.Machine

/-- R307: generation g has gone past the one that x names. -/
def Passed (g : BitVec 32) (x : Word) : Prop := 1 ≤ (g - x.setWidth 32).toNat ∧ (g - x.setWidth 32).toNat ≤ 2^31

/-- R310: what a delivered task writes: its arguments in x10 to x13, its join address in x14, and its entry in x[d]. -/
def delivered (d : BitVec 5) (r : Task) (x : Ctx) : Ctx :=
  let join : Word := 2#4 ++ 0#1 ++ r.extractLsb' 53 3 ++ r.extractLsb' 44 9 ++ r.extractLsb' 35 9 ++ 0#19 ++ r.extractLsb' 16 19
  (((((x.setX 10 (r.extractLsb' 64 64)).setX 11 (r.extractLsb' 128 64)).setX 12 ((r.extractLsb' 192 32).signExtend 64)).setX 13
    ((r.extractLsb' 224 32).signExtend 64)).setX 14 (if r.getLsbD 56 then join else 0)).setX d ((r.extractLsb' 0 16).setWidth 64)

/-- R309, R319: r is the record that a FORK with entry x[a] and join counter x[b] makes. -/
structure Forked (x : Ctx) (a b : BitVec 5) (r : Task) : Prop where
  entry : r.extractLsb' 0 16 = (x.getX a).extractLsb' 0 16
  counted : r.getLsbD 56 = (b != 0)
  none_ : b = 0 → r.extractLsb' 16 48 = 0
  offset : b ≠ 0 → r.extractLsb' 16 19 = (x.getX b).extractLsb' 0 19
  x10 : r.extractLsb' 64 64 = x.getX 10
  x11 : r.extractLsb' 128 64 = x.getX 11
  x12 : r.extractLsb' 192 32 = (x.getX 12).extractLsb' 0 32
  x13 : r.extractLsb' 224 32 = (x.getX 13).extractLsb' 0 32

/-- R312: how many records a window holds. -/
def slotsOf (g : Ring) : Nat := (g.lim.toNat - g.base.toNat) / 32

/-- R312: the vault offset of slot n of a window, counted from its oldest record. -/
def slotAt (g : Ring) (n : Nat) : Nat := g.base.toNat % 2^19 + 32 * ((g.head + n) % slotsOf g)

/-- R312: the window in force for a spill under x: the latched one, or, where the region is empty, that of x. -/
def Windowed (m : Core) (x : Ctx) (g : Ring) : Prop := (m.ring = none ∧ g = ⟨x.spillbase, x.spilllim, 0, 0⟩) ∨ (m.ring = some g ∧ g.count ≠ 0)

/-- R309, R313: the record at offset o is not discarded. -/
def Intact (m : Core) (o : Nat) : Prop :=
  let r : Task := BitVec.ofNat 256 (m.vault.le o 32)
  (∀ b ∈ m.poison, 32 * b + 32 ≤ o ∨ o + 32 ≤ 32 * b) ∧ r.extractLsb' 57 7 = 0 ∧ (r.getLsbD 56 = true ∨ r.extractLsb' 16 40 = 0)

/-- The window after its newest record (`d` = 0) or its oldest (`d` = 1) has been taken: none where that was the last. -/
def OneLess (g : Ring) (d : Nat) (o : Option Ring) : Prop :=
  (g.count = 1 → o = none)
    ∧ (1 < g.count → ∃ h, o = some { g with head := h, count := g.count - 1 } ∧ h % slotsOf g = (g.head + d) % slotsOf g)

end Sys2Proof.Spec

/-- R305, R307: the barrier instructions enter the store queue; BARW and BART hold the strand. At its head BMASK exchanges the membership,
and traps where it would leave a channel whose arrival is pending; BARV records the arrival and gives the generation; BARW completes, and BART
answers 1, once the generation has passed the one they name; on a channel the core is no member of BARV, BARW and BART trap. BARRIER_PHASE of a
group all of whose members have arrived counts its generation, clears their arrivals and sets their event bit 1.
That membership is tested at the head of the queue is the model's reading (log 26). -/
def Obligations.BarrierResult : Prop :=
  (∀ (s : State) (d a b c : BitVec 5) (r : Bool), Queues (.bmask d a) s 4 false ∧ Queues (.barv d c r) s 4 false ∧ Queues (.barw c b) s 4 true
      ∧ Queues (.bart d c b) s 4 true)
  ∧ (∀ (s : State) (c : CoreId) (k : Fin 4) (e : Entry) (es : List Entry) (d a b n : BitVec 5) (r : Bool), AtHead s c k e es → n.toNat < 16 →
      let x := e.snap
      let m := s.core c
      let member : Prop := m.barmask.getLsbD n.toNat = true
      let g := s.chanGen c n.toNat
      let new : BitVec 16 := (x.getX a).extractLsb' 0 16
      (e.instr = .bmask d a → m.barmask &&& ~~~new &&& m.arrived = 0 →
          Ends c k e es s (fun y => y.setX d (m.barmask.setWidth 64)) (fun y => { y with barmask := m.barmask, arrived := m.arrived }) fun t =>
            (t.core c).barmask = new ∧ (t.core c).arrived = m.arrived &&& new)
        ∧ (e.instr = .bmask d a → m.barmask &&& ~~~new &&& m.arrived ≠ 0 → HeadTraps c k e s 0x0D0)
        ∧ (e.instr = .barv d n r → member → m.arrived.getLsbD n.toNat = false → (r = true → s.released c k e.seq 2 = true ∧ (s.strand c k).faults = []) →
          Ends c k e es s (fun y => y.setX d (g.setWidth 64)) (fun y => { y with arrived := m.arrived }) fun t =>
            ∀ j < 16, (t.core c).arrived.getLsbD j = (m.arrived.getLsbD j || j == n.toNat))
        ∧ (e.instr = .barw n b → member → Passed g (x.getX b) → Ends c k e es s id id fun _ => True)
        ∧ (e.instr = .bart d n b → member → (Passed g (x.getX b) → Ends c k e es s (fun y => y.setX d 1) id fun _ => True)
            ∧ (¬Passed g (x.getX b) → Ends c k e es s (fun y => y.setX d 0) id fun _ => True))
        ∧ (¬member → e.instr = .barv d n r ∨ e.instr = .barw n b ∨ e.instr = .bart d n b → HeadTraps c k e s 0x0D4))
  ∧ ∀ (s : State) (c : CoreId) (n : Nat), n < 16 → (s.ptnOf c).isSome = true → (s.chan c n).or = false → s.members c n ≠ [] →
      (∀ m ∈ s.members c n, (s.core m).arrived.getLsbD n = true ∧ (s.core m).saved = false) →
      ∃ t, exec (.barrierPhase c n) s = .next t ∧ t.chanGen c n = s.chanGen c n + 1 ∧ (∀ m, m ∉ s.members c n → t.core m = s.core m)
        ∧ ∀ m ∈ s.members c n, (∀ j < 16, (t.core m).arrived.getLsbD j = ((s.core m).arrived.getLsbD j && j != n))
            ∧ ∀ u, t.strand m u = { s.strand m u with evpend := (s.strand m u).evpend ||| 2 }

/-- R319 to R323: the task instructions enter the store queue once their checks have passed, and all but TDONE.K hold the strand until they have
completed.
A join address that fails its check traps, an entry that is no near instruction address traps TASK_ENTRY, bytes that would take PBC to 2^56 trap
PBC_OVERFLOW (R276), a victim outside the partition
traps REMOTE_BOUNDS, and TDONE in a handler traps HALT_IN_HANDLER. R309 to R313, R315 to R323: at the head of the store queue FORK pushes
its record (one with a join counter increments that first) and gives the depth, setting event bit 3 of the other strands; TPOP, and TPOP.S
that finds a record, take the newest and deliver it; TPOP of an empty deque writes all ones; JOIN asks for its counter; TDONE.K decrements
its counter, and TDONE frees its strand. FORK and STEAL trap TASK_OVERFLOW where the deque has no room left that is not promised. A STEAL or a
TPOP.S that finds nothing waits its turn among the core's strands that do, and sends its request; the victim answers with its oldest record, or
EMPTY while it moves, or is saved (log 117); the reply of a STEAL pushes the record and writes 1, or writes 0, that of a TPOP.S delivers it, or counts as an
EMPTY one; the record of one that a hold has cancelled goes to the bottom of the deque. R312, R313: a push that finds 64 in-core records first
writes the oldest 32 of them to the next 32 slots of the window, latched then where the region is empty; a pop that finds none takes the record of
the newest slot, a steal that of the oldest while there is one; a record that R309 or its poison discards makes an error record.
That FORK finds its room at the head of the queue, that TDONE ends after its decrement, that a cancelled TPOP.S's record sets event bit 3 of every
strand, and that room promised to a counted FORK and to a STEAL's reply is not free, are the model's readings (logs 26, 59, 89 and 116); so is that
JOIN x0 checks address 0 (log 118). -/
def Obligations.TaskResult : Prop :=
  (∀ (s : State) (d a b : BitVec 5), Numbered (s.strand s.cur.1 s.cur.2) (s.core s.cur.1).seq →
     let check (r : BitVec 5) : Option Nat := s.check s.cur.1 s.ctx.priv accQuay (s.ctx.getX r) 8 8 true
     let entry := s.ctx.getX a
     let goodEntry : Prop := entry.extractLsb' 16 48 = 0 ∧ entry.extractLsb' 0 2 = 0
     (b = 0 ∨ check b = none → (¬goodEntry → Traps (.fork d a b) s 0x0DC 0)
          ∧ (goodEntry → (s.pbcOver (.fork d a b) = false → Queues (.fork d a b) s 4 true) ∧ (s.pbcOver (.fork d a b) = true → Traps (.fork d a b) s 0x0AC 0)))
       ∧ (∀ n, b ≠ 0 → check b = some n → Traps (.fork d a b) s (0x080 + 4 * n) (s.ctx.getX b))
       ∧ (check a = none → Queues (.join a) s 4 true) ∧ (∀ n, check a = some n → Traps (.join a) s (0x080 + 4 * n) (s.ctx.getX a))
       ∧ Queues (.tpop d) s 4 true ∧ Queues (.tpopS d b) s 4 true
       ∧ (∀ v, s.stealVictim s.ctx s.cur.1 a = some v → Queues (.steal d a) s 4 true)
       ∧ (s.stealVictim s.ctx s.cur.1 a = none → Traps (.steal d a) s 0x098 0)
       ∧ (a = 0 ∨ check a = none → (s.pbcOver (.tdoneK a) = false → Queues (.tdoneK a) s 4 false) ∧ (s.pbcOver (.tdoneK a) = true → Traps (.tdoneK a) s 0x0AC 0)
           ∧ (s.ctx.hnd = false → (s.pbcOver (.tdone a) = false → Queues (.tdone a) s 4 true) ∧ (s.pbcOver (.tdone a) = true → Traps (.tdone a) s 0x0AC 0)))
       ∧ (∀ n, a ≠ 0 → check a = some n → Traps (.tdoneK a) s (0x080 + 4 * n) (s.ctx.getX a)
           ∧ (s.ctx.hnd = false → Traps (.tdone a) s (0x080 + 4 * n) (s.ctx.getX a)))
       ∧ (s.ctx.hnd = true → Traps (.tdone a) s 0x0CC 0))
  ∧ (∀ (s : State) (c : CoreId) (k : Fin 4) (e : Entry) (es : List Entry) (d a b : BitVec 5), AtHead s c k e es → s.partIdx c < 8 →
      let x := e.snap
      let m := s.core c
      let asks (ea : Word) (op : ReqOp) (toLoad : Bool) (P : State → Prop) : Prop := ∀ h off, s.place c ea = .vault h off →
        ∃ t q, exec (.storeQueueRelease c k.1) s = .next t ∧ t.net = s.net ++ [q] ∧ Asks c k e.seq h off 8 op toLoad q
          ∧ (t.strand c k).ctx = (s.strand c k).ctx ∧ P t
      let pushes : Prop := ∃ t r, exec (.storeQueueRelease c k.1) s = .next t ∧ (t.core c).deque = m.deque ++ [r] ∧ Forked x a b r
        ∧ Left (fun y => y.setX d (BitVec.ofNat 64 (t.core c).depth)) id c k e es s t
        ∧ { t.core c with strands := m.strands, deque := m.deque, unitq := m.unitq } = m ∧ (∀ h, h ≠ c → t.core h = s.core h)
        ∧ ∀ u, u ≠ k → t.strand c u = { s.strand c u with evpend := (s.strand c u).evpend ||| 8 }
      let waitsToSteal : Prop := (k, e.seq) ∉ m.thieves → (s.strand c k).st = .ready →
        ∃ t, exec (.storeQueueRelease c k.1) s = .next t ∧ (t.core c).thieves = m.thieves.filter (fun w => w.1 ≠ k) ++ [(k, e.seq)]
          ∧ { t.core c with strands := m.strands, thieves := m.thieves } = m ∧ { t.strand c k with st := .ready } = s.strand c k
          ∧ (t.strand c k).st = .waiting ∧ (∀ u, u ≠ k → t.strand c u = s.strand c u) ∧ (∀ h, h ≠ c → t.core h = s.core h)
      let sendsTo (v : CoreId) : Prop := ∃ t, exec (.stealSend c k.1) s = .next t ∧ t.steals = s.steals ++ [⟨s.ids, c, k, e.seq, v, none⟩]
          ∧ (t.core c).stealAt = some s.now ∧ (t.strand c k).ctx = (s.strand c k).ctx ∧ (t.core c).thieves = m.thieves.filter (fun w => w.1 ≠ k)
          ∧ ∀ h, h ≠ c → t.core h = s.core h
      (e.instr = .fork d a b → b = 0 → e.phase = 0 → m.deque.length + m.promised < 64 → pushes)
        ∧ (e.instr = .fork d a b → b ≠ 0 → e.phase = 0 → m.deque.length + m.promised < 64 →
            asks (x.getX b) (.amo 0 3 1) false fun t => ∃ y, (t.strand c k).sq = y :: es ∧ y.phase = 1 ∧ y.instr = e.instr)
        ∧ (e.instr = .fork d a b → e.phase = 1 → e.parts = [.done []] → m.deque.length < 64 → pushes)
        ∧ (e.instr = .fork d a b → e.phase = 0 → m.canPush x m.promised = false → HeadTraps c k e s 0x0E0)
        ∧ (∀ g, Windowed m x g → e.instr = .fork d a b → b = 0 → e.phase = 0 → m.deque.length = 64 → m.promised < 32 → g.count + 32 ≤ slotsOf g →
            s.stops c c = none → s.moving c = false → s.memOk = true → s.parks = [] →
            ∃ t r, exec (.storeQueueRelease c k.1) s = .next t ∧ (t.core c).deque = m.deque.drop 32 ++ [r] ∧ Forked x a b r
              ∧ (t.core c).ring = some { g with count := g.count + 32 }
              ∧ (t.strand c k).ctx = (s.strand c k).ctx.setX d (BitVec.ofNat 64 (33 + g.count + 32))
              ∧ (∀ h, h ≠ c → t.core h = s.core h) ∧ (t.core c).near = m.near
              ∧ (∀ i < 32, (t.core c).vault.le (slotAt g (g.count + i)) 32 = (m.deque.getD i 0).toNat)
              ∧ ∀ p, (∀ i < 32, p < slotAt g (g.count + i) ∨ slotAt g (g.count + i) + 32 ≤ p) → (t.core c).vault.read p = m.vault.read p)
        ∧ (∀ g, m.ring = some g → m.deque = [] → s.stops c c = none → s.moving c = false →
            e.instr = .tpop d ∨ (e.instr = .tpopS d b ∧ e.phase = 0) →
            let o := slotAt g (g.count - 1)
            (g.count ≠ 0 → Intact m o → Ends c k e es s (delivered d (BitVec.ofNat 256 (m.vault.le o 32)))
                (fun y => { y with ring := m.ring, thieves := m.thieves }) fun t => OneLess g 0 (t.core c).ring)
            ∧ (g.count = 1 → ¬Intact m o → e.instr = .tpop d → ∃ t, exec (.storeQueueRelease c k.1) s = .next t
                ∧ (t.strand c k).ctx = (s.strand c k).ctx.setX d (BitVec.allOnes 64) ∧ (t.core c).ring = none ∧ (∀ h, h ≠ c → t.core h = s.core h)
                ∧ ((∃ y ∈ m.poison, ¬(32 * y + 32 ≤ o ∨ o + 32 ≤ 32 * y)) → Recorded s t (cPart c) 0x0A7)
                ∧ ((∀ y ∈ m.poison, 32 * y + 32 ≤ o ∨ o + 32 ≤ 32 * y) → Recorded s t (cPart c) 0x0E7)))
        ∧ (∀ r rs, m.deque = rs ++ [r] → e.instr = .tpop d ∨ (e.instr = .tpopS d b ∧ e.phase = 0) →
            Ends c k e es s (delivered d r) (fun y => { y with deque := m.deque, thieves := m.thieves }) fun t => (t.core c).deque = rs
              ∧ (t.core c).thieves = if e.instr = .tpop d then m.thieves else m.thieves.filter fun w => w.1 ≠ k)
        ∧ (m.deque = [] → m.ring = none → e.instr = .tpop d ∨ (e.instr = .tpopS d b ∧ e.phase = 0 ∧ x.getX b ≠ 0 ∧ e.aux = x.getX b) →
            Ends c k e es s (fun y => y.setX d (BitVec.allOnes 64)) id fun _ => True)
        ∧ (e.instr = .tpopS d b → e.phase = 0 → m.deque = [] → m.ring = none → ¬(x.getX b ≠ 0 ∧ e.aux = x.getX b) →
            (∃ l < 4, s.victims c x.stealdom l ≠ 0) → waitsToSteal)
        ∧ (e.instr = .steal d a → e.phase = 0 → m.canPush x m.promised = true → waitsToSteal)
        ∧ (e.instr = .join a → asks (x.getX a) .join true fun t => (t.strand c k).sq = es ∧ ∃ y ∈ (t.strand c k).loads, y.seq = e.seq ∧ y.instr = e.instr)
        ∧ (e.instr = .tdoneK 0 → s.released c k e.seq 2 = true → Ends c k e es s id id fun _ => True)
        ∧ (e.instr = .tdoneK a → a ≠ 0 → s.released c k e.seq 2 = true → asks (x.getX a) (.amo 0 3 (BitVec.allOnes 64)) false fun t => (t.strand c k).sq = es)
        ∧ (e.instr = .tdone a → a ≠ 0 → e.phase = 0 → s.released c k e.seq 2 = true → (s.strand c k).faults = [] → (s.strand c k).joined = false →
            asks (x.getX a) (.amo 0 3 (BitVec.allOnes 64)) false fun t => ∃ y, (t.strand c k).sq = y :: es ∧ y.phase = 1 ∧ y.instr = e.instr)
        ∧ (e.instr = .tdone a → e.phase = 1 → e.parts = [] → s.drained c k e.seq = true → (s.strand c k).faults = [] →
            ∃ t, exec (.storeQueueRelease c k.1) s = .next t ∧ (t.strand c k).st = .free ∧ (∀ h, h ≠ c → t.core h = s.core h)
              ∧ ∀ u, u ≠ k → t.strand c u = { s.strand c u with evpend := (s.strand c u).evpend ||| 16 })
        ∧ (e.instr = .steal d a → e.phase = 0 → m.canPush x m.promised = false →
            HeadTraps c k e s 0x0E0 fun y => { y with thieves := m.thieves })
        ∧ ((k, e.seq) ∉ m.thieves → exec (.stealSend c k.1) s = .next s)
        ∧ (∀ ws, m.thieves = (k, e.seq) :: ws → m.stopped = false → s.amending c = false → (∀ at_, m.stealAt = some at_ → at_ + 32 ≤ s.now) →
            (∀ v, e.instr = .steal d a → e.phase = 0 → s.stealVictim x c a = some v → m.canPush x m.promised = true → sendsTo v)
            ∧ (∀ v lv n, e.instr = .tpopS d b → e.phase = 0 → m.deque = [] → m.ring = none → s.nextLevel c x.stealdom 10 0 0 = some (lv, n) →
                v = s.victim c x.stealdom lv ((lfsrStep m.lfsr).toNat % s.victims c x.stealdom lv) → sendsTo v)))
    ∧ (∀ (s : State) (r : Steal), s.steals.find? (fun q => q.id == r.id && q.reply.isNone) = some r → s.moving r.victim = false →
        (s.core r.victim).saved = false → (s.core r.victim).ring = none →
        ∃ t, exec (.stealRequest r.id) s = .next t ∧ (∀ h, h ≠ r.victim → t.core h = s.core h)
          ∧ { t.core r.victim with deque := (s.core r.victim).deque } = s.core r.victim ∧ (t.core r.victim).deque = (s.core r.victim).deque.tail
          ∧ t.steals = s.steals.map fun q => if q.id = r.id then { q with reply := some (s.core r.victim).deque.head? } else q)
    ∧ (∀ (s : State) (r : Steal) (g : Ring), s.steals.find? (fun q => q.id == r.id && q.reply.isNone) = some r → s.moving r.victim = false →
        (s.core r.victim).saved = false → (s.core r.victim).ring = some g → g.count ≠ 0 → s.stops r.victim r.victim = none →
        Intact (s.core r.victim) (slotAt g 0) →
        ∃ t, exec (.stealRequest r.id) s = .next t ∧ (∀ h, h ≠ r.victim → t.core h = s.core h)
          ∧ { t.core r.victim with ring := (s.core r.victim).ring } = s.core r.victim ∧ OneLess g 1 (t.core r.victim).ring
          ∧ t.steals = s.steals.map fun q => if q.id = r.id then
              { q with reply := some (some (BitVec.ofNat 256 ((s.core r.victim).vault.le (slotAt g 0) 32))) } else q)
    ∧ (∀ (s : State) (r : Steal), s.steals.find? (fun q => q.id == r.id && q.reply.isNone) = some r → s.moving r.victim = true ∨ (s.core r.victim).saved = true →
        exec (.stealRequest r.id) s = .next { s with steals := s.steals.map fun q => if q.id = r.id then { q with reply := some none } else q })
    ∧ (∀ (s : State) (r : Steal) (v : Task), s.steals.find? (fun q => q.id == r.id) = some r → r.reply = some (some v) →
        (∀ y ∈ (s.strand r.thief r.strand).sq, y.seq ≠ r.seq) → (s.core r.thief).deque.length + (s.core r.thief).promised < 64 →
        ∃ t, exec (.stealReply r.id) s = .next t ∧ t.steals = s.steals.filter (fun q => q.id ≠ r.id) ∧ (∀ h, h ≠ r.thief → t.core h = s.core h)
          ∧ (t.core r.thief).deque = (s.core r.thief).deque ++ [v]
          ∧ ∀ u, t.strand r.thief u = { s.strand r.thief u with evpend := (s.strand r.thief u).evpend ||| 8 })
    ∧ ∀ (s : State) (r : Steal) (e : Entry) (es : List Entry) (d a b : BitVec 5), s.steals.find? (fun q => q.id == r.id) = some r →
        AtHead s r.thief r.strand e es → e.seq = r.seq →
        let c := r.thief
        let k := r.strand
        let m := s.core c
        let gets (f : Ctx → Ctx) (P : State → Prop) : Prop := ∃ t, exec (.stealReply r.id) s = .next t ∧ t.steals = s.steals.filter (fun q => q.id ≠ r.id)
          ∧ Left f id c k e es s t ∧ (∀ h, h ≠ c → t.core h = s.core h) ∧ P t
        (∀ v, r.reply = some (some v) → e.instr = .steal d a → m.deque.length < 64 → gets (fun y => y.setX d 1) fun t => (t.core c).deque = m.deque ++ [v])
          ∧ (r.reply = some none → e.instr = .steal d a → gets (fun y => y.setX d 0) fun t => (t.core c).deque = m.deque)
          ∧ (∀ v, r.reply = some (some v) → e.instr = .tpopS d b → gets (delivered d v) fun t => (t.core c).deque = m.deque)
          ∧ (r.reply = some none → e.instr = .tpopS d b → ∃ t, exec (.stealReply r.id) s = .next t ∧ t.steals = s.steals.filter (fun q => q.id ≠ r.id)
              ∧ (t.strand c k).sq = (s.strand c k).sq.map (fun y => if y.seq = e.seq then { y with phase := y.phase - 1, aux := y.aux + 1 } else y)
              ∧ { t.strand c k with sq := (s.strand c k).sq } = s.strand c k ∧ (∀ u, u ≠ k → t.strand c u = s.strand c u) ∧ (∀ h, h ≠ c → t.core h = s.core h))

/-! ## Streams, bulk copies and rings (R329 to R353) -/

/-- R341, R343, R344: the stream instructions enter the store queue once the fields of an attachment word are in order (SATT and SDET) and,
for a vault sink, its record is; SPULL holds the strand. A reserved or misused field traps ILL_FIELD and a format no stream carries
STREAM_FORMAT. A vault sink under SR advances STEP. R341, R343, R344: at the head of the store queue SATT attaches an endpoint and writes 0,
or writes why not; SDET detaches one of its strand, and writes what is left of a sink's positions, or all ones where there is none; SPUSH
and SMARK put their flit into the L input of the router where the source's queue is empty and the input has room, a block of an SBF format
whole; in a hold it stays in the source's queue (R355). SDET of a source whose queue is not empty waits. SPULL takes a marker, a lane position, a
block or a failed position from its sink: a block into an SBF format or as 16 F32 lanes, with its exceptions, which may trap; a failed one as a
poisoned position of its kind with this core's origin, and 3; the half of a block is ILL_FIELD. Without an endpoint of the strand with its role and virtual stream SPUSH, SPULL and SMARK trap STREAM_NOT_ATTACHED, and
SATT of a sink whose vault has no way to it traps as any access (R53).
TVAL of that ILL_FIELD, what a sink captures, that only a vault sink advances STEP, that SATT of a sink whose vault cannot be reached traps, and that
the reserved bits of a sink's record make no difference, are the model's readings (logs 18, 35, 36, 99 and 100). -/
def Obligations.StreamResult : Prop :=
  (∀ (s : State) (d a b : BitVec 5) (h : Bool),
     let w := s.ctx.getX a
     let role := w.extractLsb' 6 2
     let slots := (w.extractLsb' 16 5).toNat
     let fmt := (w.extractLsb' 8 4).toNat
     let rc := w.extractLsb' 12 3
     let good : Prop := w.extractLsb' 21 43 = 0 ∧ role ≠ 3 ∧ 1 ≤ slots ∧ slots ≤ 16 ∧ rc ≠ 7 ∧ ¬(w.getLsbD 15 = true ∧ role = 0)
     let carried : Prop := fmt = 0 ∨ fmt = 13 ∨ (9 ≤ fmt ∧ fmt ≤ 11)
     let stochastic : Prop := role = 2 ∧ (if rc = 6 then s.ctx.mode.extractLsb' 0 3 else rc) = 5
     let record : Prop := s.recordCheck (s.ctx.getX b) = none
     (good → carried → (role = 2 → record) → (role ≠ 2 → b = 0) → ¬stochastic → Queues (.satt d a b) s 4 false)
       ∧ (good → carried → record → stochastic → ∃ t, exec (.satt d a b) s = .next t ∧ t.ctx.stepc = s.ctx.stepc + 1 ∧ Counted s.ctx t.ctx 4
           ∧ Kept (fun e => { e with stepc := s.ctx.stepc }) s.ctx t.ctx
           ∧ ∃ e, (t.strand s.cur.1 s.cur.2).sq = (s.strand s.cur.1 s.cur.2).sq ++ [e] ∧ e.instr = .satt d a b ∧ e.snap = s.ctx)
       ∧ (good → carried → Queues (.sdet d a) s 4 false)
       ∧ (¬good → Traps (.satt d a b) s 0x004 (illTval (.satt d a b)) ∧ Traps (.sdet d a) s 0x004 (illTval (.sdet d a)))
       ∧ (good → ¬carried → Traps (.satt d a b) s 0x118 0 ∧ Traps (.sdet d a) s 0x118 0)
       ∧ (good → carried → role ≠ 2 → b ≠ 0 → Traps (.satt d a b) s 0x004 (illTval (.satt d a b)))
       ∧ Queues (.spush d a h) s 4 false ∧ Queues (.spull d a b h) s 4 true ∧ Queues (.smark a b h) s 4 false)
  ∧ ∀ (s : State) (c : CoreId) (k : Fin 4) (e : Entry) (es : List Entry) (d a b : BitVec 5) (h : Bool), AtHead s c k e es →
      let x := e.snap
      let w := x.getX a
      let vs := (w.extractLsb' 0 6).toNat
      let role := w.extractLsb' 6 2
      let slots := (w.extractLsb' 16 5).toNat
      let m := s.core c
      let code (n : Nat) : Prop := Ends c k e es s (fun y => y.setX d (BitVec.ofNat 64 n)) id fun _ => True
      let taken : Prop := ∃ p ∈ m.eps, p.vs.toNat = vs ∧ p.role = role
      let put (f : Flit) : Prop := ∀ ep, m.source vs = some ep → ep.strand = k → ep.queue = [] → 1 ≤ ep.slots →
        (s.frozen c = false → (s.stream c vs).valid = true → (s.stream c vs).marked.getLsbD 4 = false → 4 ∈ (s.stream c vs).ins →
          slotFits (s.stream c vs).islots (costs (vget (s.stream c vs).bufs 4)) f = true →
          ∃ t, exec (.storeQueueRelease c k.1) s = .next t ∧ Left id id c k e es s t ∧ (∀ g, g ≠ c → t.core g = s.core g)
            ∧ vget (t.stream c vs).bufs 4 = vget (s.stream c vs).bufs 4 ++ [f])
        ∧ (s.frozen c = true →
          ∃ t, exec (.storeQueueRelease c k.1) s = .next t ∧ Left id id c k e es s t ∧ (∀ g, g ≠ c → t.core g = s.core g)
            ∧ (t.core c).streams = m.streams ∧ (t.core c).source vs = some { ep with queue := [f] })
      (e.instr = .satt d a b → (role = 2 → s.moving c = false) →
          ((m.stream vs).valid = false → code 1) ∧ ((m.stream vs).valid = true → taken → code 2)
          ∧ ((m.stream vs).valid = true → ¬taken → 8 ≤ m.eps.length → code 3)
          ∧ ((m.stream vs).valid = true → ¬taken → m.eps.length < 8 → 192 < m.poolUsed + slots + 1 → code 4)
          ∧ (∀ n, (m.stream vs).valid = true → ¬taken → m.eps.length < 8 → m.poolUsed + slots + 1 ≤ 192 → role = 2 → s.stops c c = some n →
              HeadTraps c k e s (0x080 + 4 * n) id (x.getX b))
          ∧ ((m.stream vs).valid = true → ¬taken → m.eps.length < 8 → m.poolUsed + slots + 1 ≤ 192 → (role = 2 → s.stops c c = none) →
              Ends c k e es s (fun y => y.setX d 0) (fun y => { y with eps := m.eps }) fun t =>
                ∃ p, (t.core c).eps = m.eps ++ [p] ∧ p.vs.toNat = vs ∧ p.role = role ∧ p.fmt = w.extractLsb' 8 4 ∧ p.rc = w.extractLsb' 12 3
                  ∧ p.root = w.getLsbD 15 ∧ p.slots = slots ∧ p.strand = k ∧ p.queue = [] ∧ p.beats = [] ∧ p.mode = x.mode ∧ p.seed = x.seed ∧ p.step = x.stepc
                  ∧ (role = 2 → p.record = ((x.getX b).extractLsb' 0 19).toNat ∧ p.w0 = BitVec.ofNat 64 (m.vault.le p.record 8)
                      ∧ p.w1 = BitVec.ofNat 64 (m.vault.le (p.record + 8) 8))))
        ∧ (e.instr = .sdet d a →
          let mine := m.eps.find? fun p => p.vs.toNat == vs && p.role == role && p.strand == k
          let off (p : Endpoint) (v : Word) : Prop := Ends c k e es s (fun y => y.setX d v) (fun y => { y with eps := m.eps }) fun t =>
            (t.core c).eps = m.eps.filter fun q => !(q.vs == p.vs && q.role == p.role)
          (mine = none → Ends c k e es s (fun y => y.setX d (BitVec.allOnes 64)) id fun _ => True)
          ∧ (∀ p, mine = some p → role = 0 → p.queue = [] → off p 0)
          ∧ (∀ p, mine = some p → role = 0 → p.queue ≠ [] → s.halted c k = false → exec (.storeQueueRelease c k.1) s = .next s)
          ∧ (∀ p, mine = some p → role ≠ 0 → off p (BitVec.ofNat 64 (p.queue.filter fun f => f.kind.isSome).length)))
        ∧ (e.instr = .smark a b h → put (.marker h ((x.getX b).extractLsb' 0 16)))
        ∧ (∀ v : BitVec 5, e.instr = .spush v a h →
          let half := (x.getV v).extractLsb' (if h then 256 else 0) 256
          (∀ ep, m.source vs = some ep → ep.fmt = 0 → put (.laneF half 0)) ∧ (∀ ep, m.source vs = some ep → ep.fmt = 13 → put (.laneI half 0))
          ∧ (∀ ep, m.mine k vs 0 = some ep → 9 ≤ ep.fmt.toNat → ep.fmt.toNat ≤ 11 →
              let w := codeW ep.fmt.toNat
              let block := Num.Wb.ofSbf w (Num.Sbf.ofImage w (x.getV v).toNat)
              (h = true → HeadTraps c k e s 0x004 id (illTval e.instr))
              ∧ (h = false → m.source vs = some ep → put (.block block.x (block.q.take 8) block false))))
        ∧ (∀ (v : BitVec 5) (ep : Endpoint) (f : Flit) (fs : List Flit), e.instr = .spull v a d h → m.mine k vs 1 = some ep → ep.queue = f :: fs →
          let pulls (g : Ctx → Ctx) : Prop := ∃ t p, exec (.storeQueueRelease c k.1) s = .next t ∧ Left g id c k e es s t
            ∧ (∀ j, j ≠ c → t.core j = s.core j) ∧ (t.core c).mine k vs 1 = some p ∧ p.queue = fs
          let rc := rcOf ep.mode ep.rc
          (∀ xe q wb rn, f = .block xe q wb rn → 9 ≤ ep.fmt.toNat → ep.fmt.toNat ≤ 11 →
            let w := codeW ep.fmt.toNat
            let r := Num.toSbf w rc (fun n => rndWord x.seed x.stepc n 0 (s.c3 c)) (s.coord c) wb.vals
            let es := r.2.mapIdx fun n v => (n, v)
            let image := r.1.image w
            (h = true → HeadTraps c k e s 0x004 id (illTval e.instr))
            ∧ (∀ n, h = false → trapKind x.mode (excAll es) = some n → HeadTraps c k e s (arithCause n (codeGrp ep.fmt.toNat)) id (excLanes n es))
            ∧ (h = false → trapKind x.mode (excAll es) = none → pulls fun y => (((y.orFlags (excAll es)).bumpStep (rc == Num.rcSR)).setV v
                (BitVec.ofNat 512 (image % 2^(16 * w) + image / 2^496 * 2^496))).setX d 0)) ∧
          (∀ xe q wb rn, f = .block xe q wb rn → ep.fmt = 0 →
            let rs := wb.vals.mapIdx fun n u => packVal 0 rc (x.mode.getLsbD 3) (rndWord x.seed x.stepc n 0 (s.c3 c)) u
            let xs := rs.mapIdx fun n r => (n, r.2)
            (h = true → HeadTraps c k e s 0x004 id (illTval e.instr))
            ∧ (∀ n, h = false → trapKind x.mode (excAll xs) = some n → HeadTraps c k e s (arithCause n (codeGrp 0)) id (excLanes n xs))
            ∧ (h = false → trapKind x.mode (excAll xs) = none → pulls fun y => (((y.orFlags (excAll xs)).bumpStep (rc == Num.rcSR)).setV v
                (BitVec.ofNat 512 (packElems 32 (rs.map Prod.fst)))).setX d 0)) ∧
          (∀ kd, f = .fail kd → kd ≤ 2 → ep.fmt = 0 ∨ ep.fmt = 13 ∨ (9 ≤ ep.fmt.toNat ∧ ep.fmt.toNat ≤ 11) →
            let lane : BitVec 32 := BitVec.ofNat 32 (Num.poisonCode Num.F32 (s.coord c))
            let half : BitVec 256 := if ep.fmt = 0 then lane ++ lane ++ lane ++ lane ++ lane ++ lane ++ lane ++ lane
              else if ep.fmt = 13 then 0 else BitVec.ofNat 256 (s.coord c)
            let whole : VReg := if ep.fmt = 0 ∨ ep.fmt = 13 then half ++ half
              else BitVec.ofNat 512 (s.coord c % 2^(16 * codeW ep.fmt.toNat) + 255 * 2^496)
            (kd = 2 → h = true → HeadTraps c k e s 0x004 id (illTval e.instr))
            ∧ (kd = 2 → h = false → pulls fun y => (y.setV v whole).setX d 3)
            ∧ (kd ≠ 2 → pulls fun y =>
                (y.setV v (if h then half ++ (y.getV v).extractLsb' 0 256 else (y.getV v).extractLsb' 256 256 ++ half)).setX d 3)) ∧
          (∀ u, f = .marker false u → pulls fun y => y.setX d (((u.setWidth 64 : Word) <<< 32) + 1))
          ∧ (∀ u, f = .marker true u → pulls fun y => y.setX d (((u.setWidth 64 : Word) <<< 32) + 2))
          ∧ (∀ data g, f = .laneF data g → ep.fmt = 0 → pulls fun y =>
              (y.setV v (if h then data ++ (y.getV v).extractLsb' 0 256 else (y.getV v).extractLsb' 256 256 ++ data)).setX d 0)
          ∧ (∀ data g, f = .laneI data g → ep.fmt = 13 → pulls fun y =>
              (y.setV v (if h then data ++ (y.getV v).extractLsb' 0 256 else (y.getV v).extractLsb' 256 256 ++ data)).setX d 0))
        ∧ ((∀ p ∈ m.eps, ¬(p.vs.toNat = vs ∧ p.role = 0 ∧ p.strand = k)) → (∃ v, e.instr = .spush v a h) ∨ e.instr = .smark a b h →
            HeadTraps c k e s 0x11C)
        ∧ ((∀ p ∈ m.eps, ¬(p.vs.toNat = vs ∧ p.role = 1 ∧ p.strand = k)) → (∃ v, e.instr = .spull v a d h) → HeadTraps c k e s 0x11C)

namespace Sys2Proof.Spec
open Sys2Proof.Machine Sys2Proof.Num

/-- R336: one lane of a combining leg, and its exceptions: FSUM32, MAX, and ISUM32, which clamps. -/
def laneSum (op : Nat) (a b : BitVec 32) : BitVec 32 × Exc :=
  let float (r : Res) : BitVec 32 × Exc := (BitVec.ofNat 32 r.1, r.2)
  let v := a.toInt + b.toInt
  if op = 2 then float (fAdd F32 rcRNE 0 a.toNat b.toNat)
  else if op = 4 then float (fMinMax F32 true a.toNat b.toNat)
  else if v < -2^31 then (BitVec.ofInt 32 (-2^31), 0x040)
  else if 2^31 - 1 < v then (BitVec.ofInt 32 (2^31 - 1), 0x040)
  else (BitVec.ofInt 32 v, 0)

/-- R336: the left fold of a lane over the beats of a position, the first at the left. -/
def laneFold (op : Nat) (k : Nat) (a : BitVec 32 × Exc) (beats : List (BitVec 256)) : BitVec 32 × Exc :=
  beats.foldl (fun a d => let r := laneSum op a.1 (d.extractLsb' (32 * k) 32); (r.1, a.2 ||| r.2)) a

/-- R104: q / 2^n rounded to nearest, ties to even. -/
def halfEven (q : Int) (n : Nat) : Int :=
  let d : Int := 2^n
  if 2 * (q % d) < d ∨ (2 * (q % d) = d ∧ q / d % 2 = 0) then q / d else q / d + 1

/-- R104, R337: the sum of two WB32 blocks at the router of a core. -/
def blockSum (self : Nat) (a b : Wb) : Wb :=
  let x := max a.x b.x
  let s := (List.range 16).map fun k => halfEven (a.q.getD k 0) (x - a.x) + halfEven (b.q.getD k 0) (x - b.x)
  let wide : Prop := ∃ v ∈ s, v > 2^31 - 1 ∨ v < -2^31
  let x' := if wide then x + 1 else x
  let s' := if wide then s.map (halfEven · 1) else s
  if a.x = 0x3FF then a else if b.x = 0x3FF then b else if a.x = 0 then b else if b.x = 0 then a
  else if x' > 1022 then ⟨0x3FF, List.replicate 16 0, self⟩
  else if ∀ v ∈ s', v = 0 then ⟨0, List.replicate 16 0, 0⟩
  else ⟨x', s', 0⟩

/-- R336: what a combining leg makes of the flits of a position. -/
def Combines (op self : Nat) (fl : List Flit) (r : Flit) (own : BitVec 7) : Prop :=
  (∀ ds : List (BitVec 256 × BitVec 7), ds ≠ [] → fl = ds.map (fun d => .laneF d.1 d.2) ∨ fl = ds.map (fun d => .laneI d.1 d.2) →
      let lane (k : Nat) := laneFold op k (((ds.headD (0, 0)).1.extractLsb' (32 * k) 32), 0) (ds.tail.map Prod.fst)
      ∃ data flags, r = (if fl = ds.map (fun d => .laneF d.1 d.2) then .laneF data flags else .laneI data flags)
        ∧ (∀ k < 8, data.extractLsb' (32 * k) 32 = (lane k).1)
        ∧ (∀ j < 7, own.getLsbD j = true ↔ ∃ k < 8, (lane k).2.getLsbD j = true)
        ∧ flags = (ds.foldl (fun a d => a ||| d.2) 0) ||| own)
  ∧ (∀ bs : List Wb, bs ≠ [] → op = 1 → fl.map (fun f => match f with | .block _ _ b _ => some b | _ => none) = bs.map some →
      own = 0 ∧ ∃ x q rn, r = .block x q (bs.tail.foldl (blockSum self) (bs.headD ⟨0, [], 0⟩)) rn)
  ∧ (op = 0 → ∀ f, fl = [f] → f.kind.isSome = true → r = f ∧ own = 0)

end Sys2Proof.Spec

/-- R329 to R340, R345: a write that validates a table entry in order sets it valid at leg 0 with its fields, and any other leaves it; a
write that invalidates one resets it but for those fields and its legs, and detaches the endpoints of its VS. A position whose parts have
all come leaves its inputs and, combined, goes to every output of its leg once each has a credit: to the next routers' inputs, and into the attached
sink; so do a marker that every input has delivered, after which the leg steps, and the FAIL of a position that has failed, which is counted; without
a credit for every output nothing moves. A notice gives its credit back; a watchdog that has run marks the inputs that have not delivered. R342, R346, R347: a vault sink writes the 32 bytes of
a lane position at the next place of its data plane, one event at a time, and moves on after the last;
the END writes word 2 of its record, increments its semaphore, and then sends its report; a root's report counts the roots down and gathers what they found; a write
of W0 of the completion block starts a launch's count afresh.
That a position moves whole is the model's choice (log 31), and that a refused write stores nothing its reading (log 37). -/
def Obligations.StreamEvents : Prop :=
  ((∀ (s : State) (c : CoreId) (vs : Nat) (w : Word), vs < 64 →
       let e := s.stream c vs
       let n : StreamEntry := { e with nleg := (w.extractLsb' 1 2).toNat, islots := (w.extractLsb' 8 4).toNat, wdog := (w.extractLsb' 12 14).toNat }
       let sound : Prop := n.islots ≠ 0 ∧ n.wdog ≠ 0 ∧ n.wdog ≤ 10000 ∧ (∀ j ≤ n.nleg, legOk (vget n.legs j) = true)
         ∧ (∀ p ∈ n.ins ++ n.outs, p = 4 ∨ (s.portTo c p).isSome = true) ∧ (s.core c).poolUsed + (n.islots + 1) * n.ins.length ≤ 192
       (w.getLsbD 0 = true → e.valid = false → sound → ∃ t, exec (.streamEntryValidate c vs w.toNat) s = .next t
           ∧ t.stream c vs = { n with valid := true, leg := 0 } ∧ (∀ u, u ≠ vs → t.stream c u = s.stream c u) ∧ ∀ g, g ≠ c → t.core g = s.core g)
         ∧ (w.getLsbD 0 = true → e.valid = true ∨ ¬sound → exec (.streamEntryValidate c vs w.toNat) s = .next s)
         ∧ (w.getLsbD 0 = false → ∃ t, exec (.streamEntryInvalidate c vs w.toNat) s = .next t
           ∧ t.stream c vs = { StreamEntry.reset with nleg := n.nleg, islots := n.islots, wdog := n.wdog, legs := e.legs }
           ∧ (t.core c).eps = (s.core c).eps.filter (fun p => p.vs.toNat ≠ vs) ∧ ∀ g, g ≠ c → t.core g = s.core g))
   ∧ (∀ (s : State) (c : CoreId) (vs : Nat), vs < 64 → s.frozen c = false → (s.core c).source vs = none →
       let e := s.stream c vs
       let w := vget e.legs e.leg
       let outs := legOut w
       let forwards (f : Flit) (ports : List Nat) (P : StreamEntry → Prop) : Prop :=
         ((∃ p ∈ outs, s.credit c vs p f = false) → exec (.streamPosition c vs) s = .next s)
         ∧ ((∀ p ∈ outs, s.credit c vs p f = true) → ∃ t, exec (.streamPosition c vs) s = .next t
             ∧ (∀ p ∈ outs, p ≠ 4 → ∃ d, s.portTo c p = some d ∧ ((s.stream d vs).marked.getLsbD (portBack p) = false →
                 vget (t.stream d vs).bufs (portBack p) = vget (s.stream d vs).bufs (portBack p) ++ [f]))
             ∧ (4 ∈ outs → ∃ ep p, (s.core c).sink vs = some ep ∧ (t.core c).sink vs = some p ∧ p.queue = ep.queue ++ [f])
             ∧ (∀ q < 9, vget (t.stream c vs).bufs q = if q ∈ ports then (vget e.bufs q).tail else vget e.bufs q)
             ∧ P (t.stream c vs) ∧ ∀ g, g ≠ c → (∀ p ∈ outs, p = 4 ∨ s.portTo c p ≠ some g) → t.core g = s.core g)
       e.valid = true →
       (∀ kd, e.failing = some kd → forwards (.fail kd) [] fun y => y.failing = none ∧ y.fails = min (e.fails + 1) 65535 ∧ y.leg = e.leg)
       ∧ ∀ fl : List Flit, e.marked = 0 → e.failing = none → e.skip = 0 → legIn w ≠ [] → (legIn w).map (fun p => (vget e.bufs p).head?) = fl.map some →
           ((∀ f ∈ fl, opTakes (legOp w) f = true ∧ f.kind.isSome = true ∧ ∀ n, f ≠ .fail n) →
             ∃ r own, Combines (legOp w) (s.coord c) fl r own ∧ forwards r (legIn w) fun y => y.leg = e.leg ∧ y.flags = e.flags ||| own)
           ∧ ((∀ f ∈ fl, ∃ b u, f = .marker b u) → ∀ user : BitVec 16, (∃ b, fl.head? = some (.marker b user)) →
             ∀ last : Bool, (last = true ↔ ∃ u, .marker true u ∈ fl) →
             forwards (.marker last user) (legIn w) fun y => y.leg = if last then 0 else (e.leg + 1) % (e.nleg + 1)))
   ∧ (∀ (s : State) (n : Nat), exec (.slotFreeNotice n) s = .next { s with slotNotes := s.slotNotes.filter fun x => x.id ≠ n })
   ∧ ∀ (s : State) (c : CoreId) (vs at_ : Nat), vs < 64 → s.frozen c = false → (s.core c).source vs = none →
       let e := s.stream c vs
       e.valid = true → e.partly = true → e.since = some at_ → at_ + 1500 * e.wdog ≤ s.now →
       ∃ t, exec (.streamWatchdog c vs) s = .next t ∧ (∀ g, g ≠ c → t.core g = s.core g)
         ∧ ∀ p < 9, let late : Prop := p ∈ legIn (vget e.legs e.leg) ∧ e.marked.getLsbD p = false
             ∧ ∀ f, ((vget e.bufs p).drop (if e.skip.getLsbD p then 1 else 0)).head? = some f → f.isMarker = true
           ((t.stream c vs).marked.getLsbD p = true ↔ e.marked.getLsbD p = true ∨ late)
             ∧ vget (t.stream c vs).bufs p = if late then [] else vget e.bufs p)
  ∧ (∀ (s : State) (c : CoreId) (vs : Nat) (ep : Endpoint) (fs : List Flit), s.memOk = true → s.parks = [] → s.frozen c = false →
        s.moving c = false → s.stops c c = none →
        (s.core c).eps.find? (fun e => e.vs.toNat == vs && e.role == 2) = some ep →
        (∀ data g, ep.queue = .laneF data g :: fs → ep.fmt = 0 →
          let at_ := (ep.w0.extractLsb' 0 19).toNat + ep.dptr
          let evs := events at_ 32 4
          let left := (List.range evs.length).filter fun n => n ∉ ep.beats
          at_ + 32 ≤ (ep.w1.extractLsb' 0 19).toNat → left ≠ [] →
          ∃ n ∈ left, ∃ t p, exec (.sinkWrite c vs) s = .next t ∧ (∀ d, d ≠ c → t.core d = s.core d)
            ∧ (∀ q, let v := evs.getD n (0, 0)
                (t.core c).vault.read q = if v.1 ≤ q ∧ q < v.1 + v.2 then (data >>> (8 * (q - at_))).setWidth 8 else (s.core c).vault.read q)
            ∧ (t.core c).eps.find? (fun e => e.vs.toNat == vs && e.role == 2) = some p
            ∧ if left.length = 1 then p.queue = fs ∧ p.dptr = ep.dptr + 32 ∧ p.written = ep.written + 1 ∧ p.beats = []
              else p.queue = ep.queue ∧ p.dptr = ep.dptr ∧ p.written = ep.written ∧ p.beats = n :: ep.beats)
        ∧ (∀ u, ep.queue = .marker true u :: fs →
          ∃ t p, exec (.sinkEnd c vs) s = .next t ∧ (∀ d, d ≠ c → t.core d = s.core d)
            ∧ (∀ q, (q < ep.record + 16 ∨ ep.record + 24 ≤ q) → (t.core c).vault.read q = (s.core c).vault.read q)
            ∧ (t.core c).vault.le (ep.record + 16) 8 = ((if ep.inc then 1 else 0) + 2^16 * ep.pcnt + 2^32 * ep.rncnt + 2^48 * ep.xflags.toNat) % 2^64
            ∧ (t.core c).eps.find? (fun e => e.vs.toNat == vs && e.role == 2) = some p ∧ p.queue = fs ∧ p.dptr = 0 ∧ p.inc = false
            ∧ (∀ j < 16, (s.core c).saved = false → (vget (s.core c).sems j).toNat < 2^32 - 1 →
                vget (t.core c).sems j = vget (s.core c).sems j + if ep.w1.getLsbD 36 = true ∧ j = (ep.w1.extractLsb' 32 4).toNat then 1 else 0)
            ∧ t.reports = s.reports ++ (if ep.root then [⟨s.ids, c, ep.inc, ep.pcnt⟩] else [])))
    ∧ (∀ (s : State) (r : Report) (q : Ptn), s.reports.find? (fun x => x.id == r.id) = some r → s.ptnOf r.core = some q → 2 ≤ q.comp.roots →
        (s.wafer (cPart r.core)).ptnIn q.slot = some q → q.comp.pcnt + r.pcnt < 65536 → s.frozen r.core = false →
        s.placeAway (leadCore (cPart r.core) q) q.comp.done = false →
        ∃ t p, exec (.rootReport r.id) s = .next t ∧ t.reports = s.reports.filter (fun x => x.id ≠ r.id)
          ∧ (t.wafer (cPart r.core)).ptnIn q.slot = some p ∧ p.comp.roots = q.comp.roots - 1 ∧ p.comp.inc = (q.comp.inc || r.inc)
          ∧ p.comp.pcnt = q.comp.pcnt + r.pcnt ∧ t.cores = s.cores)
    ∧ ∀ (s : State) (part slot : Nat) (w : Word) (q : Ptn), part < 8 → (s.wafer part).ptnIn slot = some q →
        ∃ t p, exec (.completionBlockWrite part slot w.toNat) s = .next t ∧ (t.wafer part).ptnIn slot = some p
          ∧ p.comp.roots = (w.extractLsb' 0 8).toNat ∧ p.comp.dsem = (w.extractLsb' 8 4).toNat ∧ p.comp.inc = false ∧ p.comp.pcnt = 0
          ∧ p.comp.done = q.comp.done ∧ t.cores = s.cores

namespace Sys2Proof.Spec
open Sys2Proof.Machine

/-- R351: the commands behind one that has ended: the next is at the head of the queue from now on. -/
def goOn (now : Nat) : List BulkCmd → List BulkCmd
  | m :: ms => { m with started := now } :: ms
  | [] => []

/-- R353: a local position of a ring, from the beats that have been read; one with a poisoned beat has failed, and BSUM enters by R103. -/
def LocalPosition (r : RingRec) (n : Nat) (f : Flit) : Prop :=
  let beat (j : Nat) : Option (Nat × BitVec 256 × Bool) := r.took.find? fun b => b.1 == j
  (∀ d bad, r.comb ≠ 2 → beat n = some (n, d, bad) → f = if bad then .fail r.comb else if r.comb = 1 then .laneI d 0 else .laneF d 0)
    ∧ ∀ d e bad bad', r.comb = 2 → beat (2 * n) = some (2 * n, d, bad) → beat (2 * n + 1) = some (2 * n + 1, e, bad') →
        let b := Num.Wb.ofSbf (codeW r.fmt) (Num.Sbf.ofImage (codeW r.fmt) (e ++ d : BitVec 512).toNat)
        f = if bad || bad' then .fail 2 else .block b.x (b.q.take 8) b false

/-- R336, R353: combine(arriving, local); a failed position fails the sum. -/
def RingSum (r : RingRec) (self : Nat) (a b f : Flit) : Prop :=
  (∀ k, a = .fail k → f = .fail k) ∧ ((∀ k, a ≠ .fail k) → ∀ k, b = .fail k → f = .fail k)
    ∧ ((∀ k, a ≠ .fail k ∧ b ≠ .fail k) → ∃ own, Combines (if r.comb = 0 then 2 else if r.comb = 1 then 3 else 1) self [a, b] f own)

/-- R100, R346, R353: the bytes that a position leaves a ring with, and whether they are written poisoned. -/
def RingExit (r : RingRec) (self : Nat) (f : Flit) (data : List Byte) (bad : Bool) : Prop :=
  (∀ d g, f = .laneF d g ∨ f = .laneI d g → data = leBytes d.toNat 32 ∧ bad = false)
    ∧ (∀ x q wb rn, f = .block x q wb rn → bad = false
        ∧ ∃ rnd, data = leBytes ((Num.toSbf (codeW r.fmt) r.rc rnd self wb.vals).1.image (codeW r.fmt)) 64)
    ∧ ∀ k, f = .fail k → bad = true ∧ data = if r.comb = 1 then List.replicate 32 0
        else if r.comb = 0 then (List.replicate 8 (leBytes (Num.poisonCode Num.F32 self) 4)).flatten
        else leBytes (self + 255 * 2^496) 64

/-- R281: the beats of a chunk that leaves a ring. -/
def RingBeats (r : RingRec) (self : Nat) (fs : List Flit) (bs : List (List Byte × Bool)) : Prop :=
  ∃ ps : List (List Byte × Bool), ps.length = fs.length
    ∧ (∀ (n : Nat) (p : List Byte × Bool), ps[n]? = some p → ∃ f : Flit, fs[n]? = some f ∧ RingExit r self f p.1 p.2)
    ∧ bs = ps.flatMap fun (p : List Byte × Bool) => if p.1.length ≤ 32 then [p] else [(p.1.take 32, p.2), (p.1.drop 32, p.2)]

end Sys2Proof.Spec

/-- R348, R349: a bulk command whose fields, addresses and ranges are in order enters the store queue, and from its head the engine's queue; lengths
and pitches that are no multiple of 32, a length above 512 KiB and, with `.B`, a count of receivers outside 1 to 245,760 trap ILL_FIELD, overlapping
ranges BULK_OVERLAP, a failing address as every access. R281, R348 to R351: a beat of the engine's oldest command copies 32 bytes from one vault to
another, reading and then writing them, or fills 32 with the doubleword, and touches no other byte; with `.FE` the words become FULL; what was read
poisoned is written poisoned, and is the command's fault if it is the first; the last beat ends the command, increments its semaphore and sets event
bit 2 there. With `.B` a core writes each addressed beat that has reached it, or tells the command that its vault cannot be reached, acknowledges the
bulk end flit after them, and the command ends with its last acknowledgement, or at its watchdog with a fault. R352, R353: GO starts a sequencer whose
record is in order, and sets INC of one that is not; it reads a local chunk beat by beat, and sends its own on; a chunk that arrives in a reduction it
combines with its own, and sends on, or at the last of these steps writes; one that arrives in a gather it writes and, but for the last, sends on; a
poisoned or failed position is written poisoned, its origin the lead core (log 129), and sets INC; a sequencer without progress for 15,000,000 cycles
has failed and drops what has arrived, and once its chunks are written ends with INC set and a record, keeping what has arrived since (log 98). The
beats' order is free, each a step (log 22); the order of the checks, TVAL of that ILL_FIELD, from when the watchdog counts, that acknowledgements name
their command, the first chunk of a lone all-gather, and a beat whose vault cannot be reached are the model's readings (logs 18, 38, 39, 40, 42 and
99). -/
def Obligations.BulkAndRingResult : Prop :=
  ((∀ (s : State) (d a b c : BitVec 5) (bc fe sv : Bool) (sem : BitVec 4) (vs : BitVec 6),
     let dst := s.ctx.getX d
     let src := s.ctx.getX a
     let len := s.ctx.getX b
     let p := s.ctx.getX c
     let small : Prop := len.toNat % 32 = 0 ∧ len.toNat ≤ 0x80000 ∧ (bc = true → 1 ≤ p.toNat ∧ p.toNat ≤ 245760)
     let shape : Prop := len.toNat % 65536 % 32 = 0 ∧ p.toNat % 32 = 0 ∧ p.toNat / 2^32 % 32 = 0
     let okDst (kind : Nat) : Prop := s.bulkCheck (bc && s.ctx.priv) bc true dst (bulkRows kind dst len p true) = none
     let okRow (r : List (Word × Nat)) (e : Word) (store : Bool) : Prop := s.bulkCheck false false store e r = none
     let nearFe : Prop := fe = true ∧ dst.extractLsb' 60 4 = 0#4
     (small → okDst 0 → ¬nearFe → okRow (bulkRows 0 src len p false) src false →
         (if bc then s.bcOverlap s.cur.1 vs.toNat dst src len else s.bulkOverlap s.cur.1 (bulkRows 0 src len p false) (bulkRows 0 dst len p true)) = false →
         Queues (.bcopy d a b bc fe c sem sv vs) s 8 false)
       ∧ (small → okDst 1 → ¬nearFe → Queues (.bfill d a b bc fe c sem sv vs) s 8 false)
       ∧ (shape → okRow (bulkRows 2 dst len p true) dst true → okRow (bulkRows 2 src len p false) src false →
         s.bulkOverlap s.cur.1 (bulkRows 2 src len p false) (bulkRows 2 dst len p true) = false → Queues (.bstride d a b fe c sem sv) s 8 false)
       ∧ (¬small → Traps (.bcopy d a b bc fe c sem sv vs) s 0x004 (illTval (.bcopy d a b bc fe c sem sv vs))
           ∧ Traps (.bfill d a b bc fe c sem sv vs) s 0x004 (illTval (.bfill d a b bc fe c sem sv vs)))
       ∧ (¬shape → Traps (.bstride d a b fe c sem sv) s 0x004 (illTval (.bstride d a b fe c sem sv)))
       ∧ (small → okDst 0 → ¬nearFe → okRow (bulkRows 0 src len p false) src false →
         (if bc then s.bcOverlap s.cur.1 vs.toNat dst src len else s.bulkOverlap s.cur.1 (bulkRows 0 src len p false) (bulkRows 0 dst len p true)) = true →
         Traps (.bcopy d a b bc fe c sem sv vs) s 0x128 0)
       ∧ (shape → okRow (bulkRows 2 dst len p true) dst true → okRow (bulkRows 2 src len p false) src false →
         s.bulkOverlap s.cur.1 (bulkRows 2 src len p false) (bulkRows 2 dst len p true) = true → Traps (.bstride d a b fe c sem sv) s 0x128 0)
       ∧ (small → okDst 0 → nearFe → Traps (.bcopy d a b bc fe c sem sv vs) s 0x004 (illTval (.bcopy d a b bc fe c sem sv vs))
           ∧ Traps (.bfill d a b bc fe c sem sv vs) s 0x004 (illTval (.bfill d a b bc fe c sem sv vs)))
       ∧ (∀ n ea, small → s.bulkCheck (bc && s.ctx.priv) bc true dst (bulkRows 0 dst len p true) = some (n, ea) →
         Traps (.bcopy d a b bc fe c sem sv vs) s (0x080 + 4 * n) ea ∧ Traps (.bfill d a b bc fe c sem sv vs) s (0x080 + 4 * n) ea)
       ∧ (∀ n ea, small → okDst 0 → ¬nearFe → s.bulkCheck false false false src (bulkRows 0 src len p false) = some (n, ea) →
         Traps (.bcopy d a b bc fe c sem sv vs) s (0x080 + 4 * n) ea)
       ∧ (∀ n ea, shape → s.bulkCheck false false true dst (bulkRows 2 dst len p true) = some (n, ea) →
         Traps (.bstride d a b fe c sem sv) s (0x080 + 4 * n) ea)
       ∧ (∀ n ea, shape → okRow (bulkRows 2 dst len p true) dst true → s.bulkCheck false false false src (bulkRows 2 src len p false) = some (n, ea) →
         Traps (.bstride d a b fe c sem sv) s (0x080 + 4 * n) ea))
   ∧ ∀ (s : State) (c : CoreId) (k : Fin 4) (e : Entry) (es : List Entry) (d a b cc : BitVec 5) (bc fe sv : Bool) (sem : BitVec 4) (vs : BitVec 6),
       AtHead s c k e es → (s.core c).bulk.length < 8 →
       let x := e.snap
       let starts (kind : Nat) : Prop := Ends c k e es s id (fun y => { y with bulk := (s.core c).bulk }) fun t =>
         ∃ m, (t.core c).bulk = (s.core c).bulk ++ [m] ∧ m.kind = kind ∧ m.dst = x.getX d ∧ m.src = x.getX a ∧ m.len = x.getX b ∧ m.pitches = x.getX cc
           ∧ m.fe = fe ∧ m.sem = sem ∧ m.sv = sv ∧ m.strand = k ∧ m.done = []
       (e.instr = .bcopy d a b bc fe cc sem sv vs → starts 0) ∧ (e.instr = .bfill d a b bc fe cc sem sv vs → starts 1)
         ∧ (e.instr = .bstride d a b fe cc sem sv → starts 2))
  ∧ ((∀ (s : State) (c : CoreId) (m : BulkCmd) (ms : List BulkCmd) (n : Nat), (s.core c).bulk = m :: ms → m.bc = false → n < m.beats → n ∉ m.done →
         let begun := m.inside.find? fun b => b.n == n
         (∀ h o, m.kind ≠ 1 → begun = none → s.frozen c = false → s.localPending c m = false → s.answers c h = false → m.done.length < m.beats →
           s.place c (m.at_ n false) = .vault h o → s.stops c h = none → s.moving h = false →
           (∀ q, s.ptnOf c = some q → (s.wafer (cPart c)).ptnIn q.slot = some q) →
           let bad := (s.core h).poisonedIn o 32
           ∃ t, exec (.bulkExecute c n) s = .next t ∧ { t with cores := s.cores } = s ∧ (∀ f, f ≠ c → t.core f = s.core f)
             ∧ { t.core c with bulk := (s.core c).bulk } = s.core c
             ∧ (t.core c).bulk = { m with inside := ⟨n, BitVec.ofNat 256 ((s.core h).vault.le o 32), bad,
                 if bad then some (9, m.at_ n false) else none⟩ :: m.inside } :: ms)
         ∧ ∀ g p, s.memOk = true → s.parks = [] → s.place c (m.at_ n true) = .vault g p → s.stops c g = none → s.moving g = false → s.answers c g = false →
           let writes (data : BitVec 256) (bad : Bool) (fault : Option (Nat × Word)) : Prop := ∃ t, exec (.bulkExecute c n) s = .next t
             ∧ (∀ f q, (t.core f).vault.read q = if f = g ∧ p ≤ q ∧ q < p + 32 then (data >>> (8 * (q - p))).setWidth 8 else (s.core f).vault.read q)
             ∧ (∀ f w, (t.core f).full (8 * w) = ((s.core f).full (8 * w) || (m.fe && f == g && (p / 8 ≤ w && 8 * w < p + 32))))
             ∧ (p % 32 = 0 → ∀ f blk, blk ∈ (t.core f).poison ↔ if f = g ∧ blk = p / 32 then bad = true else blk ∈ (s.core f).poison)
             ∧ (∀ f q, (t.core f).near.read q = (s.core f).near.read q) ∧ (∀ f u, (t.strand f u).ctx = (s.strand f u).ctx)
             ∧ (m.done.length + 1 < m.beats → (t.core c).bulk.length = ms.length + 1 ∧ ∃ y, (t.core c).bulk.head? = some y ∧ y.kind = m.kind
                 ∧ y.fault = m.fault.or fault ∧ (∀ q, q ∈ y.done ↔ q ∈ m.done ∨ q = n) ∧ ∀ b, b ∈ y.inside ↔ b ∈ m.inside ∧ b.n ≠ n)
             ∧ (m.done.length + 1 = m.beats → m.fault.or fault = none → (t.core c).bulk = goOn (s.timerStart c) ms
                 ∧ (m.sv = false → ∀ h, (t.core h).sems = (s.core h).sems)
                 ∧ ∀ h o, m.sv = true → s.place c m.dst = .vault h o → (s.core h).saved = false → (vget (s.core h).sems m.sem.toNat).toNat < 2^32 - 1 →
                     vget (t.core h).sems m.sem.toNat = vget (s.core h).sems m.sem.toNat + 1 ∧ ∀ u, (t.strand h u).evpend = (s.strand h u).evpend ||| 4)
           (∀ data : BitVec 256, m.kind = 1 → begun = none → s.frozen c = false → (∀ j < 4, data.extractLsb' (64 * j) 64 = m.src) → writes data false none)
             ∧ ∀ b, begun = some b → (b.bad = false → b.fault = none → writes b.data false none)
               ∧ ∀ ea, b.bad = true → b.fault = some (9, ea) → writes b.data true (some (0x0A4, ea)))
     ∧ (∀ (s : State) (c : CoreId) (n : Nat) (data : BitVec 256) (off : Nat) (near fe bad : Bool) (src : CoreId) (cmd : Nat), s.memOk = true → s.parks = [] →
         (s.core c).addrq[n]? = some (.addressed data off near fe bad src cmd) → s.frozen c = false →
         (near = false → s.moving c = false ∧ s.stops c c = none) →
         ∃ t, exec (.addressedBeat c n) s = .next t ∧ (t.core c).addrq = (s.core c).addrq.eraseIdx n ∧ (∀ d, d ≠ c → t.core d = s.core d)
           ∧ (∀ q, (t.core c).near.read q = if near = true ∧ off ≤ q ∧ q < off + 32 then (data >>> (8 * (q - off))).setWidth 8 else (s.core c).near.read q)
           ∧ (∀ w, (t.core c).full (8 * w) = ((s.core c).full (8 * w) || (fe && !near && (off / 8 ≤ w && 8 * w < off + 32))))
           ∧ (off % 32 = 0 → ∀ blk, blk ∈ (t.core c).poison ↔ if near = false ∧ blk = off / 32 then bad = true else blk ∈ (s.core c).poison)
           ∧ ∀ q, (t.core c).vault.read q = if near = false ∧ off ≤ q ∧ q < off + 32 then (data >>> (8 * (q - off))).setWidth 8 else (s.core c).vault.read q)
     ∧ (∀ (s : State) (c : CoreId) (n : Nat) (data : BitVec 256) (off : Nat) (fe bad : Bool) (src : CoreId) (cmd : Nat),
         (s.core c).addrq[n]? = some (.addressed data off false fe bad src cmd) → s.frozen c = false → s.moving c = false → (s.stops c c).isSome = true →
         ∃ t, exec (.addressedBeat c n) s = .next t ∧ (t.core c).addrq = (s.core c).addrq.eraseIdx n
           ∧ (∀ d, (t.core d).vault = (s.core d).vault ∧ (t.core d).near = (s.core d).near)
           ∧ ∀ (j : Nat) (m : BulkCmd), (s.core src).bulk[j]? = some m → ∃ y, (t.core src).bulk[j]? = some y
             ∧ if m.bc = true ∧ m.seq = cmd ∧ m.fault = none then ∃ ea, y = { m with fault := some (0x0A8, ea) } else y = m)
     ∧ (∀ (s : State) (c : CoreId) (n : Nat) (sem : BitVec 4) (sv : Bool) (src : CoreId) (cmd : Nat), (s.core c).addrq[n]? = some (.bulkEnd sem sv src cmd) →
         (∀ f ∈ (s.core c).addrq.take n, ∃ sem sv src cmd, f = .bulkEnd sem sv src cmd) → s.frozen c = false →
         ∃ t, exec (.bulkEndFlit c n) s = .next t ∧ (t.core c).addrq = (s.core c).addrq.eraseIdx n
           ∧ t.bulkAcks = s.bulkAcks ++ [⟨s.ids, src, cmd, c⟩] ∧ (∀ d, d ≠ c → t.core d = s.core d)
           ∧ (sv = true → (s.core c).saved = false → (vget (s.core c).sems sem.toNat).toNat < 2^32 - 1 →
               vget (t.core c).sems sem.toNat = vget (s.core c).sems sem.toNat + 1))
     ∧ (∀ (s : State) (a : BulkAck) (m : BulkCmd) (ms : List BulkCmd), s.bulkAcks.find? (fun x => x.id == a.id && x.core == a.core) = some a →
         (s.core a.core).bulk = m :: ms → m.seq = a.cmd → m.bc = true → s.frozen a.core = false → s.owes a.core a.origin a.id = false →
         ∃ t, exec (.bulkAck a.core a.id) s = .next t ∧ t.bulkAcks = s.bulkAcks.filter (fun x => x.id ≠ a.id)
           ∧ (m.ended = true → m.count ≤ m.acks + 1 → (t.core a.core).bulk = goOn s.now ms)
           ∧ (m.acks + 1 < m.count → ∃ y, (t.core a.core).bulk = y :: ms ∧ y.acks = m.acks + 1 ∧ y.seq = m.seq))
     ∧ ∀ (s : State) (c : CoreId) (m : BulkCmd) (ms : List BulkCmd), (s.core c).bulk = m :: ms → m.bc = true → s.frozen c = false →
         m.started + 1500 * (s.stream c m.vs.toNat).wdog ≤ s.now → (s.strand c m.strand).st = .ready → (s.strand c m.strand).born ≤ m.seq →
         ∃ t f, exec (.bulkWatchdog c) s = .next t ∧ (t.core c).bulk = goOn s.now ms ∧ (t.strand c m.strand).faults = (s.strand c m.strand).faults ++ [f]
           ∧ f.seq = m.seq ∧ f.base = 0x120 ∧ f.addr = m.dst ∧ f.cmd = true)
    ∧ ∀ (s : State) (p slot k : Nat) (q : Ptn), p < 8 → (s.wafer p).ptnIn slot = some q →
        let lead := leadCore p q
        let r := q.ringRec k
        let ring (t : State) (P : RingRec → Prop) : Prop := ∃ q', (t.wafer p).ptnIn slot = some q' ∧ P (q'.ringRec k)
        ((s.wafer p).hasRing q k = true → r.run = false → s.ringBad lead r = false → ∃ t, exec (.ringGo p slot k 1) s = .next t ∧ t.cores = s.cores
            ∧ ring t fun r' => r'.run = true ∧ r'.inc = false ∧ r'.step = 0 ∧ (s.frozen lead = false → r'.since = s.now) ∧ r'.w0 = r.w0 ∧ r'.buf = r.buf ∧ r'.chunk = r.chunk)
          ∧ ((s.wafer p).hasRing q k = true → r.run = false → s.ringBad lead r = true → ∃ t, exec (.ringGo p slot k 1) s = .next t ∧ t.cores = s.cores
            ∧ ring t fun r' => r'.run = false ∧ r'.inc = true)
          ∧ ((s.wafer p).hasRing q k = true → r.run = true → exec (.ringGo p slot k 1) s = .next s)
          ∧ (∀ h o p' slot', r.run = true → s.frozen lead = false → s.ringBuf lead r = some (h, o) → s.ringNext p k q = some (p', slot') →
            r.out = none → r.fail = false → s.moving h = false →
            let self := s.coord lead
            let np := r.np
            let unit := if r.comb = 2 then 64 else 32
            let total := if r.rop = 2 then 2 * np - 1 else np
            let unread := (List.range (r.chunk / 32)).filter fun n => ∀ b ∈ r.took, b.1 ≠ n
            let locals (fs : List Flit) : Prop := fs.length = r.chunk / unit ∧ ∀ (n : Nat) (f : Flit), fs[n]? = some f → LocalPosition r n f
            let own := if r.rop = 1 then (r.rank + 1) % np else r.rank
            let takes (c : Nat) : Prop := (r.step = 0 ∧ c = own) ∨ (r.step ≠ 0 ∧ r.rop ≠ 1 ∧ r.step + 1 ≤ np ∧ ∃ fs, r.inbox.head? = some (c, fs))
            let sent (t : State) (c : Nat) (fs : List Flit) : Prop := ∀ q2, (s.wafer p').ptnIn slot' = some q2 →
              ∃ q', (t.wafer p').ptnIn slot' = some q' ∧ (q'.ringRec k).inbox = (q2.ringRec k).inbox ++ [(c, fs)]
            let step (P : State → RingRec → Prop) : Prop := ∃ t, exec (.ringStep p slot k) s = .next t ∧ t.cores = s.cores ∧ ring t (P t)
            r.step < total → p' < 8 → p' ≠ p →
            (∀ c, takes c → unread ≠ [] → s.stops lead h = none → ∃ n ∈ unread, step fun _ r' => let at_ := o + c * r.chunk + 32 * n
              r'.took = (n, BitVec.ofNat 256 ((s.core h).vault.le at_ 32), (s.core h).poisonedIn at_ 32) :: r.took
                ∧ r'.step = r.step ∧ r'.inbox = r.inbox ∧ r'.out = none ∧ r'.run = true)
            ∧ (r.step = 0 → unread = [] → ∃ fs, locals fs ∧ step fun t r' => sent t own fs ∧ r'.step = 1 ∧ r'.took = [] ∧ r'.run = true)
            ∧ (∀ (c : Nat) (fs : List Flit) (rest : List (Nat × List Flit)), r.step ≠ 0 → r.rop ≠ 1 → r.step + 1 ≤ np → r.inbox = (c, fs) :: rest → unread = [] → fs.length = r.chunk / unit → fs ≠ [] →
              ∃ loc sum : List Flit, locals loc ∧ sum.length = fs.length
                ∧ (∀ (n : Nat) (a b : Flit), fs[n]? = some a → loc[n]? = some b → ∃ f : Flit, sum[n]? = some f ∧ RingSum r self a b f)
                ∧ step fun t r' => r'.step = r.step + 1 ∧ r'.took = [] ∧ r'.inbox = rest ∧ r'.run = true
                  ∧ if r.step + 1 < np then sent t c sum ∧ r'.out = none ∧ r'.inc = r.inc
                    else r'.inc = (r.inc || sum.any fun f => match f with | .fail _ => true | _ => false)
                      ∧ (∃ bs, r'.out = some (c, bs) ∧ RingBeats r self sum bs)
                      ∧ (r.rop = 2 → ∃ out : List Flit, sent t c out ∧ out.length = sum.length
                        ∧ ∀ (n : Nat) (f : Flit), sum[n]? = some f → (∀ d g, r.comb = 0 → f = .laneF d g → out[n]? = some (.laneF d 0))
                          ∧ (∀ d g, r.comb = 1 → f = .laneI d g → out[n]? = some (.laneI d 0)) ∧ ∀ j, f = .fail j → out[n]? = some (.fail r.comb)))
            ∧ (∀ (c : Nat) (fs : List Flit) (rest : List (Nat × List Flit)), r.step ≠ 0 → r.rop = 1 ∨ np < r.step + 1 → r.inbox = (c, fs) :: rest → fs ≠ [] →
              step fun t r' => r'.step = r.step + 1 ∧ r'.inbox = rest ∧ r'.run = true ∧ r'.inc = r.inc
                ∧ (r.step + 1 < total → sent t c fs) ∧ ∃ bs, r'.out = some (c, bs) ∧ RingBeats r self fs bs))
          ∧ (∀ h o c bs, r.run = true → s.frozen lead = false → s.ringBuf lead r = some (h, o) → s.moving h = false → r.out = some (c, bs) →
            s.stops lead h = none → s.memOk = true → s.parks = [] → (∀ b ∈ bs, b.1.length = 32) → (o + c * r.chunk) % 32 = 0 →
            let left := (List.range bs.length).filter fun n => n ∉ r.wrote
            left ≠ [] → ∃ n ∈ left, ∃ t, exec (.ringStep p slot k) s = .next t ∧ (∀ d, d ≠ h → t.core d = s.core d)
              ∧ (∀ j, let at_ := o + c * r.chunk + 32 * n
                  (t.core h).vault.read j = if at_ ≤ j ∧ j < at_ + 32 then (bs.getD n ([], false)).1.getD (j - at_) 0 else (s.core h).vault.read j)
              ∧ (∀ blk, blk ∈ (t.core h).poison ↔ if blk = (o + c * r.chunk) / 32 + n then (bs.getD n ([], false)).2 = true else blk ∈ (s.core h).poison)
              ∧ ring t fun r' => r'.run = true ∧ r'.inc = r.inc ∧ r'.step = r.step
                  ∧ if left.length = 1 then r'.out = none ∧ r'.wrote = [] ∧ r'.final = c :: r.final
                    else r'.out = r.out ∧ r'.wrote = n :: r.wrote ∧ r'.final = r.final)
          ∧ (r.run = true → r.fail = false → s.frozen lead = false → r.since + 15000000 ≤ s.now →
            ∃ t, exec (.ringStall p slot k) s = .next t ∧ t.cores = s.cores
              ∧ ring t fun r' => r'.run = true ∧ r'.fail = true ∧ r'.out = none ∧ r'.inbox = [])
          ∧ (∀ h o, r.run = true → s.frozen lead = false → s.ringBuf lead r = some (h, o) → s.moving h = false → r.out = none → r.fail = true →
            (∀ c ∈ r.results, c ∈ r.final) →
            ∃ t, exec (.ringStep p slot k) s = .next t ∧ t.cores = s.cores ∧ Recorded s t p 0x137
              ∧ (ring t fun r' => r'.run = false ∧ r'.inc = true ∧ r'.inbox = r.inbox)
              ∧ t.semq = s.semq ++ if r.sv then [(h, r.sem)] else [])

/-! ## Far memory (R356 to R383) -/

namespace Sys2Proof.Spec
open Sys2Proof.Machine

/-- R360: a field of a parameter block, and a word of it. -/
def spbBits (b : BitVec 512) (w lo n : Nat) : Nat := (b.extractLsb' (64 * w + lo) n).toNat
def spbAt (b : BitVec 512) (w : Nat) : Word := b.extractLsb' (64 * w) 64

/-- R361, row 1: a reserved field, or a field that the command of that kind (FMGET 0, FMPUT 1, FMGATH 2, FMSCAT 3) does not have, or one outside its
range. -/
def SpbReserved (kind : Nat) (b : BitVec 512) : Prop :=
  let depth := spbBits b 7 12 2
  let size := spbBits b 7 8 3
  let fe := b.getLsbD 453 = true
  spbBits b 2 48 16 ≠ 0 ∨ spbBits b 7 7 1 ≠ 0 ∨ spbBits b 7 14 2 ≠ 0 ∨ spbBits b 7 25 39 ≠ 0
    ∨ (2 ≤ kind ∧ (spbBits b 2 32 16 ≠ 0 ∨ size < 2 ∨ 6 < size ∨ depth = 3 ∨ (fe ∧ (kind = 3 ∨ size < 3))
        ∨ (depth < 1 ∧ spbAt b 5 ≠ 0) ∨ (depth < 2 ∧ spbAt b 6 ≠ 0)))
    ∨ (kind < 2 ∧ (size ≠ 0 ∨ spbBits b 7 11 1 ≠ 0 ∨ depth ≠ 0 ∨ spbAt b 4 ≠ 0 ∨ spbAt b 5 ≠ 0 ∨ spbAt b 6 ≠ 0 ∨ (fe ∧ kind = 1)))

/-- R360, R361, row 3: the address is in FAR form, under PHYS in the physical one. -/
def FarForm (b : BitVec 512) (a : Word) : Prop :=
  a.extractLsb' 60 4 = 4 ∧ if b.getLsbD 470 then a.extractLsb' 52 8 = 0 else a.extractLsb' 48 12 = 0

/-- R361, row 4: an address, a pitch or a length is not the multiple it must be. -/
def SpbMisaligned (kind : Nat) (b : BitVec 512) : Prop :=
  let off (w n : Nat) : Prop := (spbAt b w).toNat % n ≠ 0
  let iw := if b.getLsbD 459 then 8 else 4
  if kind < 2 then off 0 64 ∨ spbBits b 3 0 32 % 64 ≠ 0 ∨ spbBits b 2 0 32 % 64 ≠ 0 ∨ off 1 32 ∨ spbBits b 3 32 32 % 32 ≠ 0
  else off 0 (2^spbBits b 7 8 3) ∨ off 1 32 ∨ off 4 iw ∨ off 5 iw ∨ off 6 iw

/-- R361, row 5: the runs of bytes of the vault side, then the index list, none of them empty. -/
def spbRows (kind : Nat) (b : BitVec 512) : List (Word × Nat) :=
  let n := spbBits b 2 0 32
  (if kind < 2 then (List.range (spbBits b 2 32 16)).map fun r => (spbAt b 1 + BitVec.ofNat 64 r * (b.extractLsb' 224 32).signExtend 64, n)
    else [(spbAt b 1, n * 2^spbBits b 7 8 3), (spbAt b 4, n * if b.getLsbD 459 then 8 else 4)]).filter fun r => r.2 ≠ 0

/-- R361, row 8: a far row passes the end of the address space. -/
def SpbRange (kind : Nat) (b : BitVec 512) : Prop :=
  kind < 2 ∧ spbBits b 2 0 32 ≠ 0 ∧ ∃ r < spbBits b 2 32 16,
    let a : Int := (spbBits b 0 0 52 : Int) + (r : Int) * (b.extractLsb' 192 32).toInt
    a < 0 ∨ ((if b.getLsbD 470 then 2^52 else 2^48 : Nat) : Int) < a + (spbBits b 2 0 32 : Nat)

/-- R361: the block b at address ea passes the checks but for those from row `n` on (so all nine for n = 10). -/
def SpbPasses (s : State) (c : CoreId) (k : Fin 4) (x : Ctx) (kind : Nat) (b : BitVec 512) (n : Nat) : Prop :=
  let depth := spbBits b 7 12 2
  let straits := match s.ptnOf c with | some q => 4 * q.count | none => 0
  (1 < n → ¬SpbReserved kind b)
    ∧ (2 < n → ¬(b.getLsbD 470 = true ∧ x.priv = false))
    ∧ (3 < n → FarForm b (spbAt b 0) ∧ (1 ≤ depth → FarForm b (spbAt b 5)) ∧ (2 ≤ depth → FarForm b (spbAt b 6)))
    ∧ (4 < n → ¬SpbMisaligned kind b)
    ∧ (5 < n → ∀ r ∈ spbRows kind b, s.check c x.priv accQuay r.1 r.2 1 true = none)
    ∧ (6 < n → ∀ r ∈ spbRows kind b, ∀ h off, s.place c r.1 = .vault h off → cPart h = cPart c)
    ∧ (7 < n → spbBits b 7 16 6 < straits)
    ∧ (8 < n → ¬SpbRange kind b)
    ∧ (9 < n → (s.strand c k).fpbc + (if kind = 1 then spbBits b 2 0 32 * spbBits b 2 32 16
        else if kind = 3 then spbBits b 2 0 32 * 2^spbBits b 7 8 3 else 0) < 2^56)

/-- R361: the first row it fails is row n, and this is the row's cause and TVAL. -/
def SpbFails (s : State) (c : CoreId) (k : Fin 4) (x : Ctx) (kind : Nat) (b : BitVec 512) (ea : Word) (n cause : Nat) (tval : Word) : Prop :=
  SpbPasses s c k x kind b n ∧ ¬SpbPasses s c k x kind b (n + 1)
    ∧ ((n ∈ [1, 3, 4] ∧ cause = 0x140 ∧ tval = ea) ∨ (n = 2 ∧ cause = 0x084 ∧ tval = ea) ∨ (n = 6 ∧ cause = 0x098 ∧ tval = ea)
      ∨ (n = 7 ∧ cause = 0x144 ∧ tval = ea) ∨ (n = 8 ∧ cause = 0x148 ∧ tval = ea) ∨ (n = 9 ∧ cause = 0x0AC ∧ tval = 1)
      ∨ (n = 5 ∧ ∃ before r after m, spbRows kind b = before ++ r :: after ∧ (∀ q ∈ before, s.check c x.priv accQuay q.1 q.2 1 true = none)
          ∧ s.check c x.priv accQuay r.1 r.2 1 true = some m ∧ cause = 0x080 + 4 * m
          ∧ tval = if m = 3 then r.1 + BitVec.ofNat 64 (0x10000 - r.1.toNat % 2^16)
              else if m = 4 then r.1 + BitVec.ofNat 64 (0x80000 - r.1.toNat % 2^19) else r.1))

end Sys2Proof.Spec

/-- R358 to R361, R365, R382, R383: an FM instruction whose SPB address is in order enters the store queue and holds its strand, and VFLIP of whole
pages enters it; others trap. At the head an FM instruction reads its SPB, at once from the near store, and where the SPB is in order its command asks
for a credit and the strand goes on, with no register changed; where it is not the instruction traps. The oldest command that asks gets a credit
while the strait has one, and a VFLIP while every strait of the partition has: it leaves the store queue, and its bytes are counted in FPBC. R385:
where its core has stopped for a hold, the entry leaves the queue, its bytes counted from then on, and the command goes on waiting at the strait,
which counts them no second time when it lets it in. -/
def Obligations.FarIssues : Prop :=
  (∀ (s : State) (a b : BitVec 5) (o : BitVec 16) (sem : BitVec 4) (sv : Bool) (i : Instr),
    let ea := s.ctx.getX a + (o.signExtend 64 <<< 6)
    let fm : Prop := i = .fmget a o ∨ i = .fmput a o ∨ i = .fmgath a o ∨ i = .fmscat a o
    let flip : Instr := .vflip a b sem sv
    let x := s.ctx.getX a
    let len := (s.ctx.getX b).toNat
    (fm → s.check s.cur.1 s.ctx.priv accLd ea 64 64 true = none → (∀ h off, s.place s.cur.1 ea = .vault h off → cPart h = cPart s.cur.1) → Queues i s 8 true)
      ∧ (∀ n, fm → s.check s.cur.1 s.ctx.priv accLd ea 64 64 true = some n → Traps i s (0x080 + 4 * n) ea)
      ∧ (x.extractLsb' 60 4 = 4 → x.extractLsb' 48 12 = 0 → x.extractLsb' 0 16 = 0 → len % 65536 = 0 → (x.extractLsb' 0 48).toNat + len ≤ 2^48 →
          Queues flip s 8 false)
      ∧ (x.extractLsb' 60 4 ≠ 4 → Traps flip s 0x080 x)
      ∧ (x.extractLsb' 60 4 = 4 → x.extractLsb' 48 12 ≠ 0 → Traps flip s 0x088 x)
      ∧ (x.extractLsb' 60 4 = 4 → x.extractLsb' 48 12 = 0 → x.extractLsb' 0 16 ≠ 0 ∨ len % 65536 ≠ 0 → Traps flip s 0x094 x)
      ∧ (x.extractLsb' 60 4 = 4 → x.extractLsb' 48 12 = 0 → x.extractLsb' 0 16 = 0 → len % 65536 = 0 → 2^48 < (x.extractLsb' 0 48).toNat + len →
          Traps flip s 0x148 0))
  ∧ (∀ (s : State) (c : CoreId) (k : Fin 4) (e : Entry) (es : List Entry) (a b : BitVec 5) (o : BitVec 16) (sem : BitVec 4) (sv : Bool) (kind : Nat),
      AtHead s c k e es → e.phase = 0 →
      let ea := e.snap.getX a + (o.signExtend 64 <<< 6)
      let fm : Prop := (kind, e.instr) ∈ [(0, Instr.fmget a o), (1, .fmput a o), (2, .fmgath a o), (3, .fmscat a o)]
      let asks (t : State) (b : BitVec 512) (kind : Nat) : Prop := ∃ m, t.fars = s.fars ++ [m] ∧ m.id = s.ids ∧ m.core = c ∧ m.strand = k ∧ m.seq = e.seq
        ∧ m.kind = kind ∧ m.spb = b ∧ m.stage = .credit ∧ m.done = [] ∧ m.fault = none
      (∀ off, fm → s.place c ea = .near off → (s.core c).nearUe = [] →
        let spb := BitVec.ofNat 512 ((s.core c).near.le off 64)
        (SpbPasses s c k e.snap kind spb 10 → ∃ t, exec (.storeQueueRelease c k.1) s = .next t ∧ asks t spb kind
          ∧ (t.strand c k).ctx = (s.strand c k).ctx ∧ ((s.strand c k).hold = some e.seq → (t.strand c k).hold = none)
          ∧ ∃ y, (t.strand c k).sq = y :: es ∧ y.instr = e.instr ∧ y.phase = 2)
        ∧ (∀ n cause v, SpbFails s c k e.snap kind spb ea n cause v → ∃ t, exec (.storeQueueRelease c k.1) s = .next t ∧ t.fars = s.fars
          ∧ TrapsAt e.snap (t.strand c k).ctx cause v))
      ∧ (∀ h off, fm → s.place c ea = .vault h off → ∃ t q r, exec (.storeQueueRelease c k.1) s = .next t ∧ t.net = s.net ++ [q, r]
          ∧ Asks c k e.seq h off 32 .load true q ∧ Asks c k e.seq h (off + 32) 32 .load true r ∧ (t.strand c k).ctx = (s.strand c k).ctx)
      ∧ (e.instr = .vflip a b sem sv → ∃ t m, exec (.storeQueueRelease c k.1) s = .next t ∧ t.fars = s.fars ++ [m] ∧ m.kind = 4 ∧ m.stage = .credit
          ∧ m.spb.extractLsb' 0 64 = e.snap.getX a ∧ m.spb.extractLsb' 64 64 = e.snap.getX b ∧ m.spb.extractLsb' 448 4 = sem ∧ m.spb.getLsbD 452 = sv
          ∧ (t.strand c k).ctx = (s.strand c k).ctx))
  ∧ (∀ (s : State) (c : CoreId) (k : Fin 4) (e : Entry) (es : List Entry) (a b : BitVec 5) (o : BitVec 16) (sem : BitVec 4) (sv : Bool),
      AtHead s c k e es → s.halted c k = true →
      (e.phase = 2 ∧ (e.instr = .fmget a o ∨ e.instr = .fmput a o ∨ e.instr = .fmgath a o ∨ e.instr = .fmscat a o)) ∨ (e.phase = 1 ∧ e.instr = .vflip a b sem sv) →
      ∀ m, s.fars.find? (fun m => m.core == c && m.strand == k && m.seq == e.seq) = some m →
      ∃ t, exec (.storeQueueRelease c k.1) s = .next t ∧ Left id (fun x => { x with fpbc := (s.strand c k).fpbc }) c k e es s t
        ∧ (t.strand c k).fpbc = (s.strand c k).fpbc + m.fpbc ∧ CoreKept id c k s t ∧ { t with cores := s.cores } = s ∧ ∀ h, h ≠ c → t.core h = s.core h)
  ∧ ∀ (s : State) (m : FarCmd), s.farCmd m.id = some m → m.stage = .credit →
      (∀ j ∈ s.straitsFor m, (s.fars.filter fun n => n.stage != .credit && s.atStrait m n j).length < 64) →
      (∀ n ∈ s.fars, n.stage = .credit → (∃ j ∈ s.straitsFor m, s.atStrait m n j = true) → m.id ≤ n.id) →
      ((∀ y ∈ (s.strand m.core m.strand).sq, y.seq ≠ m.seq) → ∃ t, exec (.straitAdmit m.id) s = .next t ∧ t.cores = s.cores
        ∧ t.fars.length = s.fars.length ∧ ∃ y, t.farCmd m.id = some y ∧ y.stage = .admitted ∧ y.arrived = s.ids ∧ y.kind = m.kind ∧ y.spb = m.spb)
      ∧ ∀ (e : Entry) (es : List Entry), AtHead s m.core m.strand e es → e.seq = m.seq → ∃ t, exec (.straitAdmit m.id) s = .next t ∧ (t.strand m.core m.strand).sq = es ∧ (t.strand m.core m.strand).ctx = (s.strand m.core m.strand).ctx
        ∧ (t.strand m.core m.strand).fpbc = (s.strand m.core m.strand).fpbc + m.fpbc ∧ (∀ c, c ≠ m.core → t.core c = s.core c)
        ∧ t.fars.length = s.fars.length ∧ ∃ y, t.farCmd m.id = some y ∧ y.stage = .admitted ∧ y.arrived = s.ids ∧ y.kind = m.kind ∧ y.spb = m.spb

namespace Sys2Proof.Spec
open Sys2Proof.Machine

/-- R363: whether an access goes by elements, the width of an index, and the depth of its chase. -/
def elements (m : FarCmd) : Prop := m.kind = 2 ∨ m.kind = 3
def indexBytes (m : FarCmd) : Nat := if m.spb.getLsbD 459 then 8 else 4
def chaseDepth (m : FarCmd) : Nat := spbBits m.spb 7 12 2

/-- R362, R363: the far address that an access goes to next: row and line of FMGET and FMPUT; of an element a link of its chase, then itself. -/
def farVa (m : FarCmd) (f : FarPart) : Nat :=
  let per := spbBits m.spb 2 0 32 / 64
  if m.kind < 2 then ((spbBits m.spb 0 0 52 : Int) + (f.line / per : Nat) * (m.spb.extractLsb' 192 32).toInt + (64 * (f.line % per) : Nat)).toNat
  else if f.chain.length < chaseDepth m then spbBits m.spb (5 + f.chain.length) 0 52 + f.index.getD 0 * indexBytes m
  else spbBits m.spb 0 0 52 + f.index.getD 0 * 2^spbBits m.spb 7 8 3

/-- R363: an access knows the line it moves; and it has read all that it reads. -/
def Chased (m : FarCmd) (f : FarPart) : Prop := elements m → f.index ≠ none ∧ f.chain.length = chaseDepth m
def ReadAll (m : FarCmd) (f : FarPart) : Prop :=
  Chased m f ∧ (f.got ≠ none ∨ (farWrites m.kind = true ∧ 64 ≤ m.len)) ∧ (farWrites m.kind = true → ∀ i < (m.events f.line).length, i ∈ f.beats)

/-- R281, R364: k bytes of a command's vault side can be read at (h, o), whole and not poisoned. -/
def Readable (s : State) (m : FarCmd) (ea : Word) (k : Nat) (h : CoreId) (o : Nat) : Prop :=
  s.place m.core ea = .vault h o ∧ s.stops m.core h = none ∧ s.moving h = false ∧ (s.core h).poisonedIn o k = false
    ∧ (h = m.core → (s.core h).writesLeft m.strand m.seq = false
        ∧ ∀ r ∈ s.net, ¬(r.core = m.core ∧ r.strand = m.strand ∧ r.home = h ∧ r.seq < m.seq ∧ r.toLoad = false))

/-- R359, R369: a far address of an access is translated, no access comes first at its line, and the device answers, without poison where it is read. -/
def Reached (s : State) (q : Ptn) (m : FarCmd) (n va : Nat) (write : Bool) (pa : Nat) (key : BitVec 512) : Prop :=
  let d := (s.wafer (cPart m.core)).strait m.strait
  s.xlate q m va write false = .ok pa key ∧ s.lineBlocked q m n (pa / 64) = false ∧ d.up = true ∧ pa / 64 ∉ d.faulty
    ∧ (write = true ∨ ((s.wafer (cPart m.core)).farRead (pa / 64) key).2 = false)

/-- The address of a vault event of an access. -/
def eventAt (m : FarCmd) (f : FarPart) (i : Nat) : Word :=
  m.side f.line + BitVec.ofNat 64 (((m.events f.line).getD i (0, 0)).1 - vaultOff (m.side f.line))

/-- R363, R364: a step in which an access reads its index, a link of its chase, its far line, or the bytes of a vault event. -/
def Reads (s : State) (q : Ptn) (m : FarCmd) (f g : FarPart) : Prop :=
  let far (pa : Nat) (key : BitVec 512) : Nat := ((s.wafer (cPart m.core)).farRead (pa / 64) key).1 % 2^512
  (elements m ∧ f.index = none ∧ ∃ h o, Readable s m (m.indexAt f.line) (indexBytes m) h o
      ∧ g = { f with index := some ((s.core h).vault.le o (indexBytes m)) })
  ∨ (elements m ∧ f.index ≠ none ∧ f.chain.length < chaseDepth m ∧ ∃ pa key, Reached s q m f.line (farVa m f) false pa key
      ∧ g = { f with chain := f.chain ++ [farVa m f], index := some (far pa key / 256^(pa % 64) % 256^indexBytes m) })
  ∨ (Chased m f ∧ f.got = none ∧ ∃ pa key, Reached s q m f.line (farVa m f) (farWrites m.kind) pa key
      ∧ g = { f with got := some ⟨pa, key, BitVec.ofNat 512 (far pa key), ((s.wafer (cPart m.core)).farRead (pa / 64) key).2⟩ })
  ∨ (farWrites m.kind = true ∧ ∃ i h o, i < (m.events f.line).length ∧ i ∉ f.beats ∧ let v := (m.events f.line).getD i (0, 0)
      Readable s m (eventAt m f i) v.2 h o
      ∧ g = { f with data := f.data ||| BitVec.ofNat 512 ((s.core h).vault.le o v.2 * 256^(v.1 - vaultOff (m.side f.line))), beats := i :: f.beats })

/-- Whatever an access may read next can be read. -/
def Clear (s : State) (q : Ptn) (m : FarCmd) (f : FarPart) : Prop :=
  (elements m → f.index = none → ∃ h o, Readable s m (m.indexAt f.line) (indexBytes m) h o)
    ∧ (elements m → f.index ≠ none → f.chain.length < chaseDepth m → ∃ pa key, Reached s q m f.line (farVa m f) false pa key)
    ∧ (Chased m f → f.got = none → ∃ pa key, Reached s q m f.line (farVa m f) (farWrites m.kind) pa key)
    ∧ (farWrites m.kind = true → ∀ i < (m.events f.line).length, ∃ h o, Readable s m (eventAt m f i) ((m.events f.line).getD i (0, 0)).2 h o)

end Sys2Proof.Spec

/-- R362 to R364, R366, R369, R373 to R380: a line access, or element, of an admitted command reads, in a free order and a step each, the index it
has, each link of its chase, the far line that a read moves or a write of part of a line changes, and the vault events that a write moves; then a read
writes its vault events one at a time and no other byte of a vault, and a write writes its line, the bytes that it does not move as they were. A walk
puts the missing page into the TLB. A fault, the device's own failure of a write among them, ends the access and fails the command where PWAIT is 0,
and of a command already parked or failed the access alone; a write to a PARK page waits; a begun access goes on in a hold; a parked command resumes
under ACT 1, and fails under ACT 2 and at its deadline; a command all of whose accesses are done, or that has failed, ends once none has begun, taking
its bytes off FPBC, and increments its semaphore where SV is 1. A VFLIP ends when its turn has come: over no page, or with translation off, with
nothing done (log 103); over one page whose leaf passes, SEL of a versioned leaf inverted and the page out of the TLBs; else with the fault and no
leaf changed. R356, R357, R370 to R372, R378, R396: a leaf commit writes its slot, goes on once the accesses begun under the old leaf are done, and
replays the page's waiting writes, none in a hold, or ends at once with ERR where there is no such slot; FLUSH empties the TLBs, and ends as late;
CNTOP halves and reads a page's count; a link that drops or fails its integrity check goes down, with a record; one that trains comes up as the device
has it; at an extent event all straits of the partition come to decode alike, at most eight ranges that their devices offer and no strait outside it
decodes (log 102). These steps, that an IDE failure drops the link, that a parked access holds back no other, and what CNTOP reads of an unmapped page
are the model's readings (logs 22, 52, 54 and 56). -/
def Obligations.FarEvents : Prop :=
  ((∀ (s : State) (m : FarCmd) (q : Ptn) (n : Nat), s.memOk = true → s.farCmd m.id = some m → s.ptnOf m.core = some q → s.parks = [] →
       n ∉ m.done → m.waits n = false → m.kind < 4 → n < farCount m.kind m.spb →
       m.begun n = true ∨ (s.frozen m.core = false ∧ (m.stage = .admitted ∨ (m.part n).going = true)) →
       (m.part n).chain.length ≤ chaseDepth m → (m.part n).wrong = none →
       let p := cPart m.core
       let f := m.part n
       let evs := m.events n
       let va := farVa m f
       let left := (List.range evs.length).filter fun i => i ∉ f.beats
       let works (pa : Nat) : Prop := ((s.wafer p).strait m.strait).up = true ∧ pa / 64 ∉ ((s.wafer p).strait m.strait).faulty
       let whole (y : FarCmd) : Prop := (∀ x, x ∈ y.done ↔ x ∈ m.done ∨ x = n) ∧ y.begun n = false
       let step (P : State → FarCmd → Prop) : Prop := ∃ t y, exec (.farLineComplete m.id n) s = .next t ∧ t.farCmd m.id = some y ∧ P t y
       let still (t : State) : Prop := t.cores = s.cores ∧ (t.wafer p).far = (s.wafer p).far
       let fails (k : Nat) : Prop := m.stage = .admitted → q.far.pwait = 0 → step fun t y => still t ∧ y.stage = .failed ∧ y.begun n = false
         ∧ y.fault = some (0x140 + 4 * k, BitVec.ofNat 64 (4 * 2^60 + va % 2^52))
       (¬ReadAll m f → Clear s q m f → step fun t y => still t ∧ y.done = m.done ∧ y.stage = m.stage ∧ Reads s q m f (y.part n))
       ∧ (∀ g h, ReadAll m f → farWrites m.kind = false → f.got = some g → g.bad = false → left ≠ [] → f.beats.length + left.length = evs.length → s.stops m.core h = none → s.moving h = false →
         (∀ i < evs.length, s.place m.core (eventAt m f i) = .vault h (evs.getD i (0, 0)).1) →
         ∃ i ∈ left, step fun t y => let v := evs.getD i (0, 0)
           (t.wafer p).far = (s.wafer p).far
           ∧ (∀ c b, (t.core c).vault.read b = if c = h ∧ v.1 ≤ b ∧ b < v.1 + v.2
               then BitVec.ofNat 8 (g.data.toNat / 256^(g.pa % 64 + (v.1 - vaultOff (m.side n)) + (b - v.1))) else (s.core c).vault.read b)
           ∧ (∀ c b, (t.core c).full (8 * b) = ((s.core c).full (8 * b) || (m.spb.getLsbD 453 && c == h && (v.1 / 8 ≤ b && 8 * b < v.1 + v.2))))
           ∧ if left.length = 1 then whole y else y.done = m.done ∧ y.part n = { f with beats := i :: f.beats })
       ∧ (∀ pa key old, ReadAll m f → farWrites m.kind = true → pa % 64 + m.len ≤ 64 →
         (∀ g, f.got = some g → g.pa = pa ∧ g.key = key ∧ old = (g.data.toNat, g.bad)) →
         (f.got = none → s.xlate q m va true false = .ok pa key ∧ s.lineBlocked q m n (pa / 64) = false ∧ old = (0, false)) →
         (works pa → step fun t y => whole y ∧ (∀ c b, (t.core c).vault.read b = (s.core c).vault.read b)
             ∧ (∀ j < 64, ((t.wafer p).farRead (pa / 64) key).1 / 256^j % 256
                 = if pa % 64 ≤ j ∧ j < pa % 64 + m.len then f.data.toNat / 256^(j - pa % 64) % 256 else old.1 / 256^j % 256)
             ∧ ((t.wafer p).farRead (pa / 64) key).2 = (old.2 || f.bad)
             ∧ (t.strand m.core m.strand).fpbc = (s.strand m.core m.strand).fpbc - m.len)
           ∧ (¬works pa → fails 10))
       ∧ (Chased m f → f.got = none → farWrites m.kind = false ∨ ReadAll m f →
           (∀ k, s.xlate q m va (farWrites m.kind) false = .fault k → fails k
             ∧ (m.stage ≠ .admitted → step fun t y => still t ∧ y.stage = m.stage ∧ y.fault = m.fault ∧ y.begun n = false))
           ∧ (s.xlate q m va (farWrites m.kind) false = .park → step fun t y => still t ∧ y.stage = m.stage ∧ y.waits n = true ∧ y.done = m.done)))
   ∧ (∀ (m : FarCmd) (ts : FarTables) (l : Leaf) (e : TlbEntry) (va : Nat), m.tables = some ts → ts.leaf va = some l → l.w0.testBit 3 = true →
       m.selector e va = l.w0.testBit 4)
   ∧ (∀ (s : State) (m : FarCmd) (q : Ptn) (n va : Nat) (l : Leaf), s.farCmd m.id = some m → s.ptnOf m.core = some q → m.stage = .admitted →
       s.frozen m.core = false → n ∉ m.done → m.waits n = false → n < farCount m.kind m.spb → s.missing q m n = some va →
       s.walk (cPart m.core) q m.strait va = .ok l → ((s.wafer (cPart m.core)).strait m.strait).tlb.length < 4096 →
       ∃ t, exec (.tableWalk m.id n) s = .next t ∧ ((t.wafer (cPart m.core)).strait m.strait).tlb
           = ((s.wafer (cPart m.core)).strait m.strait).tlb ++ [⟨l.slot, l.va, l.big, BitVec.ofNat 64 l.w0, BitVec.ofNat 64 l.w1, 0⟩] ∧ t.cores = s.cores)
   ∧ (∀ (s : State) (p j : Nat) (f : FaultSlot) (m : FarCmd), p < 8 → s.slotAt p j f.idx = some f → f.wpark = false → s.farCmd f.cmd = some m →
       cPart m.core = p → m.strait = j →
       (∀ i, i = .actFail p j f.idx ∨ (i = .faultPwaitExpire p j f.idx ∧ s.frozen m.core = false ∧ f.deadline ≤ s.now) →
         ∃ t y, exec i s = .next t ∧ t.farCmd f.cmd = some y ∧ y.stage = .failed ∧ y.fault = some (f.cause, f.addr) ∧ t.cores = s.cores)
       ∧ ∃ t y, exec (.actResume p j f.idx) s = .next t ∧ t.farCmd f.cmd = some y ∧ y.stage = .admitted ∧ y.done = m.done ∧ t.cores = s.cores)
   ∧ (∀ (s : State) (m : FarCmd) (q : Ptn), s.farCmd m.id = some m → s.ptnOf m.core = some q → s.frozen m.core = false → m.kind = 4 → m.stage = .admitted →
        s.flipBefore (cPart m.core) q m.arrived = false → q.far.op = none → q.far.en = false ∨ spbF m.spb 1 0 64 = 0 → m.spb.getLsbD 452 = false →
        exec (.farCommandComplete m.id) s = .next { s with fars := s.fars.filter (fun x => x.id ≠ m.id) })
   ∧ (∀ (s : State) (m : FarCmd) (q : Ptn) (l : Leaf), s.farCmd m.id = some m → s.ptnOf m.core = some q → s.frozen m.core = false → m.kind = 4 →
        m.stage = .admitted → s.flipBefore (cPart m.core) q m.arrived = false → q.far.op = none → m.spb.getLsbD 452 = false →
        let p := cPart m.core
        let a := spbBits m.spb 0 0 48
        let len := spbBits m.spb 1 0 64
        let key := (q.key 0).value
        let size := if l.big then 2^21 else 2^16
        let js := (s.wafer p).straitsOf q
        let inPage (e : TlbEntry) : Prop := e.va < l.va + size ∧ l.va < e.va + (if e.big then 2^21 else 2^16)
        let bad : Option Nat := if q.inGroup m.core l.w1 = false then some 5 else if l.w0.testBit 2 = false ∨ l.w0.testBit 7 = true then some 6
          else match (q.key (l.w0 / 32 % 4)).st with | .empty => some 7 | .revoked => some 8 | .loaded => none
        let fails (k : Nat) : Prop := (s.strand m.core m.strand).st = .ready → (s.strand m.core m.strand).born ≤ m.seq →
          ∃ t x, exec (.farCommandComplete m.id) s = .next t ∧ t.fars = s.fars.filter (fun x => x.id ≠ m.id)
            ∧ (t.wafer p).far = (s.wafer p).far ∧ (t.wafer p).straits = (s.wafer p).straits
            ∧ (t.strand m.core m.strand).faults = (s.strand m.core m.strand).faults ++ [x]
            ∧ x.base = 0x140 + 4 * k ∧ x.addr = BitVec.ofNat 64 (4 * 2^60 + l.va) ∧ x.seq = m.seq ∧ x.cmd = true
        s.walk p q m.strait l.va = .ok l → len ≠ 0 → l.va < 2^48 → l.slot % 16 = 0 →
        (a = l.va → len = size → bad = none → (∀ j ∈ js, ∀ e ∈ ((s.wafer p).strait j).tlb, inPage e → e.count = 0) →
          ∃ t, exec (.farCommandComplete m.id) s = .next t ∧ t.fars = s.fars.filter (fun x => x.id ≠ m.id) ∧ t.cores = s.cores
            ∧ (∀ line, line ≠ l.slot / 64 ∨ l.w0.testBit 3 = false → ∀ k, (t.wafer p).farRead line k = (s.wafer p).farRead line k)
            ∧ (l.w0.testBit 3 = true → ∀ i < 512, ((t.wafer p).farRead (l.slot / 64) key).1.testBit i
                = (((s.wafer p).farRead (l.slot / 64) key).1.testBit i != decide (i = 8 * (l.slot % 64) + 4)))
            ∧ ∀ j, ((t.wafer p).strait j).tlb = if l.w0.testBit 3 = true ∧ j ∈ js
                then ((s.wafer p).strait j).tlb.filter (fun e => !(e.va < l.va + size && l.va < e.va + (if e.big then 2^21 else 2^16)))
                else ((s.wafer p).strait j).tlb)
        ∧ (∀ k, a = l.va → len = size → bad = some k → fails k)
        ∧ (l.big = true → l.va ≤ a → a + len ≤ l.va + size → len < size → fails 2))
    ∧ ∀ (s : State) (m : FarCmd) (q : Ptn), s.farCmd m.id = some m → s.ptnOf m.core = some q → s.frozen m.core = false → m.kind < 4 →
       (∀ f ∈ m.parts, f.got = none ∧ f.going = false) → (m.stage = .failed → m.waiting = []) →
       let fault : Option (Nat × Word) := if m.stage = .failed then m.fault else none
       let sem := (m.spb.extractLsb' 448 4).toNat
       m.stage = .failed ∨ (m.stage = .admitted ∧ m.done.length = farCount m.kind m.spb) →
       (s.strand m.core m.strand).st = .ready → (s.strand m.core m.strand).born ≤ m.seq →
       ∃ t fs, exec (.farCommandComplete m.id) s = .next t ∧ t.fars = s.fars.filter (fun x => x.id ≠ m.id)
         ∧ (t.strand m.core m.strand).fpbc = (s.strand m.core m.strand).fpbc - (if m.kind = 1 ∨ m.kind = 3 then m.fpbc else 0)
         ∧ (m.spb.getLsbD 452 = false →
             (t.strand m.core m.strand).ctx = (s.strand m.core m.strand).ctx ∧ (∀ c, c ≠ m.core → t.core c = s.core c) ∧ ∀ c, (t.core c).sems = (s.core c).sems)
         ∧ (∀ h, m.spb.getLsbD 452 = true → (s.core h).saved = false → (vget (s.core h).sems sem).toNat < 2^32 - 1 →
             ((m.kind = 1 ∨ m.kind = 3) ∧ h = m.core ∨ (m.kind = 0 ∨ m.kind = 2) ∧ ∃ o, s.place m.core (m.spb.extractLsb' 64 64) = .vault h o) →
             vget (t.core h).sems sem = vget (s.core h).sems sem + 1 ∧ ∀ u, (t.strand h u).evpend = (s.strand h u).evpend ||| 4)
         ∧ (t.strand m.core m.strand).faults = (s.strand m.core m.strand).faults ++ fs
         ∧ fs.map (fun f => (f.base, f.addr, f.cmd, f.seq)) = (match fault with | some (base, addr) => [(base, addr, true, m.seq)] | none => []))
  ∧ ∀ (s : State) (p slot : Nat) (q : Ptn), p < 8 → (s.wafer p).ptnIn slot = some q →
      let w := s.wafer p
      let bare : Prop := (∀ j, (w.strait j).tlb = []) ∧ ∀ m ∈ s.fars, m.waiting = []
      let turn : Prop := s.flipBefore p q q.far.opAt = false
      let far (t : State) (P : FarBlock → Prop) : Prop := ∃ q', (t.wafer p).ptnIn slot = some q' ∧ P q'.far
      let reads : Prop := ∃ m ∈ s.fars, cPart m.core = p ∧ (s.ptnOf m.core).map (·.slot) = some slot ∧ ∃ f ∈ m.parts, f.got ≠ none
      let among (old : List (Nat × Nat)) : Prop := ∃ m ∈ s.fars, ∃ f ∈ m.parts, f.got ≠ none ∧ (m.id, f.line) ∈ old
      (∀ v j, turn → q.far.op = some (.leaf v) → w.straitOf q 0 = some j → s.leafSlot p q j q.far.leafva q.far.size 4 0 q.far.root = none →
          ∃ t, exec (.leafCommit p slot) s = .next t ∧ t.cores = s.cores ∧ (t.wafer p).far = w.far
            ∧ far t fun b => b.op = none ∧ b.err = true ∧ b.leafw0 = q.far.leafw0)
        ∧ (∀ v j at_ old x, bare → turn → q.far.op = some (.leaf v) → w.straitOf q 0 = some j → s.leafSlot p q j q.far.leafva q.far.size 4 0 q.far.root = some at_ →
          s.walkRead p q j at_ = .ok (old, x) →
          ∃ t, exec (.leafCommit p slot) s = .next t ∧ t.cores = s.cores ∧ (far t fun b => (b.op = none ↔ ¬reads) ∧ b.err = false ∧ b.leafw0 = v)
            ∧ (t.wafer p).far = ((s.farPoke p at_ 16 (q.key 0).value (v.toNat % 2^48 + old / 2^48 % 2^16 * 2^48 + q.far.leafw1.toNat * 2^64) false).wafer p).far)
        ∧ (turn → q.far.op = some .flush → ∃ t, exec (.flush p slot) s = .next t ∧ t.cores = s.cores ∧ (far t fun b => b.op = none ↔ ¬reads)
            ∧ ∀ j ∈ w.straitsOf q, ∀ e ∈ ((t.wafer p).strait j).tlb, 2^48 ≤ e.va)
        ∧ (∀ old i, (q.far.op = some (.leafWait old) ∧ i = .leafCommit p slot) ∨ (q.far.op = some (.flushWait old) ∧ i = .flush p slot) →
            (∀ m ∈ s.fars, m.waiting = []) →
            ∃ t, exec i s = .next t ∧ t.cores = s.cores ∧ (t.wafer p).far = w.far ∧ far t fun b => b.op = if among old then q.far.op else none)
        ∧ (∀ cur rest, q.far.op = some (.leafReplay cur rest) →
            let going : Prop := ∃ a ∈ cur, ∃ m, s.farCmd a.1 = some m ∧ (m.part a.2).going = true
            (going → exec (.leafCommit p slot) s = .next s)
            ∧ (¬going → rest = [] → ∃ t, exec (.leafCommit p slot) s = .next t ∧ t.cores = s.cores ∧ t.fars = s.fars ∧ far t fun b => b.op = none)
            ∧ ∀ id n more m, ¬going → rest = (id, n) :: more → s.farCmd id = some m →
              (s.frozen m.core = true → ∃ t, exec (.leafCommit p slot) s = .next t ∧ t.fars = s.fars ∧ t.cores = s.cores ∧ far t fun b => b.op = some (.leafReplay none rest))
              ∧ (s.frozen m.core = false → m.waits n = true → ∃ t y, exec (.leafCommit p slot) s = .next t ∧ t.cores = s.cores ∧ t.farCmd id = some y
                  ∧ y.waits n = false ∧ (y.part n).going = true ∧ y.stage = m.stage ∧ y.done = m.done
                  ∧ (∀ g ∈ ((t.wafer p).strait m.strait).slots, g.cmd = id → g.line = n → g.wpark = false)
                  ∧ far t fun b => b.op = some (.leafReplay (some (id, n)) more)))
        ∧ (¬turn → (∀ old, q.far.op ≠ some (.leafWait old) ∧ q.far.op ≠ some (.flushWait old)) → (∀ cur rest, q.far.op ≠ some (.leafReplay cur rest)) →
            exec (.leafCommit p slot) s = .next s ∧ exec (.flush p slot) s = .next s ∧ exec (.cntop p slot) s = .next s)
        ∧ (∀ n, bare → turn → q.far.op = some (.count n) → ∃ t, exec (.cntop p slot) s = .next t ∧ t.cores = s.cores
            ∧ far t fun b => b.op = none ∧ (∀ l, s.walk p q ((w.straitsOf q).headD 0) q.far.cntva = .ok l → b.cntval = l.w0 / 2^48 % 2^16 / 2^n)
                ∧ ∀ k, s.walk p q ((w.straitsOf q).headD 0) q.far.cntva = .error k → b.cntval = 0)
        ∧ (∀ j, (∀ r ∈ w.ptns, r.first < 16) → (w.strait j).up = true →
            (∃ t r, exec (.farLinkDown p j) s = .next t ∧ ((t.wafer p).strait j).up = false ∧ (t.wafer p).errq = w.errq ++ [r] ∧ r.cause = 0x173)
            ∧ ((w.strait j).ide = true → ∃ t r, exec (.farIde p j) s = .next t ∧ ((t.wafer p).strait j).up = false ∧ ((t.wafer p).strait j).ide = false
                ∧ (t.wafer p).errq = w.errq ++ [r] ∧ r.cause = 0x177))
        ∧ ∀ j, let d := w.strait j
            (j < 64 → w.tileRuns (straitTile j) = true → d.devOk = true → d.devWidth = 16 ∨ d.devWidth = 8 ∨ d.devWidth = 4 →
              ∃ t, exec (.straitLinkTraining p j) s = .next t ∧ t.cores = s.cores
                ∧ (t.wafer p).strait j = { d with up := true, rate := d.devRate, width := d.devWidth, ide := d.devIde })
            ∧ (w.tileRuns (straitTile j) = false → exec (.straitLinkTraining p j) s = .next s)
            ∧ (∀ r, w.power = .run → d.up = true → w.ptns.find? (fun r => (w.straitsOf r).contains j) = some r →
              ∃ t ds, exec (.dynamicCapacityExtent p j) s = .next t ∧ t.cores = s.cores ∧ ds.length ≤ 8
                ∧ (∀ i, (t.wafer p).strait i = if i ∈ w.straitsOf r then { w.strait i with decoders := ds } else w.strait i)
                ∧ ∀ x ∈ ds, (∃ i ∈ w.straitsOf r, (w.strait i).up = true ∧ x ∈ (w.strait i).extents)
                    ∧ ∀ u ∈ w.straits, u.1 ∉ w.straitsOf r → ∀ o ∈ u.2.decoders, rangesMeet x o = false)

/-! ## Pre-emption and error records (R398 to R413, R418, R419) -/

namespace Sys2Proof.Spec
open Sys2Proof.Machine

/-- R409: what a frame's record of strand k holds of its registers lies at 0xB700 + 0x1400 × k; the lists of the core are no longer than its
structures (R407, R473, R474). -/
structure FrameFits (s : State) (c : CoreId) : Prop where
  unit : (s.core c).unitq.length ≤ 3
  deque : (s.core c).deque.length ≤ 64
  sendq : (s.core c).sendq.length ≤ 32
  recv : (s.core c).recv.length ≤ 128
  faults : ∀ u, (s.strand c u).faults.length ≤ 4
  slots : ∀ u n g, vget (s.strand c u).slots n = some g → g.lines.length = 16 ∧ g.hdrs.length = 16 ∧ g.scales.length = 16

/-- The little-endian value of n bytes at an offset of a frame. -/
def frameAt (f : List Byte) (o n : Nat) : Nat := leNat ((f.drop o).take n)

/-- Partition `slot` of part p is there in t, as P says. -/
def HasPtn (t : State) (p slot : Nat) (P : Ptn → Prop) : Prop := ∃ q, (t.wafer p).ptnIn slot = some q ∧ P q

/-- R126, R409, R410: the record of strand k in a frame of which f gives n bytes at an offset, restored: y is the strand and x its registers. -/
structure Restored (f : Nat → Nat → Nat) (k : Fin 4) (y : Strand) (x : Ctx) : Prop where
  state : y.st = match f (0xB700 + 0x1400 * k.1) 1 % 8 with | 0 => .free | 1 => .ready | 2 => .ready | 3 => .retained | _ => .handler
  again : y.reexec = (BitVec.ofNat 8 (f (0xB700 + 0x1400 * k.1) 1)).getLsbD 3
  next : x.pc = BitVec.ofNat 64 (f (0xB708 + 0x1400 * k.1) 8)
  ints : ∀ r : BitVec 5, r ≠ 0 → x.getX r = BitVec.ofNat 64 (f (0xB840 + 0x1400 * k.1 + 8 * r.toNat) 8)
  preds : ∀ r : BitVec 3, r ≠ 0 → x.getP r = BitVec.ofNat 16 (f (0xB940 + 0x1400 * k.1 + 2 * r.toNat) 2)
  vecs : ∀ r : BitVec 5, x.getV r = BitVec.ofNat 512 (f (0xBA00 + 0x1400 * k.1 + 64 * r.toNat) 64)
  descs : ∀ n < 4, x.getD (BitVec.ofNat 5 n) = BitVec.ofNat 128 (f (0xB980 + 0x1400 * k.1 + 16 * n) 16)
  loops : ∀ n < 3, let w : BitVec 128 := BitVec.ofNat 128 (f (0xB950 + 0x1400 * k.1 + 16 * n) 16)
    x.getLc n = ⟨w.extractLsb' 0 64, w.extractLsb' 64 16, w.extractLsb' 80 17, w.extractLsb' 97 2, w.getLsbD 99⟩
  csr : let w (n : Nat) : Word := BitVec.ofNat 64 (f (0xB740 + 0x1400 * k.1 + 8 * n) 8)
    [x.seed, x.instret, x.stealdom, x.stepc, x.epc, x.tval, x.tscratch] = [w 0x003, w 0x007, w 0x00B, w 0x00E, w 0x011, w 0x013, w 0x014]
      ∧ (x.flags = (w 0x002).setWidth 7 ∧ x.cause = (w 0x012).setWidth 9 ∧ x.note = (w 0x016).getLsbD 0)
      ∧ (x.priv, x.ppriv, x.bg, x.hnd) = ((w 0).getLsbD 0, (w 0).getLsbD 1, (w 0).getLsbD 2, (w 0).getLsbD 3)

end Sys2Proof.Spec

/-- R401, R418: PREQ in S mode enters the store queue and holds its strand, and in U mode traps ILL_PRIV; at the head it asks for the hold
with its own strand exempt, and completes with 0 once the hold stands; where one stood already it completes with 1. CHART in S mode waits, and
reads 8 bytes of the expanded chart when no named tile is being moved (R419), or traps CHART_RANGE. PREEMPT_REQUEST asks for a hold of its partition where none stands. R402, R403,
R406 to R410, R412: PREEMPT_STOP stops a core, fixes where its frame goes, and takes a strand that waits in the scalar pipe back to before its instruction, all but the
exempt strand; PREEMPT_SAVE of a stopped core with nothing under way writes its frame into its own vault and nothing else, and the hold stands
once every core has saved but that of the exempt strand, on which the other strands have stopped, and no far access, beat or chunk is half done
(R355, R385); a frame holds the registers where R406 to R409 say. RES ends the hold and counts it, the mailbox (of which the host saw STATE 4)
shows its own STATE again, a core that saved no frame goes on in place, a strand that was taken back ready to issue again, and one that did goes
on from its frame, as the frame then reads: its semaphores where no increment was counted in the hold, its masks, its deque and the registers of its
strands; a strand whose PREEMPT has NOTE traps PREEMPTED before it issues, with the cycles from the request to the resume as its TVAL. -/
def Obligations.PreemptionResult : Prop :=
  ((∀ (s : State) (d a : BitVec 5),
     (s.ctx.priv = true → Queues (.preq d) s 4 true)
     ∧ (s.ctx.priv = false → Traps (.preq d) s 0x008 (illTval (.preq d)) ∧ Traps (.chart d a) s 0x008 (illTval (.chart d a)))
     ∧ (s.ctx.priv = true → (s.ctx.getX a).toNat % 8 = 0 → (s.ctx.getX a).toNat < 0x400020 → Queues (.chart d a) s 4 true)
     ∧ (s.ctx.priv = true → (s.ctx.getX a).toNat % 8 ≠ 0 ∨ 0x400020 ≤ (s.ctx.getX a).toNat → Traps (.chart d a) s 0x190 (s.ctx.getX a)))
   ∧ (∀ (s : State) (c : CoreId) (k : Fin 4) (e : Entry) (es : List Entry) (d a : BitVec 5) (q : Ptn), AtHead s c k e es → s.ptnOf c = some q →
       (s.wafer (cPart c)).ptnIn q.slot = some q →
       (e.instr = .preq d → e.phase = 0 → s.halted c k = false → s.released c k e.seq 0 = true →
         ((q.pre.saving = true ∨ q.pre.held = true) → Ends c k e es s (fun x => x.setX d 1) id fun _ => True)
         ∧ (q.pre.saving = false → q.pre.held = false → ∃ t y ys, exec (.storeQueueRelease c k.1) s = .next t ∧ (∀ h, h ≠ c → t.core h = s.core h)
             ∧ CoreKept id c k s t ∧ (t.strand c k).ctx = (s.strand c k).ctx ∧ (t.strand c k).sq = y :: ys ∧ y.instr = e.instr ∧ y.phase = 1
             ∧ HasPtn t (cPart c) q.slot fun r => r.pre.saving = true ∧ r.pre.held = false ∧ r.pre.exempt = some (c, k)))
       ∧ (e.instr = .preq d → e.phase = 1 → q.pre.held = true → Ends c k e es s (fun x => x.setX d 0) id fun _ => True)
       ∧ (e.instr = .chart d a → e.phase = 0 → s.halted c k = false → (s.strand c k).st = .ready → ∃ t, exec (.storeQueueRelease c k.1) s = .next t
           ∧ (t.strand c k).sq = { e with phase := 1 } :: es ∧ (t.strand c k).st = .waiting
           ∧ { t.strand c k with sq := (s.strand c k).sq, st := .ready } = s.strand c k ∧ { t with cores := s.cores } = s ∧ (∀ h, h ≠ c → t.core h = s.core h))
       ∧ (e.instr = .chart d a → e.phase = 1 → s.halted c k = false → (s.wafer (cPart c)).moves = [] →
           Ends c k e es s (fun x => x.setX d (BitVec.ofNat 64 ((s.wafer (cPart c)).chart.word (e.snap.getX a).toNat))) id fun _ => True))
   ∧ ∀ (s : State) (p slot : Nat) (c : CoreId) (k : Fin 4) (q : Ptn), p < 8 → s.ptnOf c = some q → cPart c = p → q.slot = slot →
       (s.wafer p).ptnIn slot = some q →
       (q.pre.saving = false → q.pre.held = false → ∃ t, exec (.preemptRequest p slot c k.1) s = .next t ∧ t.cores = s.cores ∧ t.net = s.net
           ∧ HasPtn t p slot fun r => r = { q with pre := { q.pre with saving := true, exempt := some (c, k), since := s.now } })
         ∧ ((q.pre.saving = true ∨ q.pre.held = true) → exec (.preemptRequest p slot c k.1) s = .next s))
  ∧ (∀ (s : State) (c : CoreId) (q : Ptn), s.ptnOf c = some q → q.pre.saving = true → (s.core c).stopped = false → s.moving c = false →
        (s.wafer (cPart c)).ptnIn q.slot = some q →
        ∃ t, exec (.preemptStop c) s = .next t ∧ (t.core c).stopped = true ∧ (t.core c).frameOff = (s.core c).saveoff ∧ (∀ h, h ≠ c → t.core h = s.core h)
          ∧ (HasPtn t (cPart c) q.slot fun r => { r with pre := { r.pre with saving := q.pre.saving, held := q.pre.held } } = q)
          ∧ (∀ k, s.exempt c = some k → t.strand c k = s.strand c k)
          ∧ (∀ k, s.exempt c ≠ some k → ((s.strand c k).st ≠ .waiting → (s.strand c k).st ≠ .handlerWaiting → t.strand c k = s.strand c k)
            ∧ ∀ e, (s.strand c k).st = .waiting → (s.strand c k).wait = some e →
                (t.strand c k).ctx = e.snap ∧ (t.strand c k).wait = none ∧ (t.strand c k).hold = none ∧ (t.strand c k).reexec = true))
    ∧ (∀ (s : State) (c : CoreId) (q : Ptn), s.memOk = true → s.ptnOf c = some q → (s.wafer (cPart c)).ptnIn q.slot = some q → q.pre.saving = true →
        q.pre.held = false → (s.core c).stopped = true → (s.core c).saved = false → s.exempt c = none → s.moving c = false → s.parks = [] →
        s.stops c c = none → s.mayParkFrame c = true → (∀ u, s.waitingOf c u = none ∧ (s.strand c u).faults = []) → (s.core c).frameAt + 0x10700 ≤ 0x80000 →
        let at_ := (s.core c).frameAt
        let f := (s.modCore c fun k => { k with semWait := [] }).frame c
        ∃ t, exec (.preemptSave c) s = .next t ∧ (t.core c).saved = true ∧ (t.core c).saveFailed = false ∧ (∀ h, h ≠ c → t.core h = s.core h)
          ∧ (∀ n, (t.core c).vault.read n = if at_ ≤ n ∧ n < at_ + f.length then f.getD (n - at_) 0 else (s.core c).vault.read n)
          ∧ (∀ n, (t.core c).near.read n = (s.core c).near.read n)
          ∧ HasPtn t (cPart c) q.slot fun r => r.pre.held = true ↔
              ((t.coresOf (cPart c) q).filter fun d => (t.core d).saved).length = 15360 * q.count - (if q.pre.exempt.isSome then 1 else 0)
                ∧ (∀ d u, q.pre.exempt = some (d, u) → (t.core d).stopped = true
                    ∧ ∀ v, v = u ∨ (t.strand d v).waits = false ∨ (t.strand d v).reexec = true)
                ∧ t.halfDone (cPart c) r = false)
    ∧ (∀ (s : State) (c : CoreId), FrameFits s c →
        let f := s.frame c
        let k := s.core c
        f.length = 0x10700 ∧ frameAt f 0 4 = 0x46524D45 ∧ frameAt f 4 2 = 1 ∧ frameAt f 8 4 = k.launchid.toNat
          ∧ (∀ n < 16, frameAt f (0x40 + 4 * n) 4 = (vget k.sems n).toNat) ∧ frameAt f 0x80 8 = k.dmask.toNat ∧ frameAt f 0x88 2 = k.barmask.toNat
          ∧ (∀ n < k.deque.length, frameAt f (0x1000 + 32 * n) 32 = (k.deque.getD n 0).toNat)
          ∧ (∀ n < k.recv.length, ∀ m, k.recv[n]? = some m → frameAt f (0x2600 + 64 * n) 64 = m.payload.toNat)
          ∧ ∀ u : Fin 4, let o := 0xB700 + 0x1400 * u.1
              let x := (k.strand u).ctx
              frameAt f (o + 8) 8 = x.pc.toNat ∧ (∀ r : BitVec 5, frameAt f (o + 0x140 + 8 * r.toNat) 8 = (x.getX r).toNat)
                ∧ (∀ r : BitVec 5, frameAt f (o + 0x300 + 64 * r.toNat) 64 = (x.getV r).toNat)
                ∧ (∀ r : BitVec 3, frameAt f (o + 0x240 + 2 * r.toNat) 2 = (x.getP r).toNat)
                ∧ frameAt f (o + 0x40 + 8 * 0x00E) 8 = x.stepc.toNat ∧ frameAt f (o + 0x40 + 8 * 0x011) 8 = x.epc.toNat)
    ∧ ∀ (s : State) (p slot : Nat) (q : Ptn), p < 8 → (s.wafer p).ptnIn slot = some q → q.slot = slot →
        (q.pre.held = false → exec (.res p slot) s = .next s)
        ∧ (q.pre.held = true → ∃ t, exec (.res p slot) s = .next t
            ∧ (HasPtn t p slot fun r => r.pre.held = false ∧ r.pre.saving = false ∧ r.pre.exempt = none ∧ r.pre.count = q.pre.count + 1)
            ∧ ShownInHold s t p q
            ∧ (∀ c, c ∉ s.coresOf p q → t.core c = s.core c)
            ∧ (∀ c ∈ s.coresOf p q, (s.core c).saved = false → (t.core c).stopped = false
                ∧ (∀ u, t.strand c u = if (s.strand c u).reexec then (s.strand c u).setSt false else s.strand c u)
                ∧ (t.core c).near = (s.core c).near ∧ (t.core c).vault = (s.core c).vault)
            ∧ ∀ c ∈ s.coresOf p q, (s.core c).saved = true → (s.core c).saveFailed = false → s.frameBad c = false → s.stops c c = none →
                let f (o n : Nat) : Nat := (s.core c).vault.le ((s.core c).frameAt + o) n
                let m := t.core c
                ((s.core c).incs = [] → ∀ n < 16, vget m.sems n = BitVec.ofNat 32 (f (0x40 + 4 * n) 4))
                ∧ m.dmask = BitVec.ofNat 64 (f 0x80 8) ∧ m.barmask = BitVec.ofNat 16 (f 0x88 2) ∧ m.arrived = BitVec.ofNat 16 (f 0x8A 2)
                ∧ m.lfsr = BitVec.ofNat 16 (f 0x98 2)
                ∧ m.deque = (List.range (f 0xA0 1 % 128)).map (fun n => BitVec.ofNat 256 (f (0x1000 + 32 * n) 32))
                ∧ ∀ u, ∃ x, Restored f u (t.strand c u) x
                    ∧ (if x.note = true ∧ ((t.strand c u).st = .ready ∨ (t.strand c u).st = .handler) then
                        TrapsAt x (t.strand c u).ctx 0x19C (BitVec.ofNat 64 (s.now - q.pre.since))
                      else (t.strand c u).ctx = x))

/-! ## In-field amendment (R56 to R62) -/

namespace Sys2Proof.Spec
open Sys2Proof.Machine

/-- R56: an amendment of damage d at (px, py) has been put at the end of the controller's queue of part p. -/
def Asked (s t : State) (p : Nat) (d : Damage) (px py : Nat) : Prop := (t.wafer p).work = (s.wafer p).work ++ [.amend d (px % 512) (py % 512)]

/-- The chart's entry of the tile at (px, py). -/
def tileAt (s : State) (p px py : Nat) : Tile := (s.wafer p).chart.tile (py % 512 * 512 + px % 512)

/-- The amendment of damage d at tile i is at the head of the queue, and the controller can take it up. -/
structure Amending (s : State) (p : Nat) (d : Damage) (px py : Nat) (rest : List Work) : Prop where
  part : p < 8
  work : (s.wafer p).work = .amend d px py :: rest
  power : (s.wafer p).power = .run
  moves : (s.wafer p).moves = []
  changes : (s.wafer p).chart.changes d (py % 512 * 512 + px % 512) = true

/-- What the controller does for each named tile (R57). -/
def remediesOf (s : State) (p : Nat) (d : Damage) (px py : Nat) : List Remedy :=
  let i := py % 512 * 512 + px % 512
  let ch := (s.wafer p).chart
  remedies ch (ch.stamp (ch.damaged d i)) (s.wafer p) p d i

end Sys2Proof.Spec

/-- R56, R396, R397: what damage leads to: a link that exhausts its retries asks for an amendment that narrows it, or makes it missing where
it was narrow or all its lanes are bad; a high retry rate for one that slows it; a failed router, and with a record each a failed quay
(memory cause 15), barrier wire and steal lane (message causes 14 and 15), for one of theirs. A missing link asks for nothing. R398, R400,
R421: a record's words; ERROR_RECORD appends the oldest record on its way to the part's log, and writes it into the ring of its partition
where that is enabled and has room; where it has none, or no way to its vault (log 99), it counts the record as lost; while that vault is on the
move the record waits (R58).
That a wire or lane asks for an amendment of its own kind, and that a ring wraps in the vault, are the model's readings (logs 74 and 81). -/
def Obligations.DamageAndRecordResult : Prop :=
  (∀ (s : State) (p px py l : Nat), p < 8 →
     let old := (tileAt s p px py).link l
     let asks (i : Instr) (d : Damage) (P : State → Prop) : Prop := ∃ t, exec i s = .next t ∧ t.cores = s.cores ∧ Asked s t p d px py ∧ P t
     let silent (t : State) : Prop := (t.wafer p).errq = (s.wafer p).errq
     (l < 8 → old = 0 ∨ old = 2 → asks (.linkCrcExhausted p px py l) (.linkNarrow l) silent)
       ∧ (l < 8 → old = 1 → asks (.linkCrcExhausted p px py l) (.linkGone l) silent)
       ∧ (l < 8 → old ≠ 3 → asks (.linkCrcExhausted p px py (l + 8)) (.linkGone l) silent ∧ asks (.linkRetryRate p px py l) (.linkSlow l) silent)
       ∧ (l < 8 → old = 3 → exec (.linkCrcExhausted p px py l) s = .next s ∧ exec (.linkCrcExhausted p px py (l + 8)) s = .next s
           ∧ exec (.linkRetryRate p px py l) s = .next s)
       ∧ asks (.routerFailure p px py) .router silent
       ∧ asks (.quayFail p px py) .vaultHalf (fun t => Recorded s t p 0x0BF)
       ∧ asks (.barrierWire p px py) .wire (fun t => Recorded s t p 0x0FB)
       ∧ asks (.stealLane p px py) .wire (fun t => Recorded s t p 0x0FF))
  ∧ (∀ r : ErrRec, r.cause < 2^9 → r.synd < 16 → r.px < 512 → r.py < 512 → (∀ n, r.slot = some n → n < 16) → (∀ n, r.core = some n → n < 2^21) →
        r.time < 2^64 →
        r.word.extractLsb' 0 9 = BitVec.ofNat 9 r.cause ∧ r.word.extractLsb' 12 4 = BitVec.ofNat 4 r.synd
          ∧ (∀ t, r.strand = some t → r.word.extractLsb' 9 2 = BitVec.ofNat 2 t.1 ∧ r.word.getLsbD 11 = true ∧ r.word.extractLsb' 64 64 = r.pc)
          ∧ (r.strand = none → r.word.getLsbD 11 = false)
          ∧ (∀ n, r.slot = some n → r.word.extractLsb' 16 4 = BitVec.ofNat 4 n) ∧ (∀ n, r.core = some n → r.word.extractLsb' 20 21 = BitVec.ofNat 21 n)
          ∧ r.word.extractLsb' 41 9 = BitVec.ofNat 9 r.px ∧ r.word.extractLsb' 50 9 = BitVec.ofNat 9 r.py
          ∧ r.word.extractLsb' 128 64 = r.addr ∧ r.word.extractLsb' 192 64 = BitVec.ofNat 64 r.time)
    ∧ ∀ (s : State) (p : Nat) (r : ErrRec) (rs : List ErrRec), p < 8 → (s.wafer p).errq = r :: rs → s.memOk = true → s.parks = [] →
        let w := s.wafer p
        let logged (t : State) : Prop := (t.wafer p).errq = rs ∧ (t.wafer p).logged = w.logged + 1
          ∧ (w.log.length < 65536 → (t.wafer p).log = w.log ++ [r.word])
        (r.slot.bind w.ptnIn = none → ∃ t, exec (.errorRecord p) s = .next t ∧ logged t ∧ t.cores = s.cores)
        ∧ ∀ q, r.slot.bind w.ptnIn = some q → w.ptnIn q.slot = some q →
            let b := q.ring
            let lead := leadCore p q
            (s.away lead lead = true → exec (.errorRecord p) s = .next s) ∧ (s.away lead lead = false →
            (b.en = false → ∃ t, exec (.errorRecord p) s = .next t ∧ logged t ∧ t.cores = s.cores)
            ∧ (b.en = true → (b.head - b.tail).toNat = 2^b.rlog ∨ (s.stops lead lead).isSome = true → b.lost.toNat + 1 < 2^32 →
                ∃ t, exec (.errorRecord p) s = .next t ∧ logged t ∧ t.cores = s.cores ∧ HasPtn t p q.slot fun x => x.ring = { b with lost := b.lost + 1 })
            ∧ (b.en = true → (b.head - b.tail).toNat ≠ 2^b.rlog → s.stops lead lead = none →
                let at_ := (b.rbase * 32 + 32 * (b.head.toNat % 2^b.rlog)) % 2^19
                ∃ t, exec (.errorRecord p) s = .next t ∧ logged t ∧ (HasPtn t p q.slot fun x => x.ring = { b with head := b.head + 1 })
                  ∧ (∀ h, h ≠ lead → t.core h = s.core h)
                  ∧ (∀ n, (t.core (lead)).vault.read n = if at_ ≤ n ∧ n < at_ + 32 then (r.word >>> (8 * (n - at_))).setWidth 8
                      else (s.core (lead)).vault.read n)
                  ∧ t.semq = s.semq ++ (if b.rsv then [(lead, b.rsem)] else [])))

/-- R56, R57, R58, R61, R62: CHART_AMENDMENT carries the damage at the head of the queue into the chart: GEN counts it, the class of the tile and the
state of its links are those R56 gives, and GENSET of every tile whose entry or SPARE has changed is GEN (R41), of no other (a tile the chart
does not list has that of its isle); it ends there where every core still has what it needs, goes on as a move where one does not (what is parked at that core's vault is answered RETRY), and where there
is no remedy the isle is lost: its partition is torn down with ISLE_LOST, LOSTISLE names it, and CGRADE follows (R55). Damage the chart already shows is dropped. MOVE_COPY_DONE of the last move renames the tiles and ends the amendment;
HOLD_RELEASE ends a hold once nothing of the partition is on its way.
The state of a link that is both narrow and slow is the model's reading (log 75). -/
def Obligations.AmendmentResult : Prop :=
  (∀ (ch : Chart) (i n : Nat), n < 8 →
      (ch.tile i).link n ≠ 3 →
      ((ch.damaged (.linkNarrow n) i).tile i).link n = (if (ch.tile i).link n = 1 then 3 else 1)
        ∧ ((ch.damaged (.linkSlow n) i).tile i).link n = 2 ∧ ((ch.damaged (.linkGone n) i).tile i).link n = 3)
  ∧ (∀ (ch : Chart) (i : Nat) (d : Damage), (ch.damaged d i).gen = ch.gen + 1 ∧ (ch.amends < 4096 → (ch.damaged d i).amends = ch.amends + 1)
      ∧ (d = .coreHalf → ((ch.damaged d i).tile i).cls = match (ch.tile i).cls with | .complete => .memory | .compute => .relay | c => c)
      ∧ (d = .vaultHalf → ((ch.damaged d i).tile i).cls = match (ch.tile i).cls with | .complete => .compute | .memory => .relay | c => c)
      ∧ (d = .router → ((ch.damaged d i).tile i).cls = .dead ∧ ∀ n < 8, ((ch.damaged d i).tile i).link n = 3))
  ∧ (∀ (was ch : Chart) (i : Nat), let same : Prop := was.tile i = ch.tile i ∧ was.spare i = ch.spare i
      ∃ g, (was.stamp ch).tile i = { ch.tile i with genset := g } ∧ (was.stamp ch).gen = ch.gen ∧ (same → g = (ch.tile i).genset)
        ∧ (was.tile i = ch.tile i ∨ (∃ x ∈ ch.tiles, x.1 = i) → ¬same → g = ch.gen))
  ∧ (∀ (ch : Chart) (i n : Nat) (d : Damage), n < 8 → d = .coreHalf ∨ d = .vaultHalf ∨ d = .router ∨ d = .linkGone n → ch.changes d i = true →
      ((ch.stamp (ch.damaged d i)).tile i).genset = ch.gen + 1)
  ∧ (∀ (s : State) (p px py : Nat) (d : Damage) (rest : List Work), Amending s p d px py rest →
      let ch := (s.wafer p).chart.stamp ((s.wafer p).chart.damaged d (py % 512 * 512 + px % 512))
      ((s.wafer p).chart.amends < 4096 → remediesOf s p d px py = [] →
        ∃ t m, exec (.chartAmendment p) s = .next t ∧ t.cores = s.cores ∧ (t.wafer p).work = rest ∧ (t.wafer p).moves = []
          ∧ (t.wafer p).chart = { ch with passisle := m })
      ∧ (∀ m : Move, (s.wafer p).chart.amends < 4096 → remediesOf s p d px py = [.move m] → m.lost = false →
        ∃ t, exec (.chartAmendment p) s = .next t ∧ t.cores = s.cores ∧ (t.wafer p).work = (s.wafer p).work ∧ (t.wafer p).moves = [m]
          ∧ ((t.wafer p).chart.tile m.oldTile).moving = true
          ∧ t.parks = s.parks.filter (fun r => r.home ≠ m.core)
          ∧ ∀ r ∈ s.parks, r.home = m.core → { r with st := .retry (s.now + 256) } ∈ t.net)
      ∧ ((s.wafer p).chart.amends = 4096 ∨ .lost ∈ remediesOf s p d px py → s.fars = [] →
        ∃ t, exec (.chartAmendment p) s = .next t ∧ (t.wafer p).work = rest
          ∧ (t.wafer p).chart.lostisle = (s.wafer p).chart.lostisle ||| BitVec.ofNat 16 (2^(px % 512 / 32))
          ∧ (let good := ((List.range 16).filter fun j => ((s.wafer p).chart.failisle ||| (t.wafer p).chart.lostisle).getLsbD j = false).length
             (t.wafer p).chart.cgrade = if good < 14 then 0 else good)
          ∧ ∀ n q, (s.wafer p).chart.logIsle (px % 512 / 32) = some n → (s.wafer p).ptnAt (30 * n) = some q → q.slot < 16 →
            (s.wafer p).log.length + (s.wafer p).errq.length + 64 < 65536 →
            (t.wafer p).ptnIn q.slot = none ∧ (vget (t.wafer p).mail q.slot).st = 0
              ∧ ((∃ x ∈ (t.wafer p).log, x.extractLsb' 0 9 = 0x187#9) ∨ ∃ r ∈ (t.wafer p).errq, r.cause = 0x187)))
  ∧ (∀ (s : State) (p px py : Nat) (d : Damage) (rest : List Work), p < 8 → (s.wafer p).work = .amend d px py :: rest → (s.wafer p).power = .run →
      (s.wafer p).moves = [] → (s.wafer p).chart.changes d (py % 512 * 512 + px % 512) = false →
      ∃ t, exec (.chartAmendment p) s = .next t ∧ t.cores = s.cores ∧ (t.wafer p).work = rest ∧ (t.wafer p).chart = (s.wafer p).chart)
  ∧ (∀ (s : State) (p px py : Nat) (d : Damage) (rest : List Work) (m : Move), p < 8 → (s.wafer p).work = .amend d px py :: rest →
      (s.wafer p).moves = [m] → m.copy && m.unread = false →
      let was := (s.wafer p).chart.tile m.oldTile
      ∃ t, exec (.moveCopyDone p 0) s = .next t ∧ (t.wafer p).work = rest ∧ (t.wafer p).moves = []
        ∧ (∀ c, c ≠ m.core → t.core c = s.core c) ∧ (t.core m.core).vault = (s.core m.core).vault ∧ (t.core m.core).near = (s.core m.core).near
        ∧ (t.core m.core).poison = (s.core m.core).poison
        ∧ (let new := (t.wafer p).chart.tile m.newTile
           new.named = true ∧ new.lx = was.lx ∧ new.ly = was.ly)
        ∧ (m.newTile ≠ m.oldTile → ((t.wafer p).chart.tile m.oldTile).named = false)
        ∧ ∀ h, m.home = some h → ((t.wafer p).chart.tile h.1).home = true)
  ∧ ∀ (s : State) (p slot n : Nat) (q : Ptn), p < 8 → (s.wafer p).ptnIn slot = some q → q.amendHold = some n →
      let mine (c : CoreId) : Prop := inRun p q.first q.count c = true
      let idle : Prop := (∀ r ∈ s.net, mine r.core ∨ mine r.home → r.st ≠ .flying) ∧ (∀ a ∈ s.acks, ¬mine a.core)
        ∧ (∀ m ∈ s.msgs, ¬mine m.src ∧ (mine m.dest → 2^21 ≤ m.src)) ∧ (∀ x ∈ s.notices, ¬mine x.src) ∧ ∀ r ∈ s.steals, ¬mine r.thief
      (idle → ∃ t, exec (.holdRelease p slot) s = .next t ∧ HasPtn t p slot fun r => r.amendHold = none)
        ∧ (¬idle → exec (.holdRelease p slot) s = .next s)

/-! ## The Grefiest controller's commands (R420 to R426, R432 to R436, R441) -/

namespace Sys2Proof.Spec
open Sys2Proof.Machine

/-- R420: the command `code` of host port b is at the head of the controller's queue of part p, and the controller can take it up. -/
structure Commanded (s : State) (p : Nat) (b : Bool) (code : Nat) (rest : List Work) : Prop where
  part : p < 8
  work : (s.wafer p).work = .cmd b code :: rest
  power : (s.wafer p).power = .run
  moves : (s.wafer p).moves = []

/-- The command page of a host port. -/
def pageOf (s : State) (p : Nat) (b : Bool) : CmdPage := vget (s.wafer p).pages b.toNat

/-- R421: the command row i has run: its status is in the command page, MSI-X vector 0 has been sent, and the queue goes on. -/
def Answers (i : Instr) (s : State) (p : Nat) (b : Bool) (rest : List Work) (status : Nat) (P : State → Prop) : Prop :=
  ∃ t, exec i s = .next t ∧ (t.wafer p).work = rest ∧ (pageOf t p b).status = BitVec.ofNat 4 status ∧ (pageOf t p b).args = (pageOf s p b).args
    ∧ (t.wafer p).msix = (s.wafer p).msix ++ [(b, 0)] ∧ P t

/-- It has done nothing else. -/
def Refuses (i : Instr) (s : State) (p : Nat) (b : Bool) (rest : List Work) (status : Nat) : Prop :=
  Answers i s p b rest status fun t => t.cores = s.cores ∧ (t.wafer p).ptns = (s.wafer p).ptns ∧ (t.wafer p).mail = (s.wafer p).mail
    ∧ (t.wafer p).retained = (s.wafer p).retained ∧ (t.wafer p).plant = (s.wafer p).plant ∧ (t.wafer p).eph = (s.wafer p).eph
    ∧ (t.wafer p).domid = (s.wafer p).domid ∧ (t.wafer p).nparts = (s.wafer p).nparts

/-- Two isle runs meet. -/
def Meet (f n g m : Nat) : Prop := g < f + n ∧ f < g + m

/-- The partition that FORM makes of a run. -/
structure FormedAs (q : Ptn) (slot first count : Nat) (dom port : Bool) (now : Nat) : Prop where
  slot : q.slot = slot
  first : q.first = first
  count : q.count = count
  dom : q.dom = dom
  port : q.port = port
  formed : q.formed = now
  held : q.pre.held = false ∧ q.pre.saving = false ∧ q.pre.count = 0
  keys : ∀ k < 4, (q.key k).st = .empty
  chans : ∀ n < 16, vget q.chans n = Chan.reset

end Sys2Proof.Spec

/-- R401, R410, R420 to R425: FORM, TEARDOWN, PREEMPT and RESUME, as the controller carries them out: FORM refuses an empty or overlong run
(1), a slot in use (3) and an overlap (2), and else makes the partition with its mailbox IDLE, zeroised cores and a tag-63 message to its
lead core; TEARDOWN ends a partition, and answers 3 where there is none; PREEMPT asks for a hold and RESUME ends one that no strand is
exempt from. R422, R432 to R436, R441, R442: the controller's other commands: ATTEST answers a report that holds the nonce and makes a new
ephemeral key; KEYLOAD refuses a point off the curve (1), a missing ephemeral key (5), a missing slot or a loaded key (3) and a wrapping
that fails (4), and else loads the key; KEYREVOKE revokes a loaded key; DOMAIN sets the domain, LOGREAD answers the records from the number
it names, SENSORS the readings and the clock, and PLIMIT sets a limit of 5,000 to 30,000 W.
A page for each port, the statuses R421 to R435 do not name, the reset of the mailbox page and where LOGREAD starts are the model's readings (logs 65 to 69); key agreement, key derivation and unwrapping are the family's
(log 4). -/
def Obligations.ControllerCommands : Prop :=
  (∀ (s : State) (p : Nat) (b : Bool) (rest : List Work),
     let w := s.wafer p
     let g := pageOf s p b
     let a := g.args.le 0x100 2
     let first := a % 16
     let count := a / 16 % 32
     let slot := a / 512 % 16
     let dom : Bool := a.testBit 13
     let fits : Prop := count ≠ 0 ∧ first + count ≤ w.chart.isleCount ∧ (dom = true → w.nparts ≠ 0)
       ∧ ∀ j ∈ w.chart.runIsles first count, w.chart.lostisle.getLsbD j = false
     let taken : Prop := (∃ q ∈ w.ptns, Meet first count q.first q.count)
       ∨ (a.testBit 14 = false ∧ ∃ r ∈ w.retained, Meet first count r.first r.count ∧ ¬(r.slot = slot ∧ r.first = first ∧ r.count = count))
     (Commanded s p b 1 rest →
       (¬fits → Refuses (.form p) s p b rest 1)
       ∧ (fits → w.ptnIn slot ≠ none → Refuses (.form p) s p b rest 3)
       ∧ (fits → w.ptnIn slot = none → taken → Refuses (.form p) s p b rest 2)
       ∧ (fits → w.ptnIn slot = none → ¬taken → Answers (.form p) s p b rest 0 fun t =>
           (HasPtn t p slot fun q => FormedAs q slot first count dom (a.testBit 15) s.now)
             ∧ vget (t.wafer p).mail slot = { Mailbox.zero with st := 1 }
             ∧ (w.retained = [] → (∀ c, inRun p first count c = false → t.core c = s.core c)
                 ∧ ∀ c, inRun p first count c = true → c ≠ mkCore p 0 (30 * first) → (t.core c).vault = [])
             ∧ ∃ m, t.msgs = s.msgs ++ [m] ∧ m.dest = mkCore p 0 (30 * first) ∧ m.tag = 63 ∧ m.payload = 0))
     ∧ (let n := (g.args.le 0x100 1) % 16
        (Commanded s p b 2 rest →
           (w.ptnIn n = none → (∀ r ∈ w.retained, r.slot ≠ n) → Refuses (.teardown p) s p b rest 3)
           ∧ (∀ q, w.ptnIn n = some q → s.fars = [] → (∀ r ∈ w.ptns, r.slot ≠ n → ¬Meet q.first q.count r.first r.count) →
             Answers (.teardown p) s p b rest 0 fun t => (t.wafer p).ptnIn n = none ∧ (vget (t.wafer p).mail n).st = 0
               ∧ ∀ c, inRun p q.first q.count c = true → (t.core c).near = [] ∧ ∀ u, (t.strand c u).st = .free))
         ∧ (Commanded s p b 3 rest →
           (w.ptnIn n = none → Refuses (.preempt p) s p b rest 3)
           ∧ (∀ q, w.ptnIn n = some q → q.pre.saving = false → q.pre.held = false → Answers (.preempt p) s p b rest 0 fun t =>
               t.cores = s.cores ∧ HasPtn t p n fun r => r.pre.saving = true ∧ r.pre.exempt = none ∧ r.pre.since = s.now)
           ∧ (∀ q, w.ptnIn n = some q → q.pre.saving = true ∨ q.pre.held = true → Refuses (.preempt p) s p b rest 0))
         ∧ (Commanded s p b 4 rest →
           (w.ptnIn n = none → Refuses (.resume p) s p b rest 3)
           ∧ (∀ q, w.ptnIn n = some q → (q.pre.held = false ∨ q.pre.exempt ≠ none) → Refuses (.resume p) s p b rest 0)
           ∧ (∀ q, w.ptnIn n = some q → q.pre.held = true → q.pre.exempt = none → Answers (.resume p) s p b rest 0 fun t =>
               HasPtn t p n fun r => r.pre.held = false ∧ r.pre.count = q.pre.count + 1))))
  ∧ ∀ (s : State) (p : Nat) (b : Bool) (rest : List Work),
      let w := s.wafer p
      let g := pageOf s p b
      let n := (g.args.le 0x100 1) % 16
      let k := (g.args.le 0x100 1) / 16 % 4
      (Commanded s p b 5 rest → Answers (.attest p) s p b rest 0 fun t => t.cores = s.cores ∧ (pageOf t p b).resp.le 0x800 4 = 0x41545452
          ∧ (pageOf t p b).resp.le 0x804 4 = 1 ∧ (∀ i < 48, (pageOf t p b).resp.read (0x808 + i) = g.args.read (0x100 + i))
          ∧ (t.wafer p).eph.isSome = true)
      ∧ (Commanded s p b 6 rest →
          (Crypto.readPoint (g.args.readN 0x108 97) = none → Refuses (.keyload p) s p b rest 1)
          ∧ ∀ pt, Crypto.readPoint (g.args.readN 0x108 97) = some pt →
            (w.eph = none → Refuses (.keyload p) s p b rest 5)
            ∧ ∀ e, w.eph = some e → (w.ptnIn n = none → Refuses (.keyload p) s p b rest 3)
              ∧ ∀ q, w.ptnIn n = some q → ((q.key k).st = .loaded → Refuses (.keyload p) s p b rest 3)
                ∧ ((q.key k).st ≠ .loaded →
                    let z := match Crypto.mulPoint 384 e.1.toNat (some pt) with | some (x, _) => Crypto.beBytes x 48 | none => []
                    let opened := Crypto.unwrap (Crypto.hkdf (Crypto.beBytes e.2.2.toNat 48) z [BitVec.ofNat 8 n, BitVec.ofNat 8 k] 32) (g.args.readN 0x170 72)
                    (opened = none → Refuses (.keyload p) s p b rest 4)
                    ∧ ∀ v, opened = some v → (v.take 32 = v.drop 32 → Refuses (.keyload p) s p b rest 4)
                      ∧ (v.take 32 ≠ v.drop 32 → Answers (.keyload p) s p b rest 0 fun t => t.cores = s.cores ∧ HasPtn t p n fun r =>
                          r.key k = ⟨.loaded, BitVec.ofNat 512 (leNat v)⟩ ∧ r.loads = q.loads + 1 ∧ ∀ j < 4, j ≠ k → r.key j = q.key j)))
      ∧ (Commanded s p b 7 rest →
          (∀ q, w.ptnIn n = some q → (q.key k).st = .loaded → Answers (.keyrevoke p) s p b rest 0 fun t => t.cores = s.cores ∧ HasPtn t p n fun r =>
              (r.key k).st = .revoked ∧ r.loads = q.loads ∧ ∀ j < 4, j ≠ k → r.key j = q.key j)
          ∧ ((w.ptnIn n = none ∨ ∃ q, w.ptnIn n = some q ∧ (q.key k).st ≠ .loaded) → Refuses (.keyrevoke p) s p b rest 0))
      ∧ (Commanded s p b 8 rest →
          let parts := (g.args.le 0x108 2) % 16
          let idx := (g.args.le 0x108 2) / 256 % 8
          (parts = 0 ∨ 8 < parts ∨ parts ≤ idx → Refuses (.domain p) s p b rest 1)
          ∧ (¬(parts = 0 ∨ 8 < parts ∨ parts ≤ idx) → Answers (.domain p) s p b rest 0 fun t => t.cores = s.cores
              ∧ (t.wafer p).domid = BitVec.ofNat 64 (g.args.le 0x100 8) ∧ (t.wafer p).nparts = parts ∧ (t.wafer p).pidx = idx))
      ∧ (Commanded s p b 9 rest → Answers (.logread p) s p b rest 0 fun t => t.cores = s.cores ∧ (pageOf t p b).lhead = w.logged
          ∧ ∀ m, m ≤ w.log.length → w.log.length < 2^31 → w.logged - BitVec.ofNat 32 (g.args.le 0x100 4) = BitVec.ofNat 32 m →
            (pageOf t p b).lcount = min m 64
              ∧ ∀ i < min m 64, (pageOf t p b).resp.le (0x800 + 32 * i) 32 = ((w.log.drop (w.log.length - m)).getD i 0).toNat)
      ∧ (Commanded s p b 10 rest → w.plant.readings.wf = true → w.plant.clock < 2^20 → Answers (.sensors p) s p b rest 0 fun t => t.cores = s.cores
          ∧ (∀ o, 0x800 ≤ o → o < 0x8E0 → (pageOf t p b).resp.read o = if 0x8A6 ≤ o ∧ o < 0x8C0 then 0 else w.plant.readings.read o)
          ∧ (∃ hot : Bool, (pageOf t p b).resp.le 0x8E0 4 = (if hot then 1 else 0) + (if w.plant.throttled then 2 else 0) + w.plant.clock * 16))
      ∧ (Commanded s p b 11 rest →
          let v := g.args.le 0x100 2
          (v < 5000 ∨ 30000 < v → Refuses (.plimit p) s p b rest 1)
          ∧ (5000 ≤ v → v ≤ 30000 → Answers (.plimit p) s p b rest 0 fun t => t.cores = s.cores ∧ (t.wafer p).plant = { w.plant with plimit := v }))

/-! ## Control space, doorbells and idle completion (R13, R77, R246, R326, R327, R428, R429) -/

namespace Sys2Proof.Spec
open Sys2Proof.Machine

/-- A word of fields: each a value and the bit it begins at. -/
def atBits (l : List (Nat × Nat)) : Word := BitVec.ofNat 64 (l.map fun p => p.1 * 2^p.2).sum

/-- R326: what a core's control block holds at an offset. -/
def coreWord (m : Core) (o : Nat) : Word :=
  if o < 0x10000 then BitVec.ofNat 64 (m.near.le o 8)
  else if o < 0x10080 then m.exec.extractLsb' (64 * ((o - 0x10000) / 8)) 64
  else if o = 0x10080 then m.launchid.setWidth 64 else if o = 0x10088 then m.sseed else if o = 0x10090 then m.ssteal
  else if o = 0x10098 then m.sspill else if o = 0x100A0 then m.smode.setWidth 64 else if o = 0x100A8 then m.sarg
  else if o = 0x100B0 then m.sentry.setWidth 64 else if o = 0x100B8 then m.stvec.setWidth 64 else if o = 0x100C0 then m.saveoff.setWidth 64
  else if o = 0x100C8 then atBits [(m.snote.toNat, 0)] else 0

/-- R329: word n of a stream entry. -/
def streamWord (e : StreamEntry) (n : Nat) : Word :=
  let leg (i : Nat) : Nat := (vget e.legs i).toNat
  if n = 0 then atBits [(e.valid.toNat, 0), (e.nleg, 1), (e.leg, 3), (e.islots, 8), (e.wdog, 12)]
  else if n = 1 then atBits [(leg 0, 0), (leg 1, 32)] else if n = 2 then atBits [(leg 2, 0), (leg 3, 32)]
  else atBits [(e.renorm, 0), (e.poison, 16), (e.fails, 32), (e.flags.toNat, 48)]

/-- R304: a channel's block; the bits of XCUT and YCUT that cut nothing read as zero. -/
def channelWord (s : State) (c : CoreId) (n o : Nat) : Word :=
  let ch := s.chan c n
  let busy := s.cores.any fun p => p.2.barmask.getLsbD n && p.2.arrived.getLsbD n && s.samePtn c p.1
  if o = 0 then atBits [(ch.or.toNat, 0), (busy.toNat, 1)]
  else if 0x40 ≤ o ∧ o < 0x80 then (ch.xcut &&& BitVec.ofNat 512 (2^s.width c - 2)).extractLsb' (64 * ((o - 0x40) / 8)) 64
  else if 0x80 ≤ o ∧ o < 0xC0 then (ch.ycut &&& BitVec.ofNat 512 (2^512 - 2)).extractLsb' (64 * ((o - 0x80) / 8)) 64 else 0

/-- R352: the ring record of a Halif port of the partition's isles. -/
def ringWord (s : State) (c : CoreId) (q : Ptn) (k n : Nat) : Word :=
  let r := q.ringRec k
  if (s.wafer (cPart c)).hasRing q k = false then 0
  else if n = 0 then r.w0 else if n = 1 then r.buf else if n = 2 then atBits [(r.chunk, 0), (r.sem, 32), (r.sv.toNat, 36)]
  else if n = 3 then atBits [(r.run.toNat, 1), (r.inc.toNat, 2)] else 0

/-- R371: the far control block; ROOT, LEAFVA and CNTVA are kept in place. -/
def farWord (b : FarBlock) (o : Nat) : Word :=
  if o = 0 then atBits [(b.en.toNat, 0), (b.root, 0)] else if o = 8 then atBits [(b.pwait, 0)] else if o = 0x10 then atBits [(b.size.toNat, 0), (b.leafva, 0)]
  else if o = 0x18 then b.leafw1 else if o = 0x20 then b.leafw0 else if o = 0x28 then atBits [(b.op.isSome.toNat, 0), (b.err.toNat, 1)]
  else if o = 0x38 then atBits [(b.cntva, 0)] else if o = 0x48 then atBits [(b.cntval, 0)]
  else if 0x200 ≤ o ∧ o < 0x400 then vget b.groups ((o - 0x200) / 8) else 0

/-- R376: the block of strait j. -/
def straitWord (s : State) (c : CoreId) (q : Ptn) (j o : Nat) : Word :=
  match (s.wafer (cPart c)).straitOf q j with
  | none => 0
  | some i =>
    let t := (s.wafer (cPart c)).strait i
    let key (k : Nat) : Nat := match (q.key k).st with | .empty => 0 | .loaded => 1 | .revoked => 2
    if o = 0 then atBits [(t.up.toNat, 0), (t.rate.toNat, 1), (t.width, 2), (t.ide.toNat, 7)]
    else if o = 8 then atBits [(key 0, 0), (key 1, 2), (key 2, 4), (key 3, 6)]
    else if 0x100 ≤ o ∧ o < 0x200 then
      match t.slots.find? fun g => g.idx == (o - 0x100) / 16 with
      | none => 0
      | some g =>
        if o % 16 = 8 then g.addr
        else atBits ([(1, 0), (g.wpark.toNat, 1), (g.cause, 2)]
          ++ match s.farCmd g.cmd with | some m => [(m.strand.1, 11), (s.coord m.core, 13)] | none => [])
    else 0

/-- R400: the error ring's block. -/
def errorRingWord (b : RingBlock) (o : Nat) : Word :=
  if o = 0 then atBits [(b.rbase, 5), (b.rlog, 24), (b.rsem, 32), (b.rsv.toNat, 36), (b.en.toNat, 37)] else if o = 8 then b.head.setWidth 64
  else if o = 0x10 then b.tail.setWidth 64 else if o = 0x18 then b.lost.setWidth 64 else 0

/-- R428: the mailbox page as the supervisor reads it. -/
def mailWord (m : Mailbox) (o : Nat) : Word :=
  if o < 0x80 then m.launch.extractLsb' (64 * (o / 8)) 64
  else if 0x100 ≤ o ∧ o < 0x180 then m.reply.extractLsb' (64 * ((o - 0x100) / 8)) 64
  else if 0x200 ≤ o ∧ o < 0x280 then m.lcopy.extractLsb' (64 * ((o - 0x200) / 8)) 64
  else if o = 0x88 then m.sigword
  else if o = 0x90 then atBits [(m.st.toNat, 0), (m.ovr.toNat, 3), (m.rcause.toNat, 4), (m.lastid.toNat, 32)]
  else if o = 0x98 then m.doneword else 0

/-- R347, R401 and the blocks above: word o of block n of the partition of core c. -/
def blockWord (s : State) (c : CoreId) (q : Ptn) (n o : Nat) : Word :=
  match n with
  | 1 => if o < 0x1000 then channelWord s c (o / 0x100) (o % 0x100) else 0
  | 2 => if o = 0 then atBits [(q.comp.roots, 0), (q.comp.dsem, 8), (q.comp.inc.toNat, 12), (q.comp.pcnt, 16)] else if o = 8 then q.comp.done else 0
  | 3 => if o < 0x1000 then ringWord s c q (o / 0x40) (o % 0x40 / 8) else 0
  | 4 => farWord q.far o
  | 5 => straitWord s c q (o / 0x400) (o % 0x400)
  | 6 => errorRingWord q.ring o
  | 7 => if o = 0 then atBits ([(q.pre.saving.toNat, 2), (q.pre.held.toNat, 3)]
          ++ match q.pre.exempt with | some (d, t) => [(1, 4), (t.1, 5), (s.coord d, 7)] | none => [])
        else if o = 8 then q.pre.count.setWidth 64 else 0
  | 8 => mailWord (vget (s.wafer (cPart c)).mail q.slot) o
  | _ => 0

/-- R246, R326, R329: the word at a CTRL address, as a strand of core c reads it; one that no chapter assigns reads as zero. -/
def ctrlWord (s : State) (c : CoreId) (a : Word) : Word :=
  let kind := a.extractLsb' 32 6
  let core := if a.extractLsb' 59 1 = 0 then
      (s.coreAt c (a.extractLsb' 56 3).toNat (a.extractLsb' 47 9).toNat (a.extractLsb' 38 9).toNat).filter fun h => cPart h == cPart c
    else none
  if kind = 2 ∧ a.extractLsb' 17 15 = 0 then match core with | some h => coreWord (s.core h) (a.extractLsb' 0 17).toNat | none => 0
  else if kind = 1 ∧ a.extractLsb' 11 21 = 0 then
    match core with | some h => streamWord ((s.core h).stream (a.extractLsb' 5 6).toNat) (a.extractLsb' 3 2).toNat | none => 0
  else if kind = 0 ∧ a.extractLsb' 38 22 = 0 then
    match s.ptnOf c with | some q => blockWord s c q (a.extractLsb' 16 16).toNat (a.extractLsb' 0 16).toNat | none => 0
  else 0

end Sys2Proof.Spec

/-- R246, R326: an S-mode LD.D and ST.D of an aligned CTRL address are performed: the load reads at once the word that the tables of R304, R326,
R329, R347, R352, R371, R376, R400, R401 and R428 put there, the store writes it at
the head of its queue; in U mode they trap (memory cause 1), misaligned ones (cause 5) and other widths (cause 0) too. A write of a core's
control block puts its value into the register of R326 and changes no other core; NWIN writes 8 bytes of its near store, EXMAP 64 execute
bits without those of lines 1,020 to 1,023, and REGISTER_WRITE does what the supervisor's store does. R327, R428, R429: a launch doorbell of
an IDLE mailbox copies LAUNCH to LCOPY, makes it PENDING and sends the lead core a tag-63 message of code 1 with the launch's id; of any
other it sets OVR. A signal doorbell of a mailbox in use sends code 2 with SIGWORD. IRQ sends the slot's MSI-X vector. When all target cores
of a running launch without roots are idle, its completion word gets 0 and its semaphore an increment, once.
R124, R220, R290: a write of a core's LAUNCHID starts it for that launch: its retained strands, accumulators, bindings, messages and dispatch mask
are as formation leaves them; of the lead core S3 and what belongs to the supervisor stay. The host sees STATE 4 while the partition is held (R402).
That idle completion is the literal test of R327, once, and that the write of LAUNCHID starts a core, are the model's readings (logs 71 and 96). -/
def Obligations.ControlSpaceResult : Prop :=
  ((∀ (s : State) (d a : BitVec 5) (o : BitVec 12) (z : BitVec 3),
     let ea := s.ctx.getX a + (o.signExtend 64 <<< z.toNat)
     ea.extractLsb' 60 4 = 0xF#4 →
     (z = 3 → s.ctx.priv = true → ea.toNat % 8 = 0 → Completes (.ld d a z o) s 4 (WroteX d (ctrlWord s s.cur.1 ea))
         ∧ (s.pbcOver (.st d a z o) = false → Queues (.st d a z o) s 4 true))
     ∧ (z = 3 → s.ctx.priv = false → Traps (.ld d a z o) s 0x084 ea ∧ Traps (.st d a z o) s 0x084 ea)
     ∧ (z = 3 → s.ctx.priv = true → ea.toNat % 8 ≠ 0 → Traps (.ld d a z o) s 0x094 ea ∧ Traps (.st d a z o) s 0x094 ea)
     ∧ (z.toNat ≤ 4 → z ≠ 3 → Traps (.ld d a z o) s 0x080 ea ∧ Traps (.st d a z o) s 0x080 ea))
   ∧ (∀ (s : State) (c : CoreId) (k : Fin 4) (e : Entry) (es : List Entry) (d a : BitVec 5) (o : BitVec 12) (h : CoreId) (off : Nat), AtHead s c k e es →
       e.instr = .st d a 3 o →
       let ea := e.snap.getX a + (o.signExtend 64 <<< 3)
       let v := e.snap.getX d
       ea.extractLsb' 60 4 = 0xF#4 → ea.extractLsb' 32 6 = 2#6 → (ea.extractLsb' 0 32).toNat = off → off < 0x20000 → s.ctrlCore c ea = some h →
       let into (now : Core) : Prop := ∃ t, exec (.storeQueueRelease c k.1) s = .next t ∧ { t.core h with strands := (s.core h).strands } = now
         ∧ (∀ f, f ≠ h → f ≠ c → t.core f = s.core f) ∧ (∀ f u, (f, u) ≠ (c, k) → t.strand f u = s.strand f u) ∧ Left id id c k e es s t
       let m := s.core h
       (off = 0x10080 →
           let lead : Prop := ∃ q, s.ptnOf h = some q ∧ leadCore (cPart h) q = h
           ∃ t, exec (.storeQueueRelease c k.1) s = .next t ∧ (∀ f, f ≠ h → f ≠ c → t.core f = s.core f)
             ∧ (c ≠ h → ∀ u, u ≠ k → t.strand c u = s.strand c u) ∧ (t.strand c k).sq = es ∧ (t.strand c k).ctx = (s.strand c k).ctx
             ∧ (let n := t.core h
                n.launchid = v.setWidth 32 ∧ n.near = m.near ∧ n.vault = m.vault ∧ n.exec = m.exec ∧ n.acc = Core.formed.acc ∧ n.holder = Core.formed.holder
                  ∧ (∀ g < 63, vget n.bindings g = none)
                  ∧ (¬lead → n.recv = [] ∧ n.sendq = [] ∧ n.dmask = 0 ∧ vget n.bindings 63 = some (startBinding 0xFF00))
                  ∧ (lead → n.recv = (m.recv.filter fun y => y.tag == 63) ∧ vget n.bindings 63 = vget m.bindings 63)
                  ∧ ∀ u, (u = 3 → ¬lead) → (h, u) ≠ (c, k) → (n.strand u).st = if (m.strand u).st = .retained then .free else (m.strand u).st))
         ∧ (off = 0x10088 → into { m with sseed := v })
         ∧ (off = 0x10090 → into { m with ssteal := v }) ∧ (off = 0x10098 → into { m with sspill := v &&& 0x0007FFFF0007FFFF })
         ∧ (off = 0x100A0 → into { m with smode := v.setWidth 9 }) ∧ (off = 0x100A8 → into { m with sarg := v })
         ∧ (off = 0x100B0 → into { m with sentry := v.setWidth 16 }) ∧ (off = 0x100B8 → into { m with stvec := v.setWidth 16 })
         ∧ (off = 0x100C0 → into { m with saveoff := v.setWidth 7 }) ∧ (off = 0x100C8 → into { m with snote := v.getLsbD 0 })
         ∧ (0x10100 ≤ off → into m))
   ∧ (∀ (s : State) (c : CoreId) (off data : Nat), s.memOk = true → off < 0x10000 → off % 8 = 0 →
       ∃ t, exec (.nwin c off 1 data) s = .next t ∧ (∀ d, d ≠ c → t.core d = s.core d)
         ∧ (∀ n, (t.core c).near.read n = if off ≤ n ∧ n < off + 8 then BitVec.ofNat 8 (data % 2^64 / 256^(n - off)) else (s.core c).near.read n)
         ∧ { t.core c with near := (s.core c).near, stale := (s.core c).stale, nearUe := (s.core c).nearUe } = s.core c)
   ∧ (∀ (s : State) (c : CoreId) (n data : Nat), n < 16 →
       ∃ t, exec (.exmap c n data) s = .next t ∧ (∀ d, d ≠ c → t.core d = s.core d) ∧ { t.core c with exec := (s.core c).exec } = s.core c
         ∧ ∀ i < 1024, (t.core c).exec.getLsbD i = if 64 * n ≤ i ∧ i < 64 * n + 64 ∧ i < 1020 then data.testBit (i - 64 * n) else (s.core c).exec.getLsbD i)
   ∧ ∀ (s : State) (p slot addr data : Nat) (q : Ptn), p < 8 → (s.wafer p).ptnIn slot = some q → addr % 8 = 0 →
       exec (.registerWrite p slot addr data) s = .next (s.ctrlWrite (leadCore p q) 3 (BitVec.ofNat 64 addr) (BitVec.ofNat 64 data)))
  ∧ ∀ (s : State) (p slot : Nat) (q : Ptn), p < 8 → slot < 16 → (s.wafer p).ptnIn slot = some q →
      let m := vget (s.wafer p).mail slot
      let shown := (s.wafer p).mailShown slot
      let lead := mkCore p 0 (30 * q.first)
      let word (n : Nat) : Nat := (m.lcopy.extractLsb' (64 * n) 64).toNat
      let sends (t : State) (code v : Word) : Prop := ∃ f, t.msgs = s.msgs ++ [f] ∧ f.dest = lead ∧ f.tag = 63
        ∧ f.payload = 0#256 ++ 0#64 ++ (0#64 ++ v ++ code)
      (q.pre.held = true → shown.st = 4) ∧ (q.pre.held = false → shown = m)
        ∧ (shown.st = 1 → q.kept = none → ∃ t, exec (.doorbellLaunch p slot) s = .next t ∧ t.cores = s.cores
          ∧ vget (t.wafer p).mail slot = { m with lcopy := m.launch, st := 2 } ∧ sends t 1 ((m.launch.setWidth 32).setWidth 64))
        ∧ (shown.st ≠ 1 → ∃ t, exec (.doorbellLaunch p slot) s = .next t ∧ t.cores = s.cores ∧ t.msgs = s.msgs ∧ vget (t.wafer p).mail slot = { m with ovr := true })
        ∧ (1 ≤ shown.st.toNat → shown.st.toNat ≤ 4 → ∃ t, exec (.doorbellSignal p slot) s = .next t ∧ t.cores = s.cores ∧ t.parts = s.parts ∧ sends t 2 m.sigword)
        ∧ (∃ t, exec (.irq p slot) s = .next t ∧ t.cores = s.cores ∧ (t.wafer p).msix = (s.wafer p).msix ++ [(q.port, 1 + slot)]
            ∧ { t with parts := s.parts } = s)
        ∧ (m.st = 3 → word 10 % 256 = 0 → q.reported = false → s.frozen lead = false → s.memOk = true → s.parks = [] →
            s.placeAway lead (BitVec.ofNat 64 (word 9)) = false →
            (∀ c ∈ targets p (word 3), (s.core c).launchid.toNat = word 0 % 2^32 ∧ s.idle c (c == lead) = true) →
            ∀ h o, s.place lead (BitVec.ofNat 64 (word 9)) = .vault h o → s.stops lead h = none →
            ∃ t, exec (.launchIdleComplete p slot) s = .next t ∧ (∀ d, d ≠ h → t.core d = s.core d)
              ∧ (∀ n, (t.core h).vault.read n = if o ≤ n ∧ n < o + 8 then 0 else (s.core h).vault.read n) ∧ (HasPtn t p slot fun r => r.reported = true)
              ∧ t.semq = s.semq ++ [(lead, word 10 / 256 % 16)])
        ∧ (m.st ≠ 3 ∨ word 10 % 256 ≠ 0 ∨ q.reported = true → exec (.launchIdleComplete p slot) s = .next s)

/-! ## Power, clock and Halif links (R32, R430, R431, R436 to R442) -/

namespace Sys2Proof.Spec
open Sys2Proof.Machine

/-- Of part p only its wafer has changed, and no core. -/
def PartOnly (s t : State) (p : Nat) : Prop := t.cores = s.cores ∧ ∀ r < 8, r ≠ p → t.wafer r = s.wafer r

/-- R437: the part at the far end of Halif port n. -/
def peerIndex (w : Wafer) (n : Nat) : Nat :=
  (w.pidx + (if n % 4 = 0 then 1 else if n % 4 = 1 then 2 else if n % 4 = 2 then w.nparts - 1 else w.nparts - 2)) % w.nparts

/-- R437: port m of part r is at the far end of Halif port n. -/
def Peer (s : State) (p n r m : Nat) : Prop :=
  let w := s.wafer p
  2 ≤ w.nparts ∧ ¬(w.nparts = 2 ∧ n % 2 = 1) ∧ s.partOf w.domid (peerIndex w n) = some r ∧ m = n / 4 * 4 + (n % 4 + 2) % 4

/-- R436: the two ends of a port belong to one partition's run and carry the same logical isle. -/
def Carries (s : State) (p n : Nat) : Prop :=
  let w := s.wafer p
  w.nparts ≠ 0 ∧ ∃ r i q t, s.partOf w.domid (peerIndex w n) = some r ∧ w.chart.logIsle (n / 4) = some i ∧ w.ptnAt (30 * i) = some q
    ∧ (s.wafer r).chart.logIsle (n / 4) = some i ∧ (s.wafer r).ptnAt (30 * i) = some t ∧ q.dom = true ∧ t.dom = true ∧ q.first = t.first ∧ q.count = t.count

end Sys2Proof.Spec

/-- R32, R430, R431, R440 to R442: a module whose firmware verifies comes up with nothing formed and nothing retained, its clock at 1.5 GHz and
its limit at 30,000 W, its secret locked and its two keys those derived from it; one that does not stays in recovery, with BOOTFAIL in both command pages. Module power lost takes every core's state
and every partition, leaves chart, flash and far lines, and takes its Halif links down at both ends. A power window over the limit slows the clock a step to no less than 750 MHz,
one under 95% of it speeds it up; the current limit and a throttling sensor slow it, with a record each, and a sensor past its power-off
limit cuts the power. R22, R436 to R439: a cabled port of a part in a domain, whose tile and whose peer's run, trains at the rate of its cable and carries
what R436 lets it; the controllers confirm again what a port carries; a lane loss halves a link, and a failed one goes down and carries nothing; each at
both ends of the link. A failed link holds the partitions that used it on both parts.
The measurements and the keys derived from the secret are computed as the family's algorithms do (log 4), and an amendment under way is lost
with the power (log 108): both are the model's own. -/
def Obligations.PowerAndHalifResult : Prop :=
  (∀ (s : State) (p : Nat), p < 8 →
     let w := s.wafer p
     let g := w.plant
     let steps (i : Instr) (P : State → Prop) : Prop := ∃ t, exec i s = .next t ∧ PartOnly s t p ∧ P t
     let clock (n : Nat) (thr : Bool) (t : State) : Prop := (t.wafer p).plant = { g with clock := n, throttled := thr } ∧ Recorded s t p 0x1B7
     let cold (t : State) : Prop := (t.wafer p).ptns = [] ∧ (t.wafer p).retained = [] ∧ (t.wafer p).work = [] ∧ (t.wafer p).moves = [] ∧ (t.wafer p).log = []
       ∧ (t.wafer p).eph = none ∧ (t.wafer p).nparts = 0 ∧ (t.wafer p).boot.image = w.boot.image ∧ (t.wafer p).far = w.far
       ∧ (t.wafer p).chart.gen = w.chart.gen ∧ (t.wafer p).chart.failisle = w.chart.failisle ∧ (t.wafer p).chart.lostisle = w.chart.lostisle
       ∧ (t.wafer p).plant.plimit = 30000 ∧ (t.wafer p).plant.clock = 16
     (w.power = .off ∨ w.power = .boot →
         let r := w.boot.start s.draws
         let secret := Crypto.beBytes w.boot.secret.toNat 32
         let digest := Crypto.sha384 w.boot.image
         (r.1 = true → steps (.powerOn p) fun t => (t.wafer p).power = .run ∧ cold t
           ∧ (let b := (t.wafer p).boot
              b.locked = true ∧ b.fwmeas = BitVec.ofNat 384 (Crypto.beNat digest)
                ∧ b.attKey = BitVec.ofNat 384 (Crypto.scalarOf (Crypto.hkdf digest secret [2] 56))
                ∧ b.idPub = BitVec.ofNat 776 (Crypto.beNat (Crypto.pointBytes (Crypto.mulPoint 384 (Crypto.scalarOf (Crypto.hkdf [] secret [1] 56)) Crypto.base)))))
         ∧ (r.1 = false → steps (.powerOn p) fun t => (t.wafer p).power = .recovery ∧ cold t ∧ ∀ b, (pageOf t p b).status = 6))
       ∧ (w.power = .run ∨ w.power = .recovery → exec (.powerOn p) s = .next s)
       ∧ (s.fars = [] → ∃ t, exec (.modulePowerLoss p) s = .next t ∧ (t.wafer p).power = .off ∧ cold t ∧ t.cores = s.cores.filter (fun e => cPart e.1 ≠ p)
           ∧ (∀ r < 8, r ≠ p → { t.wafer r with halifs := (s.wafer r).halifs, ptns := (s.wafer r).ptns } = s.wafer r)
           ∧ ∀ n r m, (w.halif n).up = true → Peer s p n r m → r ≠ p → ((t.wafer r).halif m).up = false)
       ∧ (w.power = .run → g.plimit < g.power → 8 < g.clock → steps (.powerWindow p) (clock (g.clock - 1) true))
       ∧ (w.power = .run → g.plimit < g.power → g.clock ≤ 8 → exec (.powerWindow p) s = .next s)
       ∧ (w.power = .run → g.power ≤ g.plimit → 100 * g.power < 95 * g.plimit → g.clock < 16 →
           steps (.powerWindow p) (clock (g.clock + 1) (g.throttled && g.clock + 1 != 16)))
       ∧ (w.power = .run → g.power ≤ g.plimit → 95 * g.plimit ≤ 100 * g.power → exec (.powerWindow p) s = .next s)
       ∧ (w.power = .run → 8 < g.clock → steps (.currentLimit p) (clock (g.clock - 1) g.throttled))
       ∧ (∀ n, w.power = .run → g.past n false = true → 8 < g.clock → steps (.sensorThrottle p n) fun t =>
           (t.wafer p).plant.clock = g.clock - 1 ∧ ∃ a b, (t.wafer p).errq = w.errq ++ [a, b] ∧ a.cause = 0x1B7 ∧ b.cause = 0x1BF)
       ∧ (∀ n, w.power = .run → g.past n true = true → exec (.sensorPowerOff p n) s = exec (.modulePowerLoss p) s)
       ∧ (∀ n, g.past n false = false → exec (.sensorThrottle p n) s = .next s) ∧ (∀ n, g.past n true = false → exec (.sensorPowerOff p n) s = .next s)
       ∧ (∀ n < 64, g.past n false = true ↔ 95 * 16 ≤ (BitVec.ofNat 16 (g.readings.le (0x800 + 2 * n) 2)).toInt)
       ∧ (∀ n < 64, g.past n true = true ↔ 105 * 16 ≤ (BitVec.ofNat 16 (g.readings.le (0x800 + 2 * n) 2)).toInt))
  ∧ ∀ (s : State) (p n : Nat), p < 8 → n < 64 →
      let w := s.wafer p
      let h := w.halif n
      let others (t : State) : Prop := t.cores = s.cores ∧ ∀ m, m ≠ n → (t.wafer p).halif m = w.halif m
      let ends (t : State) (P : Halif → Halif → Prop) : Prop :=
        P h ((t.wafer p).halif n) ∧ ∀ r m, Peer s p n r m → P ((s.wafer r).halif m) ((t.wafer r).halif m)
      (∀ r m, Peer s p n r m → r ≠ p) →
      (∀ r m, Peer s p n r m → h.cableGen = 1 ∨ h.cableGen = 2 → w.tileRuns (halifTile n) = true → (s.wafer r).tileRuns (halifTile m) = true →
          ∃ t, exec (.halifLinkTrain p n) s = .next t ∧ others t ∧ ends t fun _ x => x.up = true ∧ x.gen = h.cableGen ∧ x.half = false ∧ x.failed = false
            ∧ (x.carries = true ↔ Carries s p n))
        ∧ (∃ t, exec (.halifPeerConfirmation p n) s = .next t ∧ others t ∧ ends t fun y x => x = { y with carries := x.carries }
            ∧ (x.carries = true ↔ y.up = true ∧ Carries s p n))
        ∧ (h.up = true → ∃ t, exec (.halifLaneLoss p n) s = .next t ∧ others t ∧ ends t fun y x => x = { y with half := true })
        ∧ (h.up = false → exec (.halifLaneLoss p n) s = .next s ∧ exec (.halifLinkFail p n) s = .next s)
        ∧ (h.up = true → ∃ t, exec (.halifLinkFail p n) s = .next t ∧ others t
            ∧ (ends t fun y x => x = { y with up := false, carries := false, failed := true })
            ∧ ∀ r m i q, (r = p ∧ m = n) ∨ Peer s p n r m → ((s.wafer r).halif m).carries = true → (s.wafer r).chart.logIsle (m / 4) = some i →
                (s.wafer r).ptnAt (30 * i) = some q → q.dom = true → (s.wafer r).ptnIn q.slot = some q →
                HasPtn t r q.slot fun x => x.amendHold.isSome = true)

/-! ## The whole machine -/

namespace Sys2Proof.Spec
open Sys2Proof.Machine

/-- R252: what has outlived its issue on a core is numbered below the next issue, and each store queue stands in program order. -/
def CoreNumbered (k : Core) : Prop := UnitNumbered k ∧ ∀ u, Numbered (k.strand u) k.seq ∧ (k.strand u).sq.Pairwise fun a b => a.seq < b.seq

/-- R252: every core is numbered so. -/
def InProgramOrder (s : State) : Prop := ∀ c ∈ s.cores, CoreNumbered c.2

/-- The state in which the move that heads the schedule is made: the schedule without it, a step later. -/
def moved (s : State) (rest : List Choice) : State := ({ s with agenda := rest } : State).tick

/-- R72 steps 1 to 4: the word at `a` can be fetched, and no store of the core to the near store waits to be seen by fetches (R79). -/
structure Fetchable (k : Core) (a : Word) : Prop where
  aligned : a.toNat % 4 = 0
  inside : a.toNat < 0x10000
  execute : k.execLine (a.toNat / 64) = true
  sound : k.nearUe = []
  settled : k.stale = []

/-- R133: it is strand t of core c whose turn it is in s, and s' is the state in which it is: the strand is promoted and has to issue, or the
schedule names it and time has passed. -/
def TurnOf (s s' : State) (c : CoreId) (t : Fin 4) : Prop :=
  (s.forced = some (c, t) ∧ s' = s.drawn) ∨ (s.forced = none ∧ ∃ rest, s.agenda = .strand c t :: rest ∧ s' = moved s rest)

end Sys2Proof.Spec

/-- R72, R131, R132: a step that gives a strand its turn fetches the bytes at its PC and runs what they decode to: where they decode to a
well-formed instruction that is eligible and selected, the step is `exec` of it in the same registers and memories, with the strand as the running
one; what it overwrites of older instructions is noted (R252) and it is seen which strands are eligible then (R133). Bytes that decode to nothing, or
to an ill-formed instruction, and a misaligned PC trap with the cause R392 gives. A step that the schedule gives to an event is `exec` of the event.
The schedule and the passing of time between steps are the model's own (log 1). -/
def Obligations.StepRunsDecoded : Prop :=
  (∀ (s s' : State) (c : CoreId) (t : Fin 4) (i : Instr) (after : List (BitVec 8)), TurnOf s s' c t →
    let k := s.core c
    let x := (s.strand c t).ctx
    Fetchable k x.pc → decode (k.near.readN x.pc.toNat 8) = .ok (i, after) → check i = none → (after = [] → Fetchable k (x.pc + 4)) →
    s'.eligible c t i = true → s'.selected c t = true →
    privTrap x i = true ∨ (s.strand c t).badOf (allReads x i) = none →
    let run := s'.starting c t i
    step s = onNext (exec i run) (fun u => (u.overwrote c t i k.seq x.instret).watch)
      ∧ run.cur = (c, t) ∧ run.ctx = x ∧ run.agenda = s'.agenda
      ∧ (∀ d, { run.core d with strands := (s.core d).strands, last := (s.core d).last, cycle := (s.core d).cycle, issued := (s.core d).issued,
                                promoted := (s.core d).promoted, prior := (s.core d).prior } = s.core d)
      ∧ ∀ d u, (run.strand d u).ctx = (s.strand d u).ctx ∧ (run.strand d u).st = (s.strand d u).st ∧ (run.strand d u).loads = (s.strand d u).loads
          ∧ (run.strand d u).sq = (s.strand d u).sq)
  ∧ (∀ (s s' : State) (c : CoreId) (t : Fin 4) (w : Nat), TurnOf s s' c t →
    let k := s.core c
    let x := (s.strand c t).ctx
    s'.selected c t = true → x.trapAt = none →
    let traps (cause : Nat) (tval : Word) : Prop := ∃ r, step s = .next r ∧ TrapsAt x (r.strand c t).ctx cause tval
    (x.pc.toNat % 4 ≠ 0 → traps 0x00A x.pc)
      ∧ (Fetchable k x.pc → k.near.le x.pc.toNat 4 = w → longMajor (w / 2^25 % 2^7) = false →
          (w = 0 → traps 0x000 0) ∧ (w = 2^32 - 1 → traps 0x001 (BitVec.ofNat 64 w))
            ∧ (identify w 0 = .error .major → traps 0x002 (BitVec.ofNat 64 w)) ∧ (identify w 0 = .error .function → traps 0x003 (BitVec.ofNat 64 w))
            ∧ (identify w 0 = .error .field → traps 0x004 (BitVec.ofNat 64 w))
            ∧ ∀ i e, identify w 0 = .ok i → check i = some e → traps (illCause e) (BitVec.ofNat 64 w)))
  ∧ ∀ (s : State) (e : Instr) (rest : List Choice), s.forced = none → s.agenda = .event e :: rest → encode e = none →
      step s = onNext (exec e (moved s rest)) State.watch

/-- R64 to R71: the words of a well-formed instruction decode to it, with every operand at every value its field admits; and bytes that decode to a
well-formed instruction are its words: no two words mean the same. -/
def Obligations.DecodeEncodeAgree : Prop :=
  (∀ (i : Instr) (n w : Nat), encode i = some (n, w) → WellFormed i → w < 2^n ∧ decodeTableWord n w = some i)
  ∧ ∀ (bs after : List (BitVec 8)) (i : Instr), decode bs = .ok (i, after) → WellFormed i →
      ∃ n w, encode i = some (n, w) ∧ bs = wordBytes (w % 2^32) ++ (if n = 64 then wordBytes (w / 2^32) else []) ++ after

/-- R63 to R71: words the chapters write out, one or more of each family, decode to the instructions they stand for. -/
def Obligations.WordsDecode : Prop :=
  decodeTableWord 32 0x02531C00 = some (.add 5 6 7 false) ∧ decodeTableWord 64 0x0000000432028000 = some (.loop 0 5 4)
    ∧ decodeTableWord 32 0x40531C01 = some (.fadd 5 6 7 0 false 1) ∧ decodeTableWord 32 0x84411802 = some (.vperm 4 2 6 0 0)
    ∧ decodeTableWord 64 0x00000000AA312400 = some (.mxpq 3 2 9 0) ∧ decodeTableWord 32 0x5C428040 = some (.ldv 4 5 0 64)
    ∧ decodeTableWord 32 0x5AA43000 = some (.stfe 10 8 0) ∧ decodeTableWord 32 0x68531C30 = some (.amoAdd 5 6 7 3)
    ∧ decodeTableWord 32 0xC6010001 = some (.semw 2 0) ∧ decodeTableWord 32 0x6E000000 = some (.fence 0 false false false false)
    ∧ decodeTableWord 64 0x00010C00C00A8000 = some (.send 0 21 0 0 0 3 1) ∧ decodeTableWord 32 0xC8531C00 = some (.fork 5 6 7)
    ∧ decodeTableWord 32 0xC8038001 = some (.join 7) ∧ decodeTableWord 32 0xB4832403 = some (.spull 8 6 9 false)
    ∧ decodeTableWord 64 0x00000000B2030000 = some (.fmget 6 0) ∧ decodeTableWord 32 0xE0000000 = some .nop
    ∧ decodeTableWord 32 0xE0000002 = some .eret ∧ decodeTableWord 32 0xE0530005 = some (.chart 5 6)

/-- R250: every step keeps the canonical form of every core's near store and vault, whatever moves in it. -/
def Obligations.StepKeepsMemory : Prop :=
  ∀ s t : State, s.memOk = true → step s = .next t → t.memOk = true

/-- R252: every step keeps the numbering that program order rests on: what has outlived its issue is numbered below the next issue, and store
queues stand in program order. -/
def Obligations.StepKeepsProgramOrder : Prop :=
  ∀ s t : State, InProgramOrder s → step s = .next t → InProgramOrder t

/-- R420, R423, R440, R441: after power-on no partition exists and none is retained, every mailbox is zero, no command runs, nothing is on its way,
the power limit is 30,000 W and the clock 1.5 GHz; both invariants hold. That the chart is whole and a core that nothing has written holds zeros is the
model's choice (logs 6 and 8). -/
def Obligations.ResetState : Prop :=
  State.reset.memOk = true ∧ InProgramOrder State.reset
    ∧ (∀ p < 8, let w := State.reset.wafer p
        w.power = .boot ∧ w.ptns = [] ∧ w.retained = [] ∧ w.work = [] ∧ w.moves = [] ∧ w.log = [] ∧ w.nparts = 0 ∧ w.eph = none
          ∧ w.errq = [] ∧ w.msix = []
          ∧ (∀ n < 16, vget w.mail n = Mailbox.zero) ∧ (∀ b, (pageOf State.reset p b).status = 0) ∧ w.plant.plimit = 30000 ∧ w.plant.clock = 16)
    ∧ (∀ c, State.reset.core c = Core.formed ∧ ∀ k, (State.reset.strand c k).st = .free)
    ∧ State.reset.net = [] ∧ State.reset.acks = [] ∧ State.reset.msgs = [] ∧ State.reset.notices = [] ∧ State.reset.fars = []
    ∧ State.reset.parks = [] ∧ State.reset.steals = [] ∧ State.reset.slotNotes = [] ∧ State.reset.reports = [] ∧ State.reset.bulkAcks = []
    ∧ State.reset.semq = []
end

