-- ==== Sys2Proof/Laws/Bytes.lean ====
section
/-!
SUPPORT. Laws of tables and byte memories: what is read after a write, and that every write keeps the canonical form.
-/
namespace Sys2Proof.Machine

/-! ## Tables -/

@[simp] theorem tget_tset_same {α : Type} (d v : α) (a : Nat) (t : List (Nat × α)) : tget d (tset v a t) a = v := by
  induction t with
  | nil => simp [tset, tget]
  | cons p t ih =>
    obtain ⟨k, w⟩ := p
    unfold tset
    by_cases h : k = a
    · simp [h, tget]
    · by_cases g : a < k
      · simp [h, g, tget]
      · simp [h, g, tget, ih]

theorem tget_tset_ne {α : Type} (d v : α) {a b : Nat} (h : b ≠ a) (t : List (Nat × α)) : tget d (tset v a t) b = tget d t b := by
  induction t with
  | nil => simp [tset, tget, Ne.symm h]
  | cons p t ih =>
    obtain ⟨k, w⟩ := p
    unfold tset
    by_cases e : k = a
    · subst e
      simp [tget, Ne.symm h]
    · by_cases g : a < k
      · have : b < k ∨ k ≤ b := by omega
        simp only [e, g, if_true, if_false, tget]
        grind
      · simp only [e, g, if_false, tget, ih]

/-! ## Byte memories -/

/-- The canonical form, from the head. -/
theorem Memory.wf_cons (c : Host.Cell) (m : Memory) :
    Memory.wf (c :: m) = true ↔ c.2 ≠ 0 ∧ (∀ d ∈ m, c.1 < d.1) ∧ Memory.wf m = true := by
  induction m generalizing c with
  | nil => simp [Memory.wf]
  | cons d m ih =>
    rw [Memory.wf]
    simp only [Bool.and_eq_true, bne_iff_ne, ne_eq, decide_eq_true_eq, List.mem_cons, forall_eq_or_imp]
    constructor
    · rintro ⟨⟨h1, h2⟩, h3⟩
      refine ⟨h1, ⟨h2, fun e he => ?_⟩, h3⟩
      have := ((ih d).mp h3).2.1 e he
      omega
    · rintro ⟨h1, ⟨h2, _⟩, h3⟩
      exact ⟨⟨h1, h2⟩, h3⟩

theorem Memory.read_below (m : Memory) (a : Nat) (h : ∀ d ∈ m, a < d.1) : m.read a = 0 := by
  cases m with
  | nil => rfl
  | cons c m =>
    obtain ⟨k, w⟩ := c
    have : a < k := h (k, w) (by simp)
    simp [Memory.read, tget, this, Nat.ne_of_gt this]

theorem mem_tset (v : Byte) (a : Nat) (m : Memory) (d : Host.Cell) (h : d ∈ tset v a m) : d = (a, v) ∨ d ∈ m := by
  induction m with
  | nil => simp_all [tset]
  | cons p t ih =>
    obtain ⟨k, w⟩ := p
    unfold tset at h
    split at h
    · simp at h ⊢
      grind
    · split at h
      · simp at h ⊢
        grind
      · simp at h ⊢
        grind

theorem mem_tdel (a : Nat) (m : Memory) (d : Host.Cell) (h : d ∈ tdel a m) : d ∈ m := by
  induction m with
  | nil => simp_all [tdel]
  | cons p t ih =>
    obtain ⟨k, w⟩ := p
    unfold tdel at h
    split at h
    · simp [h]
    · split at h
      · exact h
      · simp at h ⊢
        grind

theorem Memory.wf_tset (m : Memory) (a : Nat) (b : Byte) (hb : b ≠ 0) (h : m.wf = true) : Memory.wf (tset b a m) = true := by
  induction m with
  | nil => simpa [tset, Memory.wf] using hb
  | cons p t ih =>
    obtain ⟨k, w⟩ := p
    have hw := (Memory.wf_cons _ _).mp h
    unfold tset
    split
    · next e => subst e; exact (Memory.wf_cons _ _).mpr ⟨hb, hw.2.1, hw.2.2⟩
    · split
      · refine (Memory.wf_cons _ _).mpr ⟨hb, ?_, h⟩
        intro d hd
        simp at hd
        rcases hd with rfl | hd
        · assumption
        · have := hw.2.1 d hd
          simp at this
          omega
      · refine (Memory.wf_cons _ _).mpr ⟨hw.1, ?_, ih hw.2.2⟩
        intro d hd
        rcases mem_tset _ _ _ _ hd with rfl | hd
        · simp
          omega
        · exact hw.2.1 d hd

theorem Memory.wf_tdel (m : Memory) (a : Nat) (h : m.wf = true) : Memory.wf (tdel a m) = true := by
  induction m with
  | nil => simp [tdel, Memory.wf]
  | cons p t ih =>
    obtain ⟨k, w⟩ := p
    have hw := (Memory.wf_cons _ _).mp h
    unfold tdel
    split
    · exact hw.2.2
    · split
      · exact h
      · exact (Memory.wf_cons _ _).mpr ⟨hw.1, fun d hd => hw.2.1 d (mem_tdel _ _ _ hd), ih hw.2.2⟩

/-- A write keeps the canonical form. -/
theorem Memory.wf_write (m : Memory) (a : Nat) (b : Byte) (h : m.wf = true) : (m.write a b).wf = true := by
  unfold Memory.write
  split
  · exact Memory.wf_tdel m a h
  · next hb => exact Memory.wf_tset m a b hb h

theorem Memory.wf_writeN (m : Memory) (a : Nat) (bs : List Byte) (h : m.wf = true) : (m.writeN a bs).wf = true := by
  induction bs generalizing m a with
  | nil => exact h
  | cons b bs ih => exact ih _ _ (Memory.wf_write m a b h)

theorem Memory.wf_putLe (m : Memory) (a n v : Nat) (h : m.wf = true) : (m.putLe a n v).wf = true := Memory.wf_writeN m a _ h

theorem Memory.read_tdel (m : Memory) (a b : Nat) (h : m.wf = true) : Memory.read (tdel a m) b = if b = a then 0 else m.read b := by
  induction m with
  | nil => simp [tdel, Memory.read, tget]
  | cons p t ih =>
    obtain ⟨k, w⟩ := p
    have hw := (Memory.wf_cons _ _).mp h
    unfold tdel
    split
    · next e =>
      subst e
      split
      · next e => subst e; exact Memory.read_below t b hw.2.1
      · next e =>
        by_cases g : b < k
        · rw [Memory.read_below t b fun d hd => Nat.lt_trans g (hw.2.1 d hd)]
          simp [Memory.read, tget, g, Ne.symm e]
        · simp [Memory.read, tget, g, Ne.symm e]
    · split
      · next e g =>
        split
        · next e => subst e; simp [Memory.read, tget, g, e]
        · rfl
      · next e g =>
        have := ih hw.2.2
        simp only [Memory.read, tget] at this ⊢
        grind

/-- R250: what is read after a write. -/
theorem Memory.read_write (m : Memory) (a b : Nat) (v : Byte) (h : m.wf = true) :
    (m.write a v).read b = if b = a then v else m.read b := by
  unfold Memory.write
  split
  · next e => subst e; exact Memory.read_tdel m a b h
  · split
    · next e => subst e; exact tget_tset_same 0 v b m
    · next e => exact tget_tset_ne 0 v e m

/-- R250: what is read after a run of bytes is written. -/
theorem Memory.read_writeN (m : Memory) (a b : Nat) (bs : List Byte) (h : m.wf = true) :
    (m.writeN a bs).read b = if a ≤ b ∧ b < a + bs.length then bs.getD (b - a) 0 else m.read b := by
  induction bs generalizing m a with
  | nil => simp [Memory.writeN] <;> omega
  | cons v bs ih =>
    rw [Memory.writeN, ih _ _ (Memory.wf_write m a v h), Memory.read_write m a b v h]
    by_cases e : b = a
    · subst e
      simp <;> omega
    · by_cases g : a + 1 ≤ b ∧ b < a + 1 + bs.length
      · have : b - a = b - (a + 1) + 1 := by omega
        have g' : a ≤ b ∧ b < a + (v :: bs).length := by simp; omega
        rw [if_pos g, if_pos g', this]
        simp
      · have g' : ¬(a ≤ b ∧ b < a + (v :: bs).length) := by simp; omega
        rw [if_neg g, if_neg g', if_neg e]

@[simp] theorem leBytes_length (v n : Nat) : (leBytes v n).length = n := by
  induction n generalizing v with
  | zero => rfl
  | succ n ih => simp [leBytes, ih]

@[simp] theorem Memory.readN_length (m : Memory) (a n : Nat) : (m.readN a n).length = n := by
  induction n generalizing a with
  | zero => rfl
  | succ n ih => simp [Memory.readN, ih]

/-- R8: a value is read back from its bytes. -/
theorem leNat_leBytes (v n : Nat) : leNat (leBytes v n) = v % 256^n := by
  induction n generalizing v with
  | zero => simp [leBytes, leNat, Nat.mod_one]
  | succ n ih =>
    simp only [leBytes, leNat, ih, BitVec.toNat_ofNat]
    rw [show (2 : Nat)^8 = 256 from rfl, Nat.pow_succ, Nat.mul_comm (256^n) 256, Nat.mod_mul]

end Sys2Proof.Machine
end

