-- ==== Sys2Proof/Laws/State.lean ====
section
/-!
SUPPORT. What an update of the state leaves alone: one lemma for each field and update, so that no proof unfolds a record update.
-/
namespace Sys2Proof.Machine

/-! ### State.putWafer -/

@[simp] theorem State.putWafer_cores (s : State) (p : Nat) (w : Wafer) : (s.putWafer p w).cores = s.cores := rfl
@[simp] theorem State.putWafer_net (s : State) (p : Nat) (w : Wafer) : (s.putWafer p w).net = s.net := rfl
@[simp] theorem State.putWafer_parks (s : State) (p : Nat) (w : Wafer) : (s.putWafer p w).parks = s.parks := rfl
@[simp] theorem State.putWafer_acks (s : State) (p : Nat) (w : Wafer) : (s.putWafer p w).acks = s.acks := rfl
@[simp] theorem State.putWafer_msgs (s : State) (p : Nat) (w : Wafer) : (s.putWafer p w).msgs = s.msgs := rfl
@[simp] theorem State.putWafer_notices (s : State) (p : Nat) (w : Wafer) : (s.putWafer p w).notices = s.notices := rfl
@[simp] theorem State.putWafer_steals (s : State) (p : Nat) (w : Wafer) : (s.putWafer p w).steals = s.steals := rfl
@[simp] theorem State.putWafer_slotNotes (s : State) (p : Nat) (w : Wafer) : (s.putWafer p w).slotNotes = s.slotNotes := rfl
@[simp] theorem State.putWafer_reports (s : State) (p : Nat) (w : Wafer) : (s.putWafer p w).reports = s.reports := rfl
@[simp] theorem State.putWafer_bulkAcks (s : State) (p : Nat) (w : Wafer) : (s.putWafer p w).bulkAcks = s.bulkAcks := rfl
@[simp] theorem State.putWafer_semq (s : State) (p : Nat) (w : Wafer) : (s.putWafer p w).semq = s.semq := rfl
@[simp] theorem State.putWafer_fars (s : State) (p : Nat) (w : Wafer) : (s.putWafer p w).fars = s.fars := rfl
@[simp] theorem State.putWafer_ids (s : State) (p : Nat) (w : Wafer) : (s.putWafer p w).ids = s.ids := rfl
@[simp] theorem State.putWafer_now (s : State) (p : Nat) (w : Wafer) : (s.putWafer p w).now = s.now := rfl
@[simp] theorem State.putWafer_ticks (s : State) (p : Nat) (w : Wafer) : (s.putWafer p w).ticks = s.ticks := rfl
@[simp] theorem State.putWafer_draws (s : State) (p : Nat) (w : Wafer) : (s.putWafer p w).draws = s.draws := rfl
@[simp] theorem State.putWafer_cur (s : State) (p : Nat) (w : Wafer) : (s.putWafer p w).cur = s.cur := rfl
@[simp] theorem State.putWafer_agenda (s : State) (p : Nat) (w : Wafer) : (s.putWafer p w).agenda = s.agenda := rfl

/-! ### State.modWafer -/

@[simp] theorem State.modWafer_cores (s : State) (p : Nat) (f : Wafer → Wafer) : (s.modWafer p f).cores = s.cores := rfl
@[simp] theorem State.modWafer_net (s : State) (p : Nat) (f : Wafer → Wafer) : (s.modWafer p f).net = s.net := rfl
@[simp] theorem State.modWafer_parks (s : State) (p : Nat) (f : Wafer → Wafer) : (s.modWafer p f).parks = s.parks := rfl
@[simp] theorem State.modWafer_acks (s : State) (p : Nat) (f : Wafer → Wafer) : (s.modWafer p f).acks = s.acks := rfl
@[simp] theorem State.modWafer_msgs (s : State) (p : Nat) (f : Wafer → Wafer) : (s.modWafer p f).msgs = s.msgs := rfl
@[simp] theorem State.modWafer_notices (s : State) (p : Nat) (f : Wafer → Wafer) : (s.modWafer p f).notices = s.notices := rfl
@[simp] theorem State.modWafer_steals (s : State) (p : Nat) (f : Wafer → Wafer) : (s.modWafer p f).steals = s.steals := rfl
@[simp] theorem State.modWafer_slotNotes (s : State) (p : Nat) (f : Wafer → Wafer) : (s.modWafer p f).slotNotes = s.slotNotes := rfl
@[simp] theorem State.modWafer_reports (s : State) (p : Nat) (f : Wafer → Wafer) : (s.modWafer p f).reports = s.reports := rfl
@[simp] theorem State.modWafer_bulkAcks (s : State) (p : Nat) (f : Wafer → Wafer) : (s.modWafer p f).bulkAcks = s.bulkAcks := rfl
@[simp] theorem State.modWafer_semq (s : State) (p : Nat) (f : Wafer → Wafer) : (s.modWafer p f).semq = s.semq := rfl
@[simp] theorem State.modWafer_fars (s : State) (p : Nat) (f : Wafer → Wafer) : (s.modWafer p f).fars = s.fars := rfl
@[simp] theorem State.modWafer_ids (s : State) (p : Nat) (f : Wafer → Wafer) : (s.modWafer p f).ids = s.ids := rfl
@[simp] theorem State.modWafer_now (s : State) (p : Nat) (f : Wafer → Wafer) : (s.modWafer p f).now = s.now := rfl
@[simp] theorem State.modWafer_ticks (s : State) (p : Nat) (f : Wafer → Wafer) : (s.modWafer p f).ticks = s.ticks := rfl
@[simp] theorem State.modWafer_draws (s : State) (p : Nat) (f : Wafer → Wafer) : (s.modWafer p f).draws = s.draws := rfl
@[simp] theorem State.modWafer_cur (s : State) (p : Nat) (f : Wafer → Wafer) : (s.modWafer p f).cur = s.cur := rfl
@[simp] theorem State.modWafer_agenda (s : State) (p : Nat) (f : Wafer → Wafer) : (s.modWafer p f).agenda = s.agenda := rfl

/-! ### State.modPtn -/

@[simp] theorem State.modPtn_cores (s : State) (p n : Nat) (f : Ptn → Ptn) : (s.modPtn p n f).cores = s.cores := rfl
@[simp] theorem State.modPtn_net (s : State) (p n : Nat) (f : Ptn → Ptn) : (s.modPtn p n f).net = s.net := rfl
@[simp] theorem State.modPtn_parks (s : State) (p n : Nat) (f : Ptn → Ptn) : (s.modPtn p n f).parks = s.parks := rfl
@[simp] theorem State.modPtn_acks (s : State) (p n : Nat) (f : Ptn → Ptn) : (s.modPtn p n f).acks = s.acks := rfl
@[simp] theorem State.modPtn_msgs (s : State) (p n : Nat) (f : Ptn → Ptn) : (s.modPtn p n f).msgs = s.msgs := rfl
@[simp] theorem State.modPtn_notices (s : State) (p n : Nat) (f : Ptn → Ptn) : (s.modPtn p n f).notices = s.notices := rfl
@[simp] theorem State.modPtn_steals (s : State) (p n : Nat) (f : Ptn → Ptn) : (s.modPtn p n f).steals = s.steals := rfl
@[simp] theorem State.modPtn_slotNotes (s : State) (p n : Nat) (f : Ptn → Ptn) : (s.modPtn p n f).slotNotes = s.slotNotes := rfl
@[simp] theorem State.modPtn_reports (s : State) (p n : Nat) (f : Ptn → Ptn) : (s.modPtn p n f).reports = s.reports := rfl
@[simp] theorem State.modPtn_bulkAcks (s : State) (p n : Nat) (f : Ptn → Ptn) : (s.modPtn p n f).bulkAcks = s.bulkAcks := rfl
@[simp] theorem State.modPtn_semq (s : State) (p n : Nat) (f : Ptn → Ptn) : (s.modPtn p n f).semq = s.semq := rfl
@[simp] theorem State.modPtn_fars (s : State) (p n : Nat) (f : Ptn → Ptn) : (s.modPtn p n f).fars = s.fars := rfl
@[simp] theorem State.modPtn_ids (s : State) (p n : Nat) (f : Ptn → Ptn) : (s.modPtn p n f).ids = s.ids := rfl
@[simp] theorem State.modPtn_now (s : State) (p n : Nat) (f : Ptn → Ptn) : (s.modPtn p n f).now = s.now := rfl
@[simp] theorem State.modPtn_ticks (s : State) (p n : Nat) (f : Ptn → Ptn) : (s.modPtn p n f).ticks = s.ticks := rfl
@[simp] theorem State.modPtn_draws (s : State) (p n : Nat) (f : Ptn → Ptn) : (s.modPtn p n f).draws = s.draws := rfl
@[simp] theorem State.modPtn_cur (s : State) (p n : Nat) (f : Ptn → Ptn) : (s.modPtn p n f).cur = s.cur := rfl
@[simp] theorem State.modPtn_agenda (s : State) (p n : Nat) (f : Ptn → Ptn) : (s.modPtn p n f).agenda = s.agenda := rfl

/-! ### State.putCore -/

@[simp] theorem State.putCore_parts (s : State) (c : CoreId) (k : Core) : (s.putCore c k).parts = s.parts := rfl
@[simp] theorem State.putCore_net (s : State) (c : CoreId) (k : Core) : (s.putCore c k).net = s.net := rfl
@[simp] theorem State.putCore_parks (s : State) (c : CoreId) (k : Core) : (s.putCore c k).parks = s.parks := rfl
@[simp] theorem State.putCore_acks (s : State) (c : CoreId) (k : Core) : (s.putCore c k).acks = s.acks := rfl
@[simp] theorem State.putCore_msgs (s : State) (c : CoreId) (k : Core) : (s.putCore c k).msgs = s.msgs := rfl
@[simp] theorem State.putCore_notices (s : State) (c : CoreId) (k : Core) : (s.putCore c k).notices = s.notices := rfl
@[simp] theorem State.putCore_steals (s : State) (c : CoreId) (k : Core) : (s.putCore c k).steals = s.steals := rfl
@[simp] theorem State.putCore_slotNotes (s : State) (c : CoreId) (k : Core) : (s.putCore c k).slotNotes = s.slotNotes := rfl
@[simp] theorem State.putCore_reports (s : State) (c : CoreId) (k : Core) : (s.putCore c k).reports = s.reports := rfl
@[simp] theorem State.putCore_bulkAcks (s : State) (c : CoreId) (k : Core) : (s.putCore c k).bulkAcks = s.bulkAcks := rfl
@[simp] theorem State.putCore_semq (s : State) (c : CoreId) (k : Core) : (s.putCore c k).semq = s.semq := rfl
@[simp] theorem State.putCore_fars (s : State) (c : CoreId) (k : Core) : (s.putCore c k).fars = s.fars := rfl
@[simp] theorem State.putCore_ids (s : State) (c : CoreId) (k : Core) : (s.putCore c k).ids = s.ids := rfl
@[simp] theorem State.putCore_now (s : State) (c : CoreId) (k : Core) : (s.putCore c k).now = s.now := rfl
@[simp] theorem State.putCore_ticks (s : State) (c : CoreId) (k : Core) : (s.putCore c k).ticks = s.ticks := rfl
@[simp] theorem State.putCore_draws (s : State) (c : CoreId) (k : Core) : (s.putCore c k).draws = s.draws := rfl
@[simp] theorem State.putCore_cur (s : State) (c : CoreId) (k : Core) : (s.putCore c k).cur = s.cur := rfl
@[simp] theorem State.putCore_agenda (s : State) (c : CoreId) (k : Core) : (s.putCore c k).agenda = s.agenda := rfl

/-! ### State.modCore -/

@[simp] theorem State.modCore_parts (s : State) (c : CoreId) (f : Core → Core) : (s.modCore c f).parts = s.parts := rfl
@[simp] theorem State.modCore_net (s : State) (c : CoreId) (f : Core → Core) : (s.modCore c f).net = s.net := rfl
@[simp] theorem State.modCore_parks (s : State) (c : CoreId) (f : Core → Core) : (s.modCore c f).parks = s.parks := rfl
@[simp] theorem State.modCore_acks (s : State) (c : CoreId) (f : Core → Core) : (s.modCore c f).acks = s.acks := rfl
@[simp] theorem State.modCore_msgs (s : State) (c : CoreId) (f : Core → Core) : (s.modCore c f).msgs = s.msgs := rfl
@[simp] theorem State.modCore_notices (s : State) (c : CoreId) (f : Core → Core) : (s.modCore c f).notices = s.notices := rfl
@[simp] theorem State.modCore_steals (s : State) (c : CoreId) (f : Core → Core) : (s.modCore c f).steals = s.steals := rfl
@[simp] theorem State.modCore_slotNotes (s : State) (c : CoreId) (f : Core → Core) : (s.modCore c f).slotNotes = s.slotNotes := rfl
@[simp] theorem State.modCore_reports (s : State) (c : CoreId) (f : Core → Core) : (s.modCore c f).reports = s.reports := rfl
@[simp] theorem State.modCore_bulkAcks (s : State) (c : CoreId) (f : Core → Core) : (s.modCore c f).bulkAcks = s.bulkAcks := rfl
@[simp] theorem State.modCore_semq (s : State) (c : CoreId) (f : Core → Core) : (s.modCore c f).semq = s.semq := rfl
@[simp] theorem State.modCore_fars (s : State) (c : CoreId) (f : Core → Core) : (s.modCore c f).fars = s.fars := rfl
@[simp] theorem State.modCore_ids (s : State) (c : CoreId) (f : Core → Core) : (s.modCore c f).ids = s.ids := rfl
@[simp] theorem State.modCore_now (s : State) (c : CoreId) (f : Core → Core) : (s.modCore c f).now = s.now := rfl
@[simp] theorem State.modCore_ticks (s : State) (c : CoreId) (f : Core → Core) : (s.modCore c f).ticks = s.ticks := rfl
@[simp] theorem State.modCore_draws (s : State) (c : CoreId) (f : Core → Core) : (s.modCore c f).draws = s.draws := rfl
@[simp] theorem State.modCore_cur (s : State) (c : CoreId) (f : Core → Core) : (s.modCore c f).cur = s.cur := rfl
@[simp] theorem State.modCore_agenda (s : State) (c : CoreId) (f : Core → Core) : (s.modCore c f).agenda = s.agenda := rfl

/-! ### State.putStrand -/

@[simp] theorem State.putStrand_parts (s : State) (c : CoreId) (t : Fin 4) (x : Strand) : (s.putStrand c t x).parts = s.parts := rfl
@[simp] theorem State.putStrand_net (s : State) (c : CoreId) (t : Fin 4) (x : Strand) : (s.putStrand c t x).net = s.net := rfl
@[simp] theorem State.putStrand_parks (s : State) (c : CoreId) (t : Fin 4) (x : Strand) : (s.putStrand c t x).parks = s.parks := rfl
@[simp] theorem State.putStrand_acks (s : State) (c : CoreId) (t : Fin 4) (x : Strand) : (s.putStrand c t x).acks = s.acks := rfl
@[simp] theorem State.putStrand_msgs (s : State) (c : CoreId) (t : Fin 4) (x : Strand) : (s.putStrand c t x).msgs = s.msgs := rfl
@[simp] theorem State.putStrand_notices (s : State) (c : CoreId) (t : Fin 4) (x : Strand) : (s.putStrand c t x).notices = s.notices := rfl
@[simp] theorem State.putStrand_steals (s : State) (c : CoreId) (t : Fin 4) (x : Strand) : (s.putStrand c t x).steals = s.steals := rfl
@[simp] theorem State.putStrand_slotNotes (s : State) (c : CoreId) (t : Fin 4) (x : Strand) : (s.putStrand c t x).slotNotes = s.slotNotes := rfl
@[simp] theorem State.putStrand_reports (s : State) (c : CoreId) (t : Fin 4) (x : Strand) : (s.putStrand c t x).reports = s.reports := rfl
@[simp] theorem State.putStrand_bulkAcks (s : State) (c : CoreId) (t : Fin 4) (x : Strand) : (s.putStrand c t x).bulkAcks = s.bulkAcks := rfl
@[simp] theorem State.putStrand_semq (s : State) (c : CoreId) (t : Fin 4) (x : Strand) : (s.putStrand c t x).semq = s.semq := rfl
@[simp] theorem State.putStrand_fars (s : State) (c : CoreId) (t : Fin 4) (x : Strand) : (s.putStrand c t x).fars = s.fars := rfl
@[simp] theorem State.putStrand_ids (s : State) (c : CoreId) (t : Fin 4) (x : Strand) : (s.putStrand c t x).ids = s.ids := rfl
@[simp] theorem State.putStrand_now (s : State) (c : CoreId) (t : Fin 4) (x : Strand) : (s.putStrand c t x).now = s.now := rfl
@[simp] theorem State.putStrand_ticks (s : State) (c : CoreId) (t : Fin 4) (x : Strand) : (s.putStrand c t x).ticks = s.ticks := rfl
@[simp] theorem State.putStrand_draws (s : State) (c : CoreId) (t : Fin 4) (x : Strand) : (s.putStrand c t x).draws = s.draws := rfl
@[simp] theorem State.putStrand_cur (s : State) (c : CoreId) (t : Fin 4) (x : Strand) : (s.putStrand c t x).cur = s.cur := rfl
@[simp] theorem State.putStrand_agenda (s : State) (c : CoreId) (t : Fin 4) (x : Strand) : (s.putStrand c t x).agenda = s.agenda := rfl

/-! ### State.modStrand -/

@[simp] theorem State.modStrand_parts (s : State) (c : CoreId) (t : Fin 4) (f : Strand → Strand) : (s.modStrand c t f).parts = s.parts := rfl
@[simp] theorem State.modStrand_net (s : State) (c : CoreId) (t : Fin 4) (f : Strand → Strand) : (s.modStrand c t f).net = s.net := rfl
@[simp] theorem State.modStrand_parks (s : State) (c : CoreId) (t : Fin 4) (f : Strand → Strand) : (s.modStrand c t f).parks = s.parks := rfl
@[simp] theorem State.modStrand_acks (s : State) (c : CoreId) (t : Fin 4) (f : Strand → Strand) : (s.modStrand c t f).acks = s.acks := rfl
@[simp] theorem State.modStrand_msgs (s : State) (c : CoreId) (t : Fin 4) (f : Strand → Strand) : (s.modStrand c t f).msgs = s.msgs := rfl
@[simp] theorem State.modStrand_notices (s : State) (c : CoreId) (t : Fin 4) (f : Strand → Strand) : (s.modStrand c t f).notices = s.notices := rfl
@[simp] theorem State.modStrand_steals (s : State) (c : CoreId) (t : Fin 4) (f : Strand → Strand) : (s.modStrand c t f).steals = s.steals := rfl
@[simp] theorem State.modStrand_slotNotes (s : State) (c : CoreId) (t : Fin 4) (f : Strand → Strand) : (s.modStrand c t f).slotNotes = s.slotNotes := rfl
@[simp] theorem State.modStrand_reports (s : State) (c : CoreId) (t : Fin 4) (f : Strand → Strand) : (s.modStrand c t f).reports = s.reports := rfl
@[simp] theorem State.modStrand_bulkAcks (s : State) (c : CoreId) (t : Fin 4) (f : Strand → Strand) : (s.modStrand c t f).bulkAcks = s.bulkAcks := rfl
@[simp] theorem State.modStrand_semq (s : State) (c : CoreId) (t : Fin 4) (f : Strand → Strand) : (s.modStrand c t f).semq = s.semq := rfl
@[simp] theorem State.modStrand_fars (s : State) (c : CoreId) (t : Fin 4) (f : Strand → Strand) : (s.modStrand c t f).fars = s.fars := rfl
@[simp] theorem State.modStrand_ids (s : State) (c : CoreId) (t : Fin 4) (f : Strand → Strand) : (s.modStrand c t f).ids = s.ids := rfl
@[simp] theorem State.modStrand_now (s : State) (c : CoreId) (t : Fin 4) (f : Strand → Strand) : (s.modStrand c t f).now = s.now := rfl
@[simp] theorem State.modStrand_ticks (s : State) (c : CoreId) (t : Fin 4) (f : Strand → Strand) : (s.modStrand c t f).ticks = s.ticks := rfl
@[simp] theorem State.modStrand_draws (s : State) (c : CoreId) (t : Fin 4) (f : Strand → Strand) : (s.modStrand c t f).draws = s.draws := rfl
@[simp] theorem State.modStrand_cur (s : State) (c : CoreId) (t : Fin 4) (f : Strand → Strand) : (s.modStrand c t f).cur = s.cur := rfl
@[simp] theorem State.modStrand_agenda (s : State) (c : CoreId) (t : Fin 4) (f : Strand → Strand) : (s.modStrand c t f).agenda = s.agenda := rfl

/-! ### State.putCtx -/

@[simp] theorem State.putCtx_parts (s : State) (x : Ctx) : (s.putCtx x).parts = s.parts := rfl
@[simp] theorem State.putCtx_net (s : State) (x : Ctx) : (s.putCtx x).net = s.net := rfl
@[simp] theorem State.putCtx_parks (s : State) (x : Ctx) : (s.putCtx x).parks = s.parks := rfl
@[simp] theorem State.putCtx_acks (s : State) (x : Ctx) : (s.putCtx x).acks = s.acks := rfl
@[simp] theorem State.putCtx_msgs (s : State) (x : Ctx) : (s.putCtx x).msgs = s.msgs := rfl
@[simp] theorem State.putCtx_notices (s : State) (x : Ctx) : (s.putCtx x).notices = s.notices := rfl
@[simp] theorem State.putCtx_steals (s : State) (x : Ctx) : (s.putCtx x).steals = s.steals := rfl
@[simp] theorem State.putCtx_slotNotes (s : State) (x : Ctx) : (s.putCtx x).slotNotes = s.slotNotes := rfl
@[simp] theorem State.putCtx_reports (s : State) (x : Ctx) : (s.putCtx x).reports = s.reports := rfl
@[simp] theorem State.putCtx_bulkAcks (s : State) (x : Ctx) : (s.putCtx x).bulkAcks = s.bulkAcks := rfl
@[simp] theorem State.putCtx_semq (s : State) (x : Ctx) : (s.putCtx x).semq = s.semq := rfl
@[simp] theorem State.putCtx_fars (s : State) (x : Ctx) : (s.putCtx x).fars = s.fars := rfl
@[simp] theorem State.putCtx_ids (s : State) (x : Ctx) : (s.putCtx x).ids = s.ids := rfl
@[simp] theorem State.putCtx_now (s : State) (x : Ctx) : (s.putCtx x).now = s.now := rfl
@[simp] theorem State.putCtx_ticks (s : State) (x : Ctx) : (s.putCtx x).ticks = s.ticks := rfl
@[simp] theorem State.putCtx_draws (s : State) (x : Ctx) : (s.putCtx x).draws = s.draws := rfl
@[simp] theorem State.putCtx_cur (s : State) (x : Ctx) : (s.putCtx x).cur = s.cur := rfl
@[simp] theorem State.putCtx_agenda (s : State) (x : Ctx) : (s.putCtx x).agenda = s.agenda := rfl

/-! ### State.retire -/

@[simp] theorem State.retire_parts (s : State) (n : Nat) (x : Ctx) : (s.retire n x).parts = s.parts := rfl
@[simp] theorem State.retire_net (s : State) (n : Nat) (x : Ctx) : (s.retire n x).net = s.net := rfl
@[simp] theorem State.retire_parks (s : State) (n : Nat) (x : Ctx) : (s.retire n x).parks = s.parks := rfl
@[simp] theorem State.retire_acks (s : State) (n : Nat) (x : Ctx) : (s.retire n x).acks = s.acks := rfl
@[simp] theorem State.retire_msgs (s : State) (n : Nat) (x : Ctx) : (s.retire n x).msgs = s.msgs := rfl
@[simp] theorem State.retire_notices (s : State) (n : Nat) (x : Ctx) : (s.retire n x).notices = s.notices := rfl
@[simp] theorem State.retire_steals (s : State) (n : Nat) (x : Ctx) : (s.retire n x).steals = s.steals := rfl
@[simp] theorem State.retire_slotNotes (s : State) (n : Nat) (x : Ctx) : (s.retire n x).slotNotes = s.slotNotes := rfl
@[simp] theorem State.retire_reports (s : State) (n : Nat) (x : Ctx) : (s.retire n x).reports = s.reports := rfl
@[simp] theorem State.retire_bulkAcks (s : State) (n : Nat) (x : Ctx) : (s.retire n x).bulkAcks = s.bulkAcks := rfl
@[simp] theorem State.retire_semq (s : State) (n : Nat) (x : Ctx) : (s.retire n x).semq = s.semq := rfl
@[simp] theorem State.retire_fars (s : State) (n : Nat) (x : Ctx) : (s.retire n x).fars = s.fars := rfl
@[simp] theorem State.retire_ids (s : State) (n : Nat) (x : Ctx) : (s.retire n x).ids = s.ids := rfl
@[simp] theorem State.retire_now (s : State) (n : Nat) (x : Ctx) : (s.retire n x).now = s.now := rfl
@[simp] theorem State.retire_ticks (s : State) (n : Nat) (x : Ctx) : (s.retire n x).ticks = s.ticks := rfl
@[simp] theorem State.retire_draws (s : State) (n : Nat) (x : Ctx) : (s.retire n x).draws = s.draws := rfl
@[simp] theorem State.retire_cur (s : State) (n : Nat) (x : Ctx) : (s.retire n x).cur = s.cur := rfl
@[simp] theorem State.retire_agenda (s : State) (n : Nat) (x : Ctx) : (s.retire n x).agenda = s.agenda := rfl

/-! ### State.trap -/

@[simp] theorem State.trap_parts (s : State) (n : Nat) (v : Word) : (s.trap n v).parts = s.parts := rfl
@[simp] theorem State.trap_net (s : State) (n : Nat) (v : Word) : (s.trap n v).net = s.net := rfl
@[simp] theorem State.trap_parks (s : State) (n : Nat) (v : Word) : (s.trap n v).parks = s.parks := rfl
@[simp] theorem State.trap_acks (s : State) (n : Nat) (v : Word) : (s.trap n v).acks = s.acks := rfl
@[simp] theorem State.trap_msgs (s : State) (n : Nat) (v : Word) : (s.trap n v).msgs = s.msgs := rfl
@[simp] theorem State.trap_notices (s : State) (n : Nat) (v : Word) : (s.trap n v).notices = s.notices := rfl
@[simp] theorem State.trap_steals (s : State) (n : Nat) (v : Word) : (s.trap n v).steals = s.steals := rfl
@[simp] theorem State.trap_slotNotes (s : State) (n : Nat) (v : Word) : (s.trap n v).slotNotes = s.slotNotes := rfl
@[simp] theorem State.trap_reports (s : State) (n : Nat) (v : Word) : (s.trap n v).reports = s.reports := rfl
@[simp] theorem State.trap_bulkAcks (s : State) (n : Nat) (v : Word) : (s.trap n v).bulkAcks = s.bulkAcks := rfl
@[simp] theorem State.trap_semq (s : State) (n : Nat) (v : Word) : (s.trap n v).semq = s.semq := rfl
@[simp] theorem State.trap_fars (s : State) (n : Nat) (v : Word) : (s.trap n v).fars = s.fars := rfl
@[simp] theorem State.trap_ids (s : State) (n : Nat) (v : Word) : (s.trap n v).ids = s.ids := rfl
@[simp] theorem State.trap_now (s : State) (n : Nat) (v : Word) : (s.trap n v).now = s.now := rfl
@[simp] theorem State.trap_ticks (s : State) (n : Nat) (v : Word) : (s.trap n v).ticks = s.ticks := rfl
@[simp] theorem State.trap_draws (s : State) (n : Nat) (v : Word) : (s.trap n v).draws = s.draws := rfl
@[simp] theorem State.trap_cur (s : State) (n : Nat) (v : Word) : (s.trap n v).cur = s.cur := rfl
@[simp] theorem State.trap_agenda (s : State) (n : Nat) (v : Word) : (s.trap n v).agenda = s.agenda := rfl

/-! ### Core.putStrand -/

@[simp] theorem Core.putStrand_seq (k : Core) (t : Fin 4) (x : Strand) : (k.putStrand t x).seq = k.seq := rfl
@[simp] theorem Core.putStrand_last (k : Core) (t : Fin 4) (x : Strand) : (k.putStrand t x).last = k.last := rfl
@[simp] theorem Core.putStrand_prior (k : Core) (t : Fin 4) (x : Strand) : (k.putStrand t x).prior = k.prior := rfl
@[simp] theorem Core.putStrand_cycle (k : Core) (t : Fin 4) (x : Strand) : (k.putStrand t x).cycle = k.cycle := rfl
@[simp] theorem Core.putStrand_issued (k : Core) (t : Fin 4) (x : Strand) : (k.putStrand t x).issued = k.issued := rfl
@[simp] theorem Core.putStrand_promoted (k : Core) (t : Fin 4) (x : Strand) : (k.putStrand t x).promoted = k.promoted := rfl
@[simp] theorem Core.putStrand_near (k : Core) (t : Fin 4) (x : Strand) : (k.putStrand t x).near = k.near := rfl
@[simp] theorem Core.putStrand_exec (k : Core) (t : Fin 4) (x : Strand) : (k.putStrand t x).exec = k.exec := rfl
@[simp] theorem Core.putStrand_stale (k : Core) (t : Fin 4) (x : Strand) : (k.putStrand t x).stale = k.stale := rfl
@[simp] theorem Core.putStrand_nearUe (k : Core) (t : Fin 4) (x : Strand) : (k.putStrand t x).nearUe = k.nearUe := rfl
@[simp] theorem Core.putStrand_vault (k : Core) (t : Fin 4) (x : Strand) : (k.putStrand t x).vault = k.vault := rfl
@[simp] theorem Core.putStrand_empty (k : Core) (t : Fin 4) (x : Strand) : (k.putStrand t x).empty = k.empty := rfl
@[simp] theorem Core.putStrand_poison (k : Core) (t : Fin 4) (x : Strand) : (k.putStrand t x).poison = k.poison := rfl
@[simp] theorem Core.putStrand_vaultUe (k : Core) (t : Fin 4) (x : Strand) : (k.putStrand t x).vaultUe = k.vaultUe := rfl
@[simp] theorem Core.putStrand_nearUeSeen (k : Core) (t : Fin 4) (x : Strand) : (k.putStrand t x).nearUeSeen = k.nearUeSeen := rfl
@[simp] theorem Core.putStrand_sems (k : Core) (t : Fin 4) (x : Strand) : (k.putStrand t x).sems = k.sems := rfl
@[simp] theorem Core.putStrand_semWait (k : Core) (t : Fin 4) (x : Strand) : (k.putStrand t x).semWait = k.semWait := rfl
@[simp] theorem Core.putStrand_acc (k : Core) (t : Fin 4) (x : Strand) : (k.putStrand t x).acc = k.acc := rfl
@[simp] theorem Core.putStrand_holder (k : Core) (t : Fin 4) (x : Strand) : (k.putStrand t x).holder = k.holder := rfl
@[simp] theorem Core.putStrand_unitq (k : Core) (t : Fin 4) (x : Strand) : (k.putStrand t x).unitq = k.unitq := rfl
@[simp] theorem Core.putStrand_bindings (k : Core) (t : Fin 4) (x : Strand) : (k.putStrand t x).bindings = k.bindings := rfl
@[simp] theorem Core.putStrand_dmask (k : Core) (t : Fin 4) (x : Strand) : (k.putStrand t x).dmask = k.dmask := rfl
@[simp] theorem Core.putStrand_recv (k : Core) (t : Fin 4) (x : Strand) : (k.putStrand t x).recv = k.recv := rfl
@[simp] theorem Core.putStrand_nextArr (k : Core) (t : Fin 4) (x : Strand) : (k.putStrand t x).nextArr = k.nextArr := rfl
@[simp] theorem Core.putStrand_sendq (k : Core) (t : Fin 4) (x : Strand) : (k.putStrand t x).sendq = k.sendq := rfl
@[simp] theorem Core.putStrand_sendId (k : Core) (t : Fin 4) (x : Strand) : (k.putStrand t x).sendId = k.sendId := rfl
@[simp] theorem Core.putStrand_refused (k : Core) (t : Fin 4) (x : Strand) : (k.putStrand t x).refused = k.refused := rfl
@[simp] theorem Core.putStrand_held (k : Core) (t : Fin 4) (x : Strand) : (k.putStrand t x).held = k.held := rfl
@[simp] theorem Core.putStrand_heldTop (k : Core) (t : Fin 4) (x : Strand) : (k.putStrand t x).heldTop = k.heldTop := rfl
@[simp] theorem Core.putStrand_barmask (k : Core) (t : Fin 4) (x : Strand) : (k.putStrand t x).barmask = k.barmask := rfl
@[simp] theorem Core.putStrand_arrived (k : Core) (t : Fin 4) (x : Strand) : (k.putStrand t x).arrived = k.arrived := rfl
@[simp] theorem Core.putStrand_deque (k : Core) (t : Fin 4) (x : Strand) : (k.putStrand t x).deque = k.deque := rfl
@[simp] theorem Core.putStrand_ring (k : Core) (t : Fin 4) (x : Strand) : (k.putStrand t x).ring = k.ring := rfl
@[simp] theorem Core.putStrand_lfsr (k : Core) (t : Fin 4) (x : Strand) : (k.putStrand t x).lfsr = k.lfsr := rfl
@[simp] theorem Core.putStrand_stealAt (k : Core) (t : Fin 4) (x : Strand) : (k.putStrand t x).stealAt = k.stealAt := rfl
@[simp] theorem Core.putStrand_thieves (k : Core) (t : Fin 4) (x : Strand) : (k.putStrand t x).thieves = k.thieves := rfl
@[simp] theorem Core.putStrand_launchid (k : Core) (t : Fin 4) (x : Strand) : (k.putStrand t x).launchid = k.launchid := rfl
@[simp] theorem Core.putStrand_sseed (k : Core) (t : Fin 4) (x : Strand) : (k.putStrand t x).sseed = k.sseed := rfl
@[simp] theorem Core.putStrand_ssteal (k : Core) (t : Fin 4) (x : Strand) : (k.putStrand t x).ssteal = k.ssteal := rfl
@[simp] theorem Core.putStrand_sspill (k : Core) (t : Fin 4) (x : Strand) : (k.putStrand t x).sspill = k.sspill := rfl
@[simp] theorem Core.putStrand_smode (k : Core) (t : Fin 4) (x : Strand) : (k.putStrand t x).smode = k.smode := rfl
@[simp] theorem Core.putStrand_sarg (k : Core) (t : Fin 4) (x : Strand) : (k.putStrand t x).sarg = k.sarg := rfl
@[simp] theorem Core.putStrand_sentry (k : Core) (t : Fin 4) (x : Strand) : (k.putStrand t x).sentry = k.sentry := rfl
@[simp] theorem Core.putStrand_stvec (k : Core) (t : Fin 4) (x : Strand) : (k.putStrand t x).stvec = k.stvec := rfl
@[simp] theorem Core.putStrand_saveoff (k : Core) (t : Fin 4) (x : Strand) : (k.putStrand t x).saveoff = k.saveoff := rfl
@[simp] theorem Core.putStrand_frameOff (k : Core) (t : Fin 4) (x : Strand) : (k.putStrand t x).frameOff = k.frameOff := rfl
@[simp] theorem Core.putStrand_snote (k : Core) (t : Fin 4) (x : Strand) : (k.putStrand t x).snote = k.snote := rfl
@[simp] theorem Core.putStrand_eps (k : Core) (t : Fin 4) (x : Strand) : (k.putStrand t x).eps = k.eps := rfl
@[simp] theorem Core.putStrand_bulk (k : Core) (t : Fin 4) (x : Strand) : (k.putStrand t x).bulk = k.bulk := rfl
@[simp] theorem Core.putStrand_streams (k : Core) (t : Fin 4) (x : Strand) : (k.putStrand t x).streams = k.streams := rfl
@[simp] theorem Core.putStrand_addrq (k : Core) (t : Fin 4) (x : Strand) : (k.putStrand t x).addrq = k.addrq := rfl
@[simp] theorem Core.putStrand_stopped (k : Core) (t : Fin 4) (x : Strand) : (k.putStrand t x).stopped = k.stopped := rfl
@[simp] theorem Core.putStrand_saved (k : Core) (t : Fin 4) (x : Strand) : (k.putStrand t x).saved = k.saved := rfl
@[simp] theorem Core.putStrand_incs (k : Core) (t : Fin 4) (x : Strand) : (k.putStrand t x).incs = k.incs := rfl
@[simp] theorem Core.putStrand_saveFailed (k : Core) (t : Fin 4) (x : Strand) : (k.putStrand t x).saveFailed = k.saveFailed := rfl

/-! ### Ctx.setX -/

@[simp] theorem Ctx.setX_pc (c : Ctx) (r : BitVec 5) (v : Word) : (c.setX r v).pc = c.pc := by unfold Ctx.setX; split <;> rfl
@[simp] theorem Ctx.setX_v (c : Ctx) (r : BitVec 5) (v : Word) : (c.setX r v).v = c.v := by unfold Ctx.setX; split <;> rfl
@[simp] theorem Ctx.setX_p (c : Ctx) (r : BitVec 5) (v : Word) : (c.setX r v).p = c.p := by unfold Ctx.setX; split <;> rfl
@[simp] theorem Ctx.setX_lc (c : Ctx) (r : BitVec 5) (v : Word) : (c.setX r v).lc = c.lc := by unfold Ctx.setX; split <;> rfl
@[simp] theorem Ctx.setX_d (c : Ctx) (r : BitVec 5) (v : Word) : (c.setX r v).d = c.d := by unfold Ctx.setX; split <;> rfl
@[simp] theorem Ctx.setX_priv (c : Ctx) (r : BitVec 5) (v : Word) : (c.setX r v).priv = c.priv := by unfold Ctx.setX; split <;> rfl
@[simp] theorem Ctx.setX_ppriv (c : Ctx) (r : BitVec 5) (v : Word) : (c.setX r v).ppriv = c.ppriv := by unfold Ctx.setX; split <;> rfl
@[simp] theorem Ctx.setX_bg (c : Ctx) (r : BitVec 5) (v : Word) : (c.setX r v).bg = c.bg := by unfold Ctx.setX; split <;> rfl
@[simp] theorem Ctx.setX_hnd (c : Ctx) (r : BitVec 5) (v : Word) : (c.setX r v).hnd = c.hnd := by unfold Ctx.setX; split <;> rfl
@[simp] theorem Ctx.setX_mode (c : Ctx) (r : BitVec 5) (v : Word) : (c.setX r v).mode = c.mode := by unfold Ctx.setX; split <;> rfl
@[simp] theorem Ctx.setX_flags (c : Ctx) (r : BitVec 5) (v : Word) : (c.setX r v).flags = c.flags := by unfold Ctx.setX; split <;> rfl
@[simp] theorem Ctx.setX_seed (c : Ctx) (r : BitVec 5) (v : Word) : (c.setX r v).seed = c.seed := by unfold Ctx.setX; split <;> rfl
@[simp] theorem Ctx.setX_stepc (c : Ctx) (r : BitVec 5) (v : Word) : (c.setX r v).stepc = c.stepc := by unfold Ctx.setX; split <;> rfl
@[simp] theorem Ctx.setX_instret (c : Ctx) (r : BitVec 5) (v : Word) : (c.setX r v).instret = c.instret := by unfold Ctx.setX; split <;> rfl
@[simp] theorem Ctx.setX_stealdom (c : Ctx) (r : BitVec 5) (v : Word) : (c.setX r v).stealdom = c.stealdom := by unfold Ctx.setX; split <;> rfl
@[simp] theorem Ctx.setX_spillbase (c : Ctx) (r : BitVec 5) (v : Word) : (c.setX r v).spillbase = c.spillbase := by unfold Ctx.setX; split <;> rfl
@[simp] theorem Ctx.setX_spilllim (c : Ctx) (r : BitVec 5) (v : Word) : (c.setX r v).spilllim = c.spilllim := by unfold Ctx.setX; split <;> rfl
@[simp] theorem Ctx.setX_tvec (c : Ctx) (r : BitVec 5) (v : Word) : (c.setX r v).tvec = c.tvec := by unfold Ctx.setX; split <;> rfl
@[simp] theorem Ctx.setX_epc (c : Ctx) (r : BitVec 5) (v : Word) : (c.setX r v).epc = c.epc := by unfold Ctx.setX; split <;> rfl
@[simp] theorem Ctx.setX_cause (c : Ctx) (r : BitVec 5) (v : Word) : (c.setX r v).cause = c.cause := by unfold Ctx.setX; split <;> rfl
@[simp] theorem Ctx.setX_tval (c : Ctx) (r : BitVec 5) (v : Word) : (c.setX r v).tval = c.tval := by unfold Ctx.setX; split <;> rfl
@[simp] theorem Ctx.setX_tscratch (c : Ctx) (r : BitVec 5) (v : Word) : (c.setX r v).tscratch = c.tscratch := by unfold Ctx.setX; split <;> rfl
@[simp] theorem Ctx.setX_savebase (c : Ctx) (r : BitVec 5) (v : Word) : (c.setX r v).savebase = c.savebase := by unfold Ctx.setX; split <;> rfl
@[simp] theorem Ctx.setX_note (c : Ctx) (r : BitVec 5) (v : Word) : (c.setX r v).note = c.note := by unfold Ctx.setX; split <;> rfl
@[simp] theorem Ctx.setX_trapAt (c : Ctx) (r : BitVec 5) (v : Word) : (c.setX r v).trapAt = c.trapAt := by unfold Ctx.setX; split <;> rfl

/-! ### Ctx.setV -/

@[simp] theorem Ctx.setV_pc (c : Ctx) (r : BitVec 5) (v : VReg) : (c.setV r v).pc = c.pc := rfl
@[simp] theorem Ctx.setV_x (c : Ctx) (r : BitVec 5) (v : VReg) : (c.setV r v).x = c.x := rfl
@[simp] theorem Ctx.setV_p (c : Ctx) (r : BitVec 5) (v : VReg) : (c.setV r v).p = c.p := rfl
@[simp] theorem Ctx.setV_lc (c : Ctx) (r : BitVec 5) (v : VReg) : (c.setV r v).lc = c.lc := rfl
@[simp] theorem Ctx.setV_d (c : Ctx) (r : BitVec 5) (v : VReg) : (c.setV r v).d = c.d := rfl
@[simp] theorem Ctx.setV_priv (c : Ctx) (r : BitVec 5) (v : VReg) : (c.setV r v).priv = c.priv := rfl
@[simp] theorem Ctx.setV_ppriv (c : Ctx) (r : BitVec 5) (v : VReg) : (c.setV r v).ppriv = c.ppriv := rfl
@[simp] theorem Ctx.setV_bg (c : Ctx) (r : BitVec 5) (v : VReg) : (c.setV r v).bg = c.bg := rfl
@[simp] theorem Ctx.setV_hnd (c : Ctx) (r : BitVec 5) (v : VReg) : (c.setV r v).hnd = c.hnd := rfl
@[simp] theorem Ctx.setV_mode (c : Ctx) (r : BitVec 5) (v : VReg) : (c.setV r v).mode = c.mode := rfl
@[simp] theorem Ctx.setV_flags (c : Ctx) (r : BitVec 5) (v : VReg) : (c.setV r v).flags = c.flags := rfl
@[simp] theorem Ctx.setV_seed (c : Ctx) (r : BitVec 5) (v : VReg) : (c.setV r v).seed = c.seed := rfl
@[simp] theorem Ctx.setV_stepc (c : Ctx) (r : BitVec 5) (v : VReg) : (c.setV r v).stepc = c.stepc := rfl
@[simp] theorem Ctx.setV_instret (c : Ctx) (r : BitVec 5) (v : VReg) : (c.setV r v).instret = c.instret := rfl
@[simp] theorem Ctx.setV_stealdom (c : Ctx) (r : BitVec 5) (v : VReg) : (c.setV r v).stealdom = c.stealdom := rfl
@[simp] theorem Ctx.setV_spillbase (c : Ctx) (r : BitVec 5) (v : VReg) : (c.setV r v).spillbase = c.spillbase := rfl
@[simp] theorem Ctx.setV_spilllim (c : Ctx) (r : BitVec 5) (v : VReg) : (c.setV r v).spilllim = c.spilllim := rfl
@[simp] theorem Ctx.setV_tvec (c : Ctx) (r : BitVec 5) (v : VReg) : (c.setV r v).tvec = c.tvec := rfl
@[simp] theorem Ctx.setV_epc (c : Ctx) (r : BitVec 5) (v : VReg) : (c.setV r v).epc = c.epc := rfl
@[simp] theorem Ctx.setV_cause (c : Ctx) (r : BitVec 5) (v : VReg) : (c.setV r v).cause = c.cause := rfl
@[simp] theorem Ctx.setV_tval (c : Ctx) (r : BitVec 5) (v : VReg) : (c.setV r v).tval = c.tval := rfl
@[simp] theorem Ctx.setV_tscratch (c : Ctx) (r : BitVec 5) (v : VReg) : (c.setV r v).tscratch = c.tscratch := rfl
@[simp] theorem Ctx.setV_savebase (c : Ctx) (r : BitVec 5) (v : VReg) : (c.setV r v).savebase = c.savebase := rfl
@[simp] theorem Ctx.setV_note (c : Ctx) (r : BitVec 5) (v : VReg) : (c.setV r v).note = c.note := rfl
@[simp] theorem Ctx.setV_trapAt (c : Ctx) (r : BitVec 5) (v : VReg) : (c.setV r v).trapAt = c.trapAt := rfl

/-! ### Ctx.setP -/

@[simp] theorem Ctx.setP_pc (c : Ctx) (r : BitVec 3) (v : PReg) : (c.setP r v).pc = c.pc := by unfold Ctx.setP; split <;> rfl
@[simp] theorem Ctx.setP_x (c : Ctx) (r : BitVec 3) (v : PReg) : (c.setP r v).x = c.x := by unfold Ctx.setP; split <;> rfl
@[simp] theorem Ctx.setP_v (c : Ctx) (r : BitVec 3) (v : PReg) : (c.setP r v).v = c.v := by unfold Ctx.setP; split <;> rfl
@[simp] theorem Ctx.setP_lc (c : Ctx) (r : BitVec 3) (v : PReg) : (c.setP r v).lc = c.lc := by unfold Ctx.setP; split <;> rfl
@[simp] theorem Ctx.setP_d (c : Ctx) (r : BitVec 3) (v : PReg) : (c.setP r v).d = c.d := by unfold Ctx.setP; split <;> rfl
@[simp] theorem Ctx.setP_priv (c : Ctx) (r : BitVec 3) (v : PReg) : (c.setP r v).priv = c.priv := by unfold Ctx.setP; split <;> rfl
@[simp] theorem Ctx.setP_ppriv (c : Ctx) (r : BitVec 3) (v : PReg) : (c.setP r v).ppriv = c.ppriv := by unfold Ctx.setP; split <;> rfl
@[simp] theorem Ctx.setP_bg (c : Ctx) (r : BitVec 3) (v : PReg) : (c.setP r v).bg = c.bg := by unfold Ctx.setP; split <;> rfl
@[simp] theorem Ctx.setP_hnd (c : Ctx) (r : BitVec 3) (v : PReg) : (c.setP r v).hnd = c.hnd := by unfold Ctx.setP; split <;> rfl
@[simp] theorem Ctx.setP_mode (c : Ctx) (r : BitVec 3) (v : PReg) : (c.setP r v).mode = c.mode := by unfold Ctx.setP; split <;> rfl
@[simp] theorem Ctx.setP_flags (c : Ctx) (r : BitVec 3) (v : PReg) : (c.setP r v).flags = c.flags := by unfold Ctx.setP; split <;> rfl
@[simp] theorem Ctx.setP_seed (c : Ctx) (r : BitVec 3) (v : PReg) : (c.setP r v).seed = c.seed := by unfold Ctx.setP; split <;> rfl
@[simp] theorem Ctx.setP_stepc (c : Ctx) (r : BitVec 3) (v : PReg) : (c.setP r v).stepc = c.stepc := by unfold Ctx.setP; split <;> rfl
@[simp] theorem Ctx.setP_instret (c : Ctx) (r : BitVec 3) (v : PReg) : (c.setP r v).instret = c.instret := by unfold Ctx.setP; split <;> rfl
@[simp] theorem Ctx.setP_stealdom (c : Ctx) (r : BitVec 3) (v : PReg) : (c.setP r v).stealdom = c.stealdom := by unfold Ctx.setP; split <;> rfl
@[simp] theorem Ctx.setP_spillbase (c : Ctx) (r : BitVec 3) (v : PReg) : (c.setP r v).spillbase = c.spillbase := by unfold Ctx.setP; split <;> rfl
@[simp] theorem Ctx.setP_spilllim (c : Ctx) (r : BitVec 3) (v : PReg) : (c.setP r v).spilllim = c.spilllim := by unfold Ctx.setP; split <;> rfl
@[simp] theorem Ctx.setP_tvec (c : Ctx) (r : BitVec 3) (v : PReg) : (c.setP r v).tvec = c.tvec := by unfold Ctx.setP; split <;> rfl
@[simp] theorem Ctx.setP_epc (c : Ctx) (r : BitVec 3) (v : PReg) : (c.setP r v).epc = c.epc := by unfold Ctx.setP; split <;> rfl
@[simp] theorem Ctx.setP_cause (c : Ctx) (r : BitVec 3) (v : PReg) : (c.setP r v).cause = c.cause := by unfold Ctx.setP; split <;> rfl
@[simp] theorem Ctx.setP_tval (c : Ctx) (r : BitVec 3) (v : PReg) : (c.setP r v).tval = c.tval := by unfold Ctx.setP; split <;> rfl
@[simp] theorem Ctx.setP_tscratch (c : Ctx) (r : BitVec 3) (v : PReg) : (c.setP r v).tscratch = c.tscratch := by unfold Ctx.setP; split <;> rfl
@[simp] theorem Ctx.setP_savebase (c : Ctx) (r : BitVec 3) (v : PReg) : (c.setP r v).savebase = c.savebase := by unfold Ctx.setP; split <;> rfl
@[simp] theorem Ctx.setP_note (c : Ctx) (r : BitVec 3) (v : PReg) : (c.setP r v).note = c.note := by unfold Ctx.setP; split <;> rfl
@[simp] theorem Ctx.setP_trapAt (c : Ctx) (r : BitVec 3) (v : PReg) : (c.setP r v).trapAt = c.trapAt := by unfold Ctx.setP; split <;> rfl

/-! ### Ctx.setD -/

@[simp] theorem Ctx.setD_pc (c : Ctx) (r : BitVec 5) (v : BitVec 128) : (c.setD r v).pc = c.pc := rfl
@[simp] theorem Ctx.setD_x (c : Ctx) (r : BitVec 5) (v : BitVec 128) : (c.setD r v).x = c.x := rfl
@[simp] theorem Ctx.setD_v (c : Ctx) (r : BitVec 5) (v : BitVec 128) : (c.setD r v).v = c.v := rfl
@[simp] theorem Ctx.setD_p (c : Ctx) (r : BitVec 5) (v : BitVec 128) : (c.setD r v).p = c.p := rfl
@[simp] theorem Ctx.setD_lc (c : Ctx) (r : BitVec 5) (v : BitVec 128) : (c.setD r v).lc = c.lc := rfl
@[simp] theorem Ctx.setD_priv (c : Ctx) (r : BitVec 5) (v : BitVec 128) : (c.setD r v).priv = c.priv := rfl
@[simp] theorem Ctx.setD_ppriv (c : Ctx) (r : BitVec 5) (v : BitVec 128) : (c.setD r v).ppriv = c.ppriv := rfl
@[simp] theorem Ctx.setD_bg (c : Ctx) (r : BitVec 5) (v : BitVec 128) : (c.setD r v).bg = c.bg := rfl
@[simp] theorem Ctx.setD_hnd (c : Ctx) (r : BitVec 5) (v : BitVec 128) : (c.setD r v).hnd = c.hnd := rfl
@[simp] theorem Ctx.setD_mode (c : Ctx) (r : BitVec 5) (v : BitVec 128) : (c.setD r v).mode = c.mode := rfl
@[simp] theorem Ctx.setD_flags (c : Ctx) (r : BitVec 5) (v : BitVec 128) : (c.setD r v).flags = c.flags := rfl
@[simp] theorem Ctx.setD_seed (c : Ctx) (r : BitVec 5) (v : BitVec 128) : (c.setD r v).seed = c.seed := rfl
@[simp] theorem Ctx.setD_stepc (c : Ctx) (r : BitVec 5) (v : BitVec 128) : (c.setD r v).stepc = c.stepc := rfl
@[simp] theorem Ctx.setD_instret (c : Ctx) (r : BitVec 5) (v : BitVec 128) : (c.setD r v).instret = c.instret := rfl
@[simp] theorem Ctx.setD_stealdom (c : Ctx) (r : BitVec 5) (v : BitVec 128) : (c.setD r v).stealdom = c.stealdom := rfl
@[simp] theorem Ctx.setD_spillbase (c : Ctx) (r : BitVec 5) (v : BitVec 128) : (c.setD r v).spillbase = c.spillbase := rfl
@[simp] theorem Ctx.setD_spilllim (c : Ctx) (r : BitVec 5) (v : BitVec 128) : (c.setD r v).spilllim = c.spilllim := rfl
@[simp] theorem Ctx.setD_tvec (c : Ctx) (r : BitVec 5) (v : BitVec 128) : (c.setD r v).tvec = c.tvec := rfl
@[simp] theorem Ctx.setD_epc (c : Ctx) (r : BitVec 5) (v : BitVec 128) : (c.setD r v).epc = c.epc := rfl
@[simp] theorem Ctx.setD_cause (c : Ctx) (r : BitVec 5) (v : BitVec 128) : (c.setD r v).cause = c.cause := rfl
@[simp] theorem Ctx.setD_tval (c : Ctx) (r : BitVec 5) (v : BitVec 128) : (c.setD r v).tval = c.tval := rfl
@[simp] theorem Ctx.setD_tscratch (c : Ctx) (r : BitVec 5) (v : BitVec 128) : (c.setD r v).tscratch = c.tscratch := rfl
@[simp] theorem Ctx.setD_savebase (c : Ctx) (r : BitVec 5) (v : BitVec 128) : (c.setD r v).savebase = c.savebase := rfl
@[simp] theorem Ctx.setD_note (c : Ctx) (r : BitVec 5) (v : BitVec 128) : (c.setD r v).note = c.note := rfl
@[simp] theorem Ctx.setD_trapAt (c : Ctx) (r : BitVec 5) (v : BitVec 128) : (c.setD r v).trapAt = c.trapAt := rfl

/-! ### Ctx.setLc -/

@[simp] theorem Ctx.setLc_pc (c : Ctx) (n : Nat) (l : Loop) : (c.setLc n l).pc = c.pc := rfl
@[simp] theorem Ctx.setLc_x (c : Ctx) (n : Nat) (l : Loop) : (c.setLc n l).x = c.x := rfl
@[simp] theorem Ctx.setLc_v (c : Ctx) (n : Nat) (l : Loop) : (c.setLc n l).v = c.v := rfl
@[simp] theorem Ctx.setLc_p (c : Ctx) (n : Nat) (l : Loop) : (c.setLc n l).p = c.p := rfl
@[simp] theorem Ctx.setLc_d (c : Ctx) (n : Nat) (l : Loop) : (c.setLc n l).d = c.d := rfl
@[simp] theorem Ctx.setLc_priv (c : Ctx) (n : Nat) (l : Loop) : (c.setLc n l).priv = c.priv := rfl
@[simp] theorem Ctx.setLc_ppriv (c : Ctx) (n : Nat) (l : Loop) : (c.setLc n l).ppriv = c.ppriv := rfl
@[simp] theorem Ctx.setLc_bg (c : Ctx) (n : Nat) (l : Loop) : (c.setLc n l).bg = c.bg := rfl
@[simp] theorem Ctx.setLc_hnd (c : Ctx) (n : Nat) (l : Loop) : (c.setLc n l).hnd = c.hnd := rfl
@[simp] theorem Ctx.setLc_mode (c : Ctx) (n : Nat) (l : Loop) : (c.setLc n l).mode = c.mode := rfl
@[simp] theorem Ctx.setLc_flags (c : Ctx) (n : Nat) (l : Loop) : (c.setLc n l).flags = c.flags := rfl
@[simp] theorem Ctx.setLc_seed (c : Ctx) (n : Nat) (l : Loop) : (c.setLc n l).seed = c.seed := rfl
@[simp] theorem Ctx.setLc_stepc (c : Ctx) (n : Nat) (l : Loop) : (c.setLc n l).stepc = c.stepc := rfl
@[simp] theorem Ctx.setLc_instret (c : Ctx) (n : Nat) (l : Loop) : (c.setLc n l).instret = c.instret := rfl
@[simp] theorem Ctx.setLc_stealdom (c : Ctx) (n : Nat) (l : Loop) : (c.setLc n l).stealdom = c.stealdom := rfl
@[simp] theorem Ctx.setLc_spillbase (c : Ctx) (n : Nat) (l : Loop) : (c.setLc n l).spillbase = c.spillbase := rfl
@[simp] theorem Ctx.setLc_spilllim (c : Ctx) (n : Nat) (l : Loop) : (c.setLc n l).spilllim = c.spilllim := rfl
@[simp] theorem Ctx.setLc_tvec (c : Ctx) (n : Nat) (l : Loop) : (c.setLc n l).tvec = c.tvec := rfl
@[simp] theorem Ctx.setLc_epc (c : Ctx) (n : Nat) (l : Loop) : (c.setLc n l).epc = c.epc := rfl
@[simp] theorem Ctx.setLc_cause (c : Ctx) (n : Nat) (l : Loop) : (c.setLc n l).cause = c.cause := rfl
@[simp] theorem Ctx.setLc_tval (c : Ctx) (n : Nat) (l : Loop) : (c.setLc n l).tval = c.tval := rfl
@[simp] theorem Ctx.setLc_tscratch (c : Ctx) (n : Nat) (l : Loop) : (c.setLc n l).tscratch = c.tscratch := rfl
@[simp] theorem Ctx.setLc_savebase (c : Ctx) (n : Nat) (l : Loop) : (c.setLc n l).savebase = c.savebase := rfl
@[simp] theorem Ctx.setLc_note (c : Ctx) (n : Nat) (l : Loop) : (c.setLc n l).note = c.note := rfl
@[simp] theorem Ctx.setLc_trapAt (c : Ctx) (n : Nat) (l : Loop) : (c.setLc n l).trapAt = c.trapAt := rfl

/-! ### Ctx.count -/

@[simp] theorem Ctx.count_pc (c : Ctx) : (c.count).pc = c.pc := rfl
@[simp] theorem Ctx.count_x (c : Ctx) : (c.count).x = c.x := rfl
@[simp] theorem Ctx.count_v (c : Ctx) : (c.count).v = c.v := rfl
@[simp] theorem Ctx.count_p (c : Ctx) : (c.count).p = c.p := rfl
@[simp] theorem Ctx.count_lc (c : Ctx) : (c.count).lc = c.lc := rfl
@[simp] theorem Ctx.count_d (c : Ctx) : (c.count).d = c.d := rfl
@[simp] theorem Ctx.count_priv (c : Ctx) : (c.count).priv = c.priv := rfl
@[simp] theorem Ctx.count_ppriv (c : Ctx) : (c.count).ppriv = c.ppriv := rfl
@[simp] theorem Ctx.count_bg (c : Ctx) : (c.count).bg = c.bg := rfl
@[simp] theorem Ctx.count_hnd (c : Ctx) : (c.count).hnd = c.hnd := rfl
@[simp] theorem Ctx.count_mode (c : Ctx) : (c.count).mode = c.mode := rfl
@[simp] theorem Ctx.count_flags (c : Ctx) : (c.count).flags = c.flags := rfl
@[simp] theorem Ctx.count_seed (c : Ctx) : (c.count).seed = c.seed := rfl
@[simp] theorem Ctx.count_stepc (c : Ctx) : (c.count).stepc = c.stepc := rfl
@[simp] theorem Ctx.count_stealdom (c : Ctx) : (c.count).stealdom = c.stealdom := rfl
@[simp] theorem Ctx.count_spillbase (c : Ctx) : (c.count).spillbase = c.spillbase := rfl
@[simp] theorem Ctx.count_spilllim (c : Ctx) : (c.count).spilllim = c.spilllim := rfl
@[simp] theorem Ctx.count_tvec (c : Ctx) : (c.count).tvec = c.tvec := rfl
@[simp] theorem Ctx.count_epc (c : Ctx) : (c.count).epc = c.epc := rfl
@[simp] theorem Ctx.count_cause (c : Ctx) : (c.count).cause = c.cause := rfl
@[simp] theorem Ctx.count_tval (c : Ctx) : (c.count).tval = c.tval := rfl
@[simp] theorem Ctx.count_tscratch (c : Ctx) : (c.count).tscratch = c.tscratch := rfl
@[simp] theorem Ctx.count_savebase (c : Ctx) : (c.count).savebase = c.savebase := rfl
@[simp] theorem Ctx.count_note (c : Ctx) : (c.count).note = c.note := rfl
@[simp] theorem Ctx.count_trapAt (c : Ctx) : (c.count).trapAt = c.trapAt := rfl
@[simp] theorem Ctx.count_bad (c : Ctx) : (c.count).bad = c.bad := rfl

/-! ### Ctx.trap -/

@[simp] theorem Ctx.trap_x (c : Ctx) (n : Nat) (e v : Word) : (c.trap n e v).x = c.x := rfl
@[simp] theorem Ctx.trap_v (c : Ctx) (n : Nat) (e v : Word) : (c.trap n e v).v = c.v := rfl
@[simp] theorem Ctx.trap_p (c : Ctx) (n : Nat) (e v : Word) : (c.trap n e v).p = c.p := rfl
@[simp] theorem Ctx.trap_lc (c : Ctx) (n : Nat) (e v : Word) : (c.trap n e v).lc = c.lc := rfl
@[simp] theorem Ctx.trap_d (c : Ctx) (n : Nat) (e v : Word) : (c.trap n e v).d = c.d := rfl
@[simp] theorem Ctx.trap_bg (c : Ctx) (n : Nat) (e v : Word) : (c.trap n e v).bg = c.bg := rfl
@[simp] theorem Ctx.trap_hnd (c : Ctx) (n : Nat) (e v : Word) : (c.trap n e v).hnd = c.hnd := rfl
@[simp] theorem Ctx.trap_mode (c : Ctx) (n : Nat) (e v : Word) : (c.trap n e v).mode = c.mode := rfl
@[simp] theorem Ctx.trap_flags (c : Ctx) (n : Nat) (e v : Word) : (c.trap n e v).flags = c.flags := rfl
@[simp] theorem Ctx.trap_seed (c : Ctx) (n : Nat) (e v : Word) : (c.trap n e v).seed = c.seed := rfl
@[simp] theorem Ctx.trap_stepc (c : Ctx) (n : Nat) (e v : Word) : (c.trap n e v).stepc = c.stepc := rfl
@[simp] theorem Ctx.trap_instret (c : Ctx) (n : Nat) (e v : Word) : (c.trap n e v).instret = c.instret := rfl
@[simp] theorem Ctx.trap_stealdom (c : Ctx) (n : Nat) (e v : Word) : (c.trap n e v).stealdom = c.stealdom := rfl
@[simp] theorem Ctx.trap_spillbase (c : Ctx) (n : Nat) (e v : Word) : (c.trap n e v).spillbase = c.spillbase := rfl
@[simp] theorem Ctx.trap_spilllim (c : Ctx) (n : Nat) (e v : Word) : (c.trap n e v).spilllim = c.spilllim := rfl
@[simp] theorem Ctx.trap_tvec (c : Ctx) (n : Nat) (e v : Word) : (c.trap n e v).tvec = c.tvec := rfl
@[simp] theorem Ctx.trap_tscratch (c : Ctx) (n : Nat) (e v : Word) : (c.trap n e v).tscratch = c.tscratch := rfl
@[simp] theorem Ctx.trap_savebase (c : Ctx) (n : Nat) (e v : Word) : (c.trap n e v).savebase = c.savebase := rfl
@[simp] theorem Ctx.trap_note (c : Ctx) (n : Nat) (e v : Word) : (c.trap n e v).note = c.note := rfl

end Sys2Proof.Machine
end

