-- ==== Sys2Proof/Laws/Ops.lean ====
section
/-!
SUPPORT. Laws of the named operations: registers read after a write, cores, strands and parts read after an update, and what a trap, an issue
and a completion do.
-/
namespace Sys2Proof.Machine

/-! ## Registers (R75) -/

@[simp] theorem Ctx.getX_zero (c : Ctx) : c.getX 0 = 0 := rfl

/-- R75: an x register after a write of another or of itself. -/
theorem Ctx.getX_setX (c : Ctx) (d r : BitVec 5) (v : Word) : (c.setX d v).getX r = if r = d ∧ d ≠ 0 then v else c.getX r := by
  unfold Ctx.setX
  by_cases h : d = 0
  · simp [h]
  · by_cases e : r = d
    · subst e
      simp only [Ctx.getX, h, if_false, ne_eq, not_false_eq_true, and_self, if_true]
      exact Vector.getElem_set_self _
    · have : d.toNat ≠ r.toNat := fun g => e (BitVec.eq_of_toNat_eq g.symm)
      by_cases z : r = 0
      · subst z
        simp only [Ctx.getX, if_true, e, false_and, if_false]
      · simp only [h, if_false, e, false_and, Ctx.getX, z]
        exact Vector.getElem_set_ne _ _ this

@[simp] theorem Ctx.getV_setX (c : Ctx) (d r : BitVec 5) (v : Word) : (c.setX d v).getV r = c.getV r := by simp [Ctx.getV]
@[simp] theorem Ctx.getP_setX (c : Ctx) (d : BitVec 5) (r : BitVec 3) (v : Word) : (c.setX d v).getP r = c.getP r := by simp [Ctx.getP]
@[simp] theorem Ctx.getD_setX (c : Ctx) (d r : BitVec 5) (v : Word) : (c.setX d v).getD r = c.getD r := by simp [Ctx.getD]
@[simp] theorem Ctx.getLc_setX (c : Ctx) (d : BitVec 5) (n : Nat) (v : Word) : (c.setX d v).getLc n = c.getLc n := by simp [Ctx.getLc]

/-- A v register after a write of another or of itself. -/
theorem Ctx.getV_setV (c : Ctx) (d r : BitVec 5) (v : VReg) : (c.setV d v).getV r = if r = d then v else c.getV r := by
  by_cases e : r = d
  · subst e
    simp only [Ctx.getV, Ctx.setV, if_true]
    exact Vector.getElem_set_self _
  · have : d.toNat ≠ r.toNat := fun g => e (BitVec.eq_of_toNat_eq g.symm)
    simp only [e, if_false, Ctx.getV, Ctx.setV]
    exact Vector.getElem_set_ne _ _ this

@[simp] theorem Ctx.getX_setV (c : Ctx) (d r : BitVec 5) (v : VReg) : (c.setV d v).getX r = c.getX r := rfl
@[simp] theorem Ctx.getP_setV (c : Ctx) (d : BitVec 5) (r : BitVec 3) (v : VReg) : (c.setV d v).getP r = c.getP r := rfl

/-- R75: a p register after a write of another or of itself. -/
theorem Ctx.getP_setP (c : Ctx) (d r : BitVec 3) (v : PReg) : (c.setP d v).getP r = if r = d ∧ d ≠ 0 then v else c.getP r := by
  unfold Ctx.setP
  by_cases h : d = 0
  · simp [h]
  · by_cases e : r = d
    · subst e
      simp only [Ctx.getP, h, if_false, ne_eq, not_false_eq_true, and_self, if_true]
      exact Vector.getElem_set_self _
    · have : d.toNat ≠ r.toNat := fun g => e (BitVec.eq_of_toNat_eq g.symm)
      by_cases z : r = 0
      · subst z
        simp only [Ctx.getP, if_true, e, false_and, if_false]
      · simp only [h, if_false, e, false_and, Ctx.getP, z]
        exact Vector.getElem_set_ne _ _ this

@[simp] theorem Ctx.getX_setP (c : Ctx) (d : BitVec 3) (r : BitVec 5) (v : PReg) : (c.setP d v).getX r = c.getX r := by simp [Ctx.getX]
@[simp] theorem Ctx.getV_setP (c : Ctx) (d : BitVec 3) (r : BitVec 5) (v : PReg) : (c.setP d v).getV r = c.getV r := by simp [Ctx.getV]

/-! ## The loop step (R164) -/

/-- What the loop step leaves alone: everything but PC and the loop counters. -/
theorem Ctx.seqTo_frame (c : Ctx) (n : Word) :
    (c.seqTo n).x = c.x ∧ (c.seqTo n).v = c.v ∧ (c.seqTo n).p = c.p ∧ (c.seqTo n).d = c.d ∧ (c.seqTo n).priv = c.priv
      ∧ (c.seqTo n).ppriv = c.ppriv ∧ (c.seqTo n).bg = c.bg ∧ (c.seqTo n).hnd = c.hnd ∧ (c.seqTo n).mode = c.mode
      ∧ (c.seqTo n).flags = c.flags ∧ (c.seqTo n).seed = c.seed ∧ (c.seqTo n).stepc = c.stepc ∧ (c.seqTo n).instret = c.instret
      ∧ (c.seqTo n).stealdom = c.stealdom ∧ (c.seqTo n).spillbase = c.spillbase ∧ (c.seqTo n).spilllim = c.spilllim
      ∧ (c.seqTo n).tvec = c.tvec ∧ (c.seqTo n).epc = c.epc ∧ (c.seqTo n).cause = c.cause ∧ (c.seqTo n).tval = c.tval
      ∧ (c.seqTo n).tscratch = c.tscratch ∧ (c.seqTo n).savebase = c.savebase ∧ (c.seqTo n).note = c.note
      ∧ (c.seqTo n).trapAt = c.trapAt := by
  have step (c : Ctx) (r : BitVec 2) :
      ∃ (lc : Vector Loop 3) (pc : Word) (bad : List (Nat × Nat)), (c.stepRank r n).1 = { c with lc := lc, pc := pc, bad := bad } := by
    unfold Ctx.stepRank
    split
    · exact ⟨c.lc, c.pc, c.bad, rfl⟩
    · next i _ =>
      dsimp only
      split
      · exact ⟨c.lc, c.pc, c.bad, rfl⟩
      · split
        · exact ⟨_, _, _, rfl⟩
        · unfold Ctx.endLoop
          split
          · exact ⟨_, _, _, rfl⟩
          · exact ⟨c.lc, c.pc, c.bad, rfl⟩
  have h : ∃ (lc : Vector Loop 3) (pc : Word) (bad : List (Nat × Nat)), c.seqTo n = { c with lc := lc, pc := pc, bad := bad } := by
    unfold Ctx.seqTo
    obtain ⟨l2, p2, b2, h2⟩ := step c 2
    rcases e2 : c.stepRank 2 n with ⟨c2, t2⟩
    rw [e2] at h2
    simp only at h2
    subst h2
    cases t2
    · obtain ⟨l1, p1, b1, h1⟩ := step { c with lc := l2, pc := p2, bad := b2 } 1
      rcases e1 : Ctx.stepRank { c with lc := l2, pc := p2, bad := b2 } 1 n with ⟨c1, t1⟩
      rw [e1] at h1
      simp only at h1
      subst h1
      simp only [e1]
      cases t1
      · obtain ⟨l0, p0, b0, h0⟩ := step { c with lc := l1, pc := p1, bad := b1 } 0
        rcases e0 : Ctx.stepRank { c with lc := l1, pc := p1, bad := b1 } 0 n with ⟨c0, t0⟩
        rw [e0] at h0
        simp only at h0
        subst h0
        simp only [e0]
        cases t0
        · exact ⟨_, _, _, rfl⟩
        · exact ⟨_, _, _, rfl⟩
      · exact ⟨_, _, _, rfl⟩
    · exact ⟨_, _, _, rfl⟩
  obtain ⟨lc, pc, bad, e⟩ := h
  rw [e]
  simp

/-- What a completion leaves alone, and its count of the instruction (R126). -/
theorem Ctx.retire_frame (c : Ctx) (len : Nat) :
    (c.retire len).x = c.x ∧ (c.retire len).v = c.v ∧ (c.retire len).p = c.p ∧ (c.retire len).d = c.d ∧ (c.retire len).priv = c.priv
      ∧ (c.retire len).ppriv = c.ppriv ∧ (c.retire len).bg = c.bg ∧ (c.retire len).hnd = c.hnd ∧ (c.retire len).mode = c.mode
      ∧ (c.retire len).flags = c.flags ∧ (c.retire len).seed = c.seed ∧ (c.retire len).stepc = c.stepc
      ∧ (c.retire len).instret = c.instret + 1 ∧ (c.retire len).stealdom = c.stealdom ∧ (c.retire len).spillbase = c.spillbase
      ∧ (c.retire len).spilllim = c.spilllim ∧ (c.retire len).tvec = c.tvec ∧ (c.retire len).epc = c.epc
      ∧ (c.retire len).cause = c.cause ∧ (c.retire len).tval = c.tval ∧ (c.retire len).tscratch = c.tscratch
      ∧ (c.retire len).savebase = c.savebase ∧ (c.retire len).note = c.note ∧ (c.retire len).trapAt = c.trapAt := by
  have h := c.count.seqTo_frame (c.pc + BitVec.ofNat 64 len)
  simpa [Ctx.retire, Ctx.count] using h

/-- R164: where no loop is active, a completion goes on to the next instruction. -/
theorem Ctx.retire_pc (c : Ctx) (len : Nat) (h : (c.getLc 0).active = false ∧ (c.getLc 1).active = false ∧ (c.getLc 2).active = false) :
    (c.retire len).pc = c.pc + BitVec.ofNat 64 len := by
  obtain ⟨h0, h1, h2⟩ := h
  have g (n : Nat) : c.count.getLc n = c.getLc n := rfl
  simp [Ctx.retire, Ctx.seqTo, Ctx.stepRank, Ctx.loopOfRank, g, h0, h1, h2]

/-! ## Cores, strands and parts -/

@[simp] theorem State.core_putCore (s : State) (c : CoreId) (k : Core) : (s.putCore c k).core c = k := by
  simp [State.core, State.putCore]

theorem State.core_putCore_ne (s : State) (c d : CoreId) (k : Core) (h : d ≠ c) : (s.putCore c k).core d = s.core d := by
  simp only [State.core, State.putCore]
  rw [tget_tset_ne _ _ h]
  rfl

@[simp] theorem State.core_modCore (s : State) (c : CoreId) (f : Core → Core) : (s.modCore c f).core c = f (s.core c) := by
  simp [State.modCore]

theorem State.core_modCore_ne (s : State) (c d : CoreId) (f : Core → Core) (h : d ≠ c) : (s.modCore c f).core d = s.core d :=
  s.core_putCore_ne c d _ h

@[simp] theorem Core.strand_putStrand (k : Core) (t : Fin 4) (x : Strand) : (k.putStrand t x).strand t = x :=
  Vector.getElem_set_self _

theorem Core.strand_putStrand_ne (k : Core) (t u : Fin 4) (x : Strand) (h : u ≠ t) : (k.putStrand t x).strand u = k.strand u := by
  have : t.1 ≠ u.1 := fun e => h (Fin.ext e.symm)
  simp only [Core.strand, Core.putStrand]
  exact Vector.getElem_set_ne _ _ this

@[simp] theorem State.core_putStrand (s : State) (c : CoreId) (t : Fin 4) (x : Strand) :
    (s.putStrand c t x).core c = (s.core c).putStrand t x := by simp [State.putStrand]

theorem State.core_putStrand_ne (s : State) (c d : CoreId) (t : Fin 4) (x : Strand) (h : d ≠ c) : (s.putStrand c t x).core d = s.core d :=
  s.core_putCore_ne c d _ h

@[simp] theorem State.strand_putStrand (s : State) (c : CoreId) (t : Fin 4) (x : Strand) : (s.putStrand c t x).strand c t = x := by
  simp [State.strand]

@[simp] theorem State.strand_modStrand (s : State) (c : CoreId) (t : Fin 4) (f : Strand → Strand) :
    (s.modStrand c t f).strand c t = f (s.strand c t) := by simp [State.modStrand]

@[simp] theorem State.core_modStrand (s : State) (c : CoreId) (t : Fin 4) (f : Strand → Strand) :
    (s.modStrand c t f).core c = (s.core c).putStrand t (f (s.strand c t)) := by simp [State.modStrand]

theorem State.core_modStrand_ne (s : State) (c d : CoreId) (t : Fin 4) (f : Strand → Strand) (h : d ≠ c) :
    (s.modStrand c t f).core d = s.core d := s.core_putCore_ne c d _ h

@[simp] theorem State.ctx_putCtx (s : State) (x : Ctx) : (s.putCtx x).ctx = x := by simp [State.ctx, State.putCtx]

@[simp] theorem State.ctx_retire (s : State) (n : Nat) (x : Ctx) : (s.retire n x).ctx = x.retire n := by simp [State.retire]

@[simp] theorem State.ctx_trap (s : State) (n : Nat) (v : Word) : (s.trap n v).ctx = s.ctx.trap n s.ctx.pc v := by simp [State.trap]

/-- What a write of the running strand's registers leaves alone: every other core, and of its core everything but that strand; of the
strand everything but its registers. -/
theorem State.putCtx_frame (s : State) (x : Ctx) :
    (∀ d, d ≠ s.cur.1 → (s.putCtx x).core d = s.core d)
      ∧ (s.putCtx x).core s.cur.1 = (s.core s.cur.1).putStrand s.cur.2 { s.strand s.cur.1 s.cur.2 with ctx := x } :=
  ⟨fun d h => s.core_modStrand_ne s.cur.1 d s.cur.2 _ h, by simp [State.putCtx]⟩

@[simp] theorem vget_vset_same {α : Type} {n : Nat} [NeZero n] (v : Vector α n) (i : Nat) (x : α) : vget (vset v i x) i = x :=
  Vector.getElem_set_self _

theorem vget_vset_ne {α : Type} {n : Nat} [NeZero n] (v : Vector α n) (i j : Nat) (x : α) (h : j % n ≠ i % n) :
    vget (vset v i x) j = vget v j := by
  simp only [vget, vset]
  exact Vector.getElem_set_ne _ _ (by simpa [Fin.ofNat] using Ne.symm h)

@[simp] theorem State.wafer_putWafer (s : State) (p : Nat) (w : Wafer) : (s.putWafer p w).wafer p = w := by
  simp [State.wafer, State.putWafer]

@[simp] theorem State.wafer_modWafer (s : State) (p : Nat) (f : Wafer → Wafer) : (s.modWafer p f).wafer p = f (s.wafer p) := by
  simp [State.modWafer]

@[simp] theorem State.wafer_putCore (s : State) (c : CoreId) (k : Core) (p : Nat) : (s.putCore c k).wafer p = s.wafer p := rfl
@[simp] theorem State.wafer_modCore (s : State) (c : CoreId) (f : Core → Core) (p : Nat) : (s.modCore c f).wafer p = s.wafer p := rfl
@[simp] theorem State.wafer_modStrand (s : State) (c : CoreId) (t : Fin 4) (f : Strand → Strand) (p : Nat) :
    (s.modStrand c t f).wafer p = s.wafer p := rfl
@[simp] theorem State.ptnOf_putCore (s : State) (c d : CoreId) (k : Core) : (s.putCore c k).ptnOf d = s.ptnOf d := rfl
@[simp] theorem State.ptnOf_modStrand (s : State) (c d : CoreId) (t : Fin 4) (f : Strand → Strand) :
    (s.modStrand c t f).ptnOf d = s.ptnOf d := rfl

/-! ## Instructions that outlive their issue -/

/-- R252: an instruction issued into the store queue: it stands at its end with the registers as they were, the strand goes on after it, and
nothing else has changed but the core's count. -/
theorem State.queue_spec (s : State) (i : Instr) (len : Nat) (hold : Bool) :
    (s.queue i len hold).strand s.cur.1 s.cur.2 =
      { s.strand s.cur.1 s.cur.2 with
        ctx := s.ctx.retire len, sq := (s.strand s.cur.1 s.cur.2).sq ++ [s.entry i [] 0],
        hold := if hold then some s.me.seq else (s.strand s.cur.1 s.cur.2).hold } := by
  have e : (s.modCore s.cur.1 fun k => { k with seq := k.seq + 1 }).strand s.cur.1 s.cur.2 = s.strand s.cur.1 s.cur.2 := by
    simp only [State.strand, State.core_modCore]
    rfl
  simp only [State.queue, State.modCore_cur]
  rw [State.strand_modStrand, e]
  rfl

/-- What the issue into the store queue leaves alone of the core. -/
theorem State.queue_core (s : State) (i : Instr) (len : Nat) (hold : Bool) :
    (s.queue i len hold).core s.cur.1 =
      { s.core s.cur.1 with seq := (s.core s.cur.1).seq + 1 }.putStrand s.cur.2 ((s.queue i len hold).strand s.cur.1 s.cur.2) := by
  rw [State.queue_spec]
  have e : (s.modCore s.cur.1 fun k => { k with seq := k.seq + 1 }).strand s.cur.1 s.cur.2 = s.strand s.cur.1 s.cur.2 := by
    simp only [State.strand, State.core_modCore]
    rfl
  simp only [State.queue, State.modCore_cur, State.core_modStrand, State.core_modCore, e]
  rfl

/-! ## Canonical memories -/

/-- Whatever a state's partitions are, the memories of a core it does not list stand in the canonical form. -/
theorem State.blank_wf (s : State) (c : CoreId) : (s.blank c).near.wf = true ∧ (s.blank c).vault.wf = true := by
  unfold State.blank
  split
  · exact ⟨Memory.wf_writeN _ _ _ rfl, rfl⟩
  · exact ⟨rfl, rfl⟩

/-- So they do for every core after reset, which lists none. -/
theorem State.reset_wf (c : CoreId) : (State.reset.core c).near.wf = true ∧ (State.reset.core c).vault.wf = true := State.blank_wf _ c

end Sys2Proof.Machine
end

