-- ==== Sys2Proof/Laws/Complete.lean ====
section
/-!
SUPPORT. What the shared endings of the meanings do, in the terms statements use: completion, trap, issue into the store queue.
-/
namespace Sys2Proof.Spec
open Sys2Proof.Machine

/-- A write of the running strand's registers changes nothing else. -/
theorem regsOnly_putCtx (s : State) (x : Ctx) : RegsOnly s (s.putCtx x) := by
  have o := s.putCtx_frame x
  have e : (s.putCtx x).strand s.cur.1 s.cur.2 = { s.strand s.cur.1 s.cur.2 with ctx := x } := by
    rw [State.strand, o.2, Core.strand_putStrand]
  refine { rest := rfl, others := o.1, near := fun d a => ?_, vault := fun d a => ?_, shared := ?_, strands := fun u h => ?_, strand := ?_ }
  · by_cases h : d = s.cur.1
    · subst h; rw [o.2]; rfl
    · rw [o.1 d h]
  · by_cases h : d = s.cur.1
    · subst h; rw [o.2]; rfl
    · rw [o.1 d h]
  · rw [o.2]; rfl
  · show ((s.putCtx x).core s.cur.1).strand u = _
    rw [o.2, Core.strand_putStrand_ne _ _ _ _ h]; rfl
  · rw [e]; rfl

/-- The loop step changes PC and the loop counters alone. -/
theorem seqTo_rest (c : Ctx) (n : Word) : { c.seqTo n with pc := c.pc, lc := c.lc, bad := c.bad } = c := by
  have h := c.seqTo_frame n
  generalize c.seqTo n = e at h
  obtain ⟨⟩ := e
  obtain ⟨⟩ := c
  simp_all

theorem retire_rest (c : Ctx) (n : Nat) : SameRegs c (c.retire n) := by
  have h := c.retire_frame n
  unfold SameRegs
  generalize c.retire n = e at h
  obtain ⟨⟩ := e
  obtain ⟨⟩ := c
  simp_all

theorem counted_retire (c : Ctx) (n : Nat) : Counted c (c.retire n) n := by
  constructor
  · exact (c.retire_frame n).2.2.2.2.2.2.2.2.2.2.2.2.1
  · intro h
    refine ⟨c.retire_pc n ⟨h 0 (by omega), h 1 (by omega), h 2 (by omega)⟩, ?_⟩
    simp [Ctx.retire, Ctx.seqTo, Ctx.stepRank, Ctx.loopOfRank, show ∀ n, c.count.getLc n = c.getLc n from fun _ => rfl, h 0, h 1, h 2]

/-- A completion of registers that differ from c's in neither PC, loop counters nor INSTRET counts from c's. -/
theorem counted_of (c d : Ctx) (n : Nat) (e : d.instret = c.instret ∧ d.pc = c.pc ∧ d.lc = c.lc) : Counted c (d.retire n) n := by
  have h := counted_retire d n
  have g (m : Nat) : d.getLc m = c.getLc m := by simp [Ctx.getLc, e.2.2]
  exact ⟨by rw [h.1, e.1], fun a => by rw [← e.2.1, ← e.2.2]; exact h.2 fun m hm => by rw [g]; exact a m hm⟩

theorem wroteX_retire (c : Ctx) (d : BitVec 5) (v : Word) (n : Nat) : WroteX d v c ((c.setX d v).retire n) := by
  have h := (c.setX d v).retire_frame n
  constructor
  · intro r
    rw [← Ctx.getX_setX]
    simp [Ctx.getX, h.1]
  · have g : { c.setX d v with x := c.x, bad := c.bad } = c := by unfold Ctx.setX; split <;> rfl
    generalize c.setX d v = e at *
    generalize e.retire n = e2 at *
    obtain ⟨⟩ := e; obtain ⟨⟩ := e2; obtain ⟨⟩ := c
    simp_all

/-- An instruction that writes one x register and completes. -/
theorem completes_setX (i : Instr) (s : State) (d : BitVec 5) (v : Word) (n : Nat) (h : exec i s = .next (s.retire n (s.ctx.setX d v))) :
    Completes i s n (WroteX d v) := by
  refine ⟨_, h, regsOnly_putCtx _ _, ?_, ?_⟩
  · have e : (s.ctx.setX d v).instret = s.ctx.instret ∧ (s.ctx.setX d v).pc = s.ctx.pc ∧ (s.ctx.setX d v).lc = s.ctx.lc := by
      unfold Ctx.setX; split <;> simp
    simpa using counted_of s.ctx _ n e
  · simpa using wroteX_retire s.ctx d v n

/-- An instruction that writes no register and completes. -/
theorem completes_same (i : Instr) (s : State) (n : Nat) (h : exec i s = .next (s.retire n s.ctx)) : Completes i s n SameRegs := by
  refine ⟨_, h, regsOnly_putCtx _ _, ?_, ?_⟩
  · simpa using counted_retire s.ctx n
  · simpa using retire_rest s.ctx n

/-- R386: a trap of the running strand. -/
theorem traps_of (i : Instr) (s : State) (n : Nat) (v : Word) (h : exec i s = .next (s.trap n v)) : Traps i s n v := by
  refine ⟨_, h, regsOnly_putCtx _ _, ?_⟩
  rw [State.ctx_trap]
  constructor <;> simp [Ctx.trap]
  omega

/-- R252: an issue into the store queue. -/
theorem queued_queue (s : State) (i : Instr) (len : Nat) (hold : Bool) : Queued i len hold s (s.queue i len hold) := by
  have k := s.queue_core i len hold
  have x := s.queue_spec i len hold
  have o (d : CoreId) (h : d ≠ s.cur.1) : (s.queue i len hold).core d = s.core d := by
    simp only [State.queue, State.modCore_cur]
    rw [State.core_modStrand_ne _ _ _ _ _ h, State.core_modCore_ne _ _ _ _ h]
  have c : (s.queue i len hold).ctx = s.ctx.retire len := by
    show ((s.queue i len hold).strand s.cur.1 s.cur.2).ctx = _
    rw [x]
  refine { rest := rfl, others := o, near := fun d a => ?_, vault := fun d a => ?_, shared := ?_, seq := ?_, strands := fun u h => ?_,
           queue := ⟨s.entry i [] 0, ?_, rfl, rfl, rfl, rfl, rfl⟩, holds := ?_, strand := ?_, counted := ?_, regs := ?_ }
  · by_cases h : d = s.cur.1
    · subst h; rw [k]; rfl
    · rw [o d h]
  · by_cases h : d = s.cur.1
    · subst h; rw [k]; rfl
    · rw [o d h]
  · rw [k]; rfl
  · rw [k]; rfl
  · show ((s.queue i len hold).core s.cur.1).strand u = _
    rw [k, Core.strand_putStrand_ne _ _ _ _ h]; rfl
  · rw [x]
  · rw [x]; rfl
  · rw [x]; rfl
  · rw [c]; exact counted_retire _ _
  · rw [c]; exact retire_rest _ _

theorem queues_of (i : Instr) (s : State) (len : Nat) (hold : Bool) (h : exec i s = .next (s.queue i len hold)) : Queues i s len hold :=
  ⟨_, h, queued_queue s i len hold⟩

/-- R252: an instruction that waits in the scalar pipe. -/
theorem waiting_await (s : State) (i : Instr) : Waiting i s (s.await i) := by
  let s1 := s.modCore s.cur.1 fun k => { k with seq := k.seq + 1 }
  have e1 : s1.strand s.cur.1 s.cur.2 = s.strand s.cur.1 s.cur.2 := by
    simp only [s1, State.strand, State.core_modCore]; rfl
  have k : (s.await i).core s.cur.1 = { s.core s.cur.1 with seq := (s.core s.cur.1).seq + 1 }.putStrand s.cur.2
      { s.strand s.cur.1 s.cur.2 with wait := some (s.entry i [] 0), hold := some (s.core s.cur.1).seq } := by
    show (s1.modStrand s.cur.1 s.cur.2 _).core s.cur.1 = _
    rw [State.core_modStrand, e1, State.core_modCore]
    rfl
  have x : (s.await i).strand s.cur.1 s.cur.2 = { s.strand s.cur.1 s.cur.2 with wait := some (s.entry i [] 0), hold := some (s.core s.cur.1).seq } := by
    rw [State.strand, k, Core.strand_putStrand]
  have o (d : CoreId) (h : d ≠ s.cur.1) : (s.await i).core d = s.core d := by
    simp only [State.await, State.modCore_cur]
    rw [State.core_modStrand_ne _ _ _ _ _ h, State.core_modCore_ne _ _ _ _ h]
  refine { rest := rfl, others := o, near := fun d a => ?_, vault := fun d a => ?_, shared := ?_, seq := ?_, strands := fun u h => ?_,
           wait := ⟨s.entry i [] 0, ?_, rfl, rfl, rfl⟩, holds := ?_, regs := ?_ }
  · by_cases h : d = s.cur.1
    · subst h; rw [k]; rfl
    · rw [o d h]
  · by_cases h : d = s.cur.1
    · subst h; rw [k]; rfl
    · rw [o d h]
  · rw [k]; rfl
  · rw [k]; rfl
  · show ((s.await i).core s.cur.1).strand u = _
    rw [k, Core.strand_putStrand_ne _ _ _ _ h]; rfl
  · rw [x]
  · rw [x]
  · show ((s.await i).strand s.cur.1 s.cur.2).ctx = _
    rw [x]; rfl

end Sys2Proof.Spec
end

