-- ==== Sys2Proof/Laws/Turn.lean ====
section
/-!
SUPPORT. Laws of what goes with every turn and with the start of a core: the watch on eligible strands, the passing of time, and a launch.
-/
namespace Sys2Proof.Machine

/-- R131, R133: seeing which strands are eligible changes nothing of a core but since when each has been. -/
theorem State.watched_frame (s : State) (c : CoreId) (k : Core) :
    { s.watched c k with strands := k.strands } = k ∧ ∀ t, { (s.watched c k).strand t with since := (k.strand t).since } = k.strand t :=
  ⟨rfl, fun t => by match t with | 0 => rfl | 1 => rfl | 2 => rfl | 3 => rfl⟩

@[simp] theorem State.watched_ctx (s : State) (c : CoreId) (k : Core) (t : Fin 4) : ((s.watched c k).strand t).ctx = (k.strand t).ctx := by
  match t with | 0 => rfl | 1 => rfl | 2 => rfl | 3 => rfl

/-- R135, R137: the passing of time ends what keeps a strand from issuing, and changes nothing else of a core. -/
theorem Core.roused_frame (k : Core) (now : Nat) :
    { k.roused now with strands := k.strands } = k ∧ ∀ t, { (k.roused now).strand t with wake := (k.strand t).wake } = k.strand t :=
  ⟨rfl, fun t => by match t with | 0 => rfl | 1 => rfl | 2 => rfl | 3 => rfl⟩

@[simp] theorem State.watch_wafer (s : State) (p : Nat) : s.watch.wafer p = s.wafer p := rfl
@[simp] theorem State.watch_agenda (s : State) : s.watch.agenda = s.agenda := rfl

/-- R124, R220, R290: starting a core for a launch leaves its memories, its control block and its deque. -/
theorem Core.launched_frame (k : Core) (lead : Bool) :
    (k.launched lead).near = k.near ∧ (k.launched lead).vault = k.vault ∧ (k.launched lead).exec = k.exec ∧ (k.launched lead).launchid = k.launchid
      ∧ (k.launched lead).sems = k.sems ∧ (k.launched lead).deque = k.deque ∧ (k.launched lead).acc = Core.formed.acc
      ∧ (k.launched lead).holder = Core.formed.holder := ⟨rfl, rfl, rfl, rfl, rfl, rfl, rfl, rfl⟩
end Sys2Proof.Machine
end

