-- ==== Sys2Proof/Tests/Slice0.lean ====
section
/-!
SUPPORT. Tests: words of the spec's encodings and ill-formed terms; steps whose results the spec gives; and for every statement that has
hypotheses a state and operands that meet them, clause by clause.
-/
namespace Sys2Proof.Tests
open Sys2Proof.Machine Sys2Proof.Spec

set_option Elab.async false

/-! ## States to test on -/

/-- A part on which one isle has been formed; strand 0 of core 0 of it is ready, with registers f makes, in S mode. -/
def ready (f : Ctx → Ctx) : State :=
  State.reset.withPartition.modStrand 0 0 fun x => { x with st := .ready, ctx := f { x.ctx with priv := true } }

/-- That state after instruction i has been issued, the strand waiting for it, with core 0 as k makes it and its entry as e makes it. -/
def headed (f : Ctx → Ctx) (i : Instr) (k : Core → Core) (e : Entry → Entry) : State :=
  let s := ready f
  (s.modStrand 0 0 fun x => { x with sq := [e (s.entry i [] 0)], hold := some 0, st := .waiting }).modCore 0 fun m => k { m with seq := 1 }

/-- The entry at the head of the store queue of strand 0 of core 0. -/
def head (s : State) : Entry := ((s.strand 0 0).sq.head?).getD (s.entry .nop [] 0)

/-- The partition of core 0. -/
def ptn (s : State) : Ptn := (s.ptnOf 0).getD (Ptn.new 0 0 1 false false 0)

/-- x[d] as v. -/
def put (d : BitVec 5) (v : Word) (c : Ctx) : Ctx := c.setX d v

/-- Nothing waits for a home that sent RETRY, where nothing is on its way. -/
theorem heldBack_none (s : State) (c : CoreId) (k : Fin 4) (e : Entry) (h : s.net = []) : s.heldBack c k e = false := by
  simp only [State.heldBack, State.retrying, State.retryFrom, h, List.any_nil, List.any_eq_false]
  intro p _
  split <;> simp

/-- An entry that is all there is of its strand is at the head, where nothing is in the matrix unit or on its way. -/
theorem atHead_alone (s : State) (c : CoreId) (k : Fin 4) (e : Entry)
    (h : (s.strand c k).sq = [e] ∧ (s.strand c k).loads = [] ∧ (s.strand c k).wait = none ∧ (s.strand c k).lost = [] ∧ e.lost = [] ∧ (s.core c).unitq = []
      ∧ s.net = [] ∧ (s.core c).saved = false ∧ s.onHold c = false) : AtHead s c k e [] :=
  ⟨h.1, by simp, by simp [h.2.1], by simp [h.2.2.1], by simp [State.operandsLeft, h.2.2.2.2.2.1], fun _ _ => h.2.2.2.2.2.2.2,
    heldBack_none s c k e h.2.2.2.2.2.2.1,
    ⟨by simp [h.2.2.2.1], by simp [h.1, h.2.1, h.2.2.1, h.2.2.2.2.1], by simp [h.2.2.2.2.2.1]⟩⟩

/-- Nothing has been overwritten, where no entry says so. -/
theorem apart_all (s : State) (c : CoreId) (k : Fin 4) (h : (s.strand c k).lost = [] ∧ (∀ u ∈ (s.core c).unitq, u.lost = [])
    ∧ ∀ e ∈ (s.strand c k).loads ++ (s.strand c k).sq ++ (s.strand c k).wait.toList, e.lost = []) (n : Nat) : Apart s c k n :=
  ⟨by simp [h.1], fun e m => by
    rw [h.2.2 e (by
      rcases m with m | m | m
      · simp [m]
      · simp [m]
      · simp [m])]
    simp, fun u m => by simp [h.2.1 u m]⟩

/-- What k leaves of a core: its strands, the matrix unit's queue, and that it is not saved. -/
def KeepsStrands (k : Core → Core) : Prop := ∀ m, (k m).strands = m.strands ∧ (k m).unitq = m.unitq ∧ (k m).saved = m.saved

/-- What `headed` puts there. -/
theorem headed_strand (f : Ctx → Ctx) (i : Instr) (k : Core → Core) (e : Entry → Entry) (h : KeepsStrands k) :
    (headed f i k e).strand 0 0 = ((ready f).modStrand 0 0 fun x =>
      { x with sq := [e ((ready f).entry i [] 0)], hold := some 0, st := .waiting }).strand 0 0 ∧ ((headed f i k e).core 0).unitq = [] := by
  constructor
  · show ((State.putCore _ 0 _).core 0).strand 0 = _
    rw [State.core_putCore, Core.strand, (h _).1]
    rfl
  · show ((State.putCore _ 0 _).core 0).unitq = _
    rw [State.core_putCore, (h _).2.1]
    rfl

theorem headed_head (f : Ctx → Ctx) (i : Instr) (k : Core → Core) (e : Entry → Entry) (h : KeepsStrands k) :
    head (headed f i k e) = e ((ready f).entry i [] 0) := by
  rw [head, (headed_strand f i k e h).1]
  rfl

/-- Its partition is not held. -/
theorem onHold_ready : (ready id).onHold 0 = false := by decide +kernel

/-- It is at the head, whatever else of the core differs. -/
theorem headed_atHead (f : Ctx → Ctx) (i : Instr) (k : Core → Core) (e : Entry → Entry) (h : KeepsStrands k) (g : ∀ x, (e x).lost = x.lost) :
    AtHead (headed f i k e) 0 0 (head (headed f i k e)) [] := by
  have a := headed_strand f i k e h
  rw [headed_head f i k e h]
  refine atHead_alone _ _ _ _ ⟨?_, ?_, ?_, ?_, ?_, a.2, rfl, ?_, onHold_ready⟩
  · rw [a.1]; rfl
  · rw [a.1]; rfl
  · rw [a.1]; rfl
  · rw [a.1]; rfl
  · rw [g]; rfl
  · show ((State.putCore _ 0 _).core 0).saved = false
    rw [State.core_putCore, (h _).2.2]
    rfl

/-- A strand with nothing under way is numbered below anything. -/
theorem numbered_idle (x : Strand) (n : Nat) (h : x.loads = [] ∧ x.sq = [] ∧ x.wait = none ∧ x.lost = []) : Numbered x n := by
  simp [Numbered, h]

/-- What a next state holds. -/
def after (o : Host.Outcome State Fault Refusal) (p : State → Bool) : Bool := match o with | .next t => p t | _ => false

/-! ## Witnesses: for each statement that has hypotheses, states and operands that meet those of each clause -/

/-- Fields that end at bit 63, and at bit 64. -/
theorem witness_BitFieldResult : (62#6).toNat + ((1#6).toNat + 1) ≤ 64 ∧ 64 < (63#6).toNat + ((1#6).toNat + 1) := by decide

/-- Core (x, y) of a partition of columns 0 to 29, and the four directions at its edges and inside them. -/
theorem witness_CoordinateResult :
    let s (y x : Nat) := ready (put 1 (coordWord 0 y x))
    (∀ q ∈ [(0, 0), (1, 3), (510, 29), (511, 28), (511, 29), (0, 29)], ((s q.1 q.2).ctx.getX 1).setWidth 21 = (coordWord 0 q.1 q.2).setWidth 21)
      ∧ InPartition (s 1 3) 0 3 0 ∧ InPartition (s 510 29) 0 29 511 ∧ InPartition (s 511 28) 0 29 511 ∧ InPartition (s 1 3) 0 2 1
      ∧ ¬InPartition (s 511 29) 0 29 512 ∧ ¬InPartition (s 0 29) 0 30 0 := by
  unfold InPartition
  decide +kernel

/-- A taken and an untaken comparison of each kind; a branch out of the body [0, 8) of loop 0, and one inside it. -/
theorem witness_TransferResult :
    let s := ready fun c => (put 1 5 (put 2 (-1) c)).setLc 0 ⟨2, 0, 8, 0, true⟩
    let x := s.ctx.getX 1
    let y := s.ctx.getX 2
    (x ≠ y ∧ y.toInt < x.toInt ∧ x.toNat < y.toNat ∧ y.toInt ≤ x.toInt)
      ∧ (∃ m < 3, (s.ctx.getLc m).active = true ∧ (s.ctx.getLc m).rank.toNat ≤ (s.ctx.getLc 0).rank.toNat ∧ (s.ctx.getLc m).start.toNat ≤ s.ctx.pc.toNat
          ∧ s.ctx.pc.toNat < (s.ctx.getLc m).stop.toNat ∧ ¬((s.ctx.getLc m).start.toNat ≤ 8 ∧ 8 < (s.ctx.getLc m).stop.toNat))
      ∧ (s.ctx.getLc 0).start.toNat ≤ 4 ∧ 4 < (s.ctx.getLc 0).stop.toNat := by decide +kernel

/-- LOOP with bodies of 1, 16,382, 0 and 16,383 words, with no loop active and inside one; NOP before the end of a loop with 2 and with 1
iterations left. -/
theorem witness_LoopResult :
    let s (n : Word) (stop : BitVec 17) := ready fun c => (put 1 1 c).setLc 0 ⟨n, 0, stop, 0, true⟩
    let t := ready (put 1 1)
    NoLoop t.ctx ∧ t.ctx.getX 1 ≠ 0 ∧ t.ctx.getX 0 = 0 ∧ (1 ≤ (1#16).toNat ∧ (16382#16).toNat ≤ 16382 ∧ 16382 < (16383#16).toNat)
      ∧ (∀ n stop, (n, stop) ∈ [(2, 64), (2, 4), (1, 4)] → ((s n stop).ctx.getLc 0).active = true ∧ ((s n stop).ctx.getLc 0).rank = 0
          ∧ ∀ k < 3, k ≠ 0 → ((s n stop).ctx.getLc k).active = false)
      ∧ ((s 2 64).ctx.getLc 0).stop.setWidth 64 ≠ (s 2 64).ctx.pc + 8
      ∧ ((s 2 4).ctx.getLc 0).stop.setWidth 64 = (s 2 4).ctx.pc + 4 ∧ 1 < ((s 2 4).ctx.getLc 0).count.toNat
      ∧ ((s 1 4).ctx.getLc 0).stop.setWidth 64 = (s 1 4).ctx.pc + 4 ∧ ((s 1 4).ctx.getLc 0).count.toNat ≤ 1 := by
  refine ⟨?_, ?_⟩
  · unfold NoLoop; decide +kernel
  · simp only [List.mem_cons, List.not_mem_nil, or_false, Prod.mk.injEq]
    refine ⟨by decide +kernel, by decide +kernel, by decide, ?_, by decide +kernel, by decide +kernel, by decide +kernel, by decide +kernel, by decide +kernel⟩
    rintro n stop (⟨rfl, rfl⟩ | ⟨rfl, rfl⟩ | ⟨rfl, rfl⟩) <;> decide +kernel

/-- Two loops that end together inside a third; no loop; x1 as x1 and not as x2; no binding of tag 5. -/
theorem witness_LoopResult_nested :
    let s := ready fun c => { put 1 1 c with lc := #v[⟨1, 0, 4, 1, true⟩, ⟨3, 0, 8, 0, true⟩, ⟨1, 0, 4, 2, true⟩] }
    Nested s.ctx [2, 0, 1] ∧ Nested (ready (put 1 1)).ctx [] ∧ (ready (put 1 1)).ctx.getX 1 ≠ (ready (put 1 1)).ctx.getX 2
      ∧ (s.strand 0 0).willBind 5 (vget (s.core 0).bindings 5).isSome = false ∧ (0#5).toNat ∉ ([] : List Nat) := by
  refine ⟨⟨?_, ?_, ?_⟩, ⟨?_, ?_, ?_⟩, ?_⟩ <;> decide +kernel

/-- S mode; U mode with a number on each side of 0x010; an unassigned number of either half. -/
theorem witness_ControlRegisterResult :
    let u := ready fun c => { c with priv := false }
    (ready id).ctx.priv = true ∧ u.ctx.priv = false ∧ (0x00E#12).toNat < 0x010 ∧ 0x010 ≤ (0x010#12).toNat
      ∧ ¬Assigned 0x00F ∧ ¬Assigned 0x017 ∧ ¬Assigned 0xFFF := by unfold Assigned; decide +kernel

/-- WAITEV with an event set, with nothing asked, and with an event asked that is not there. -/
theorem witness_NopYieldAndWait :
    let s (m : Word) (ev : BitVec 5) := (ready (put 1 m)).modStrand 0 0 fun x => { x with evpend := ev }
    let hit (s : State) : BitVec 6 := let x := s.strand 0 0
      (flagBit (((s.ctx.getX 1).extractLsb' 0 6).getLsbD 5 && x.pbc == 0 && x.fpbc == 0) : BitVec 1) ++ (x.evpend &&& ((s.ctx.getX 1).extractLsb' 0 6).extractLsb' 0 5)
    (∀ t ∈ [s 1 1, s 32 0, s 0 0, s 1 0], (t.strand 0 0).loads = [] ∧ (t.strand 0 0).sq = [] ∧ t.halted 0 0 = false ∧ (t.strand 0 0).st = .ready)
      ∧ hit (s 1 1) ≠ 0 ∧ hit (s 32 0) ≠ 0 ∧ hit (s 1 0) = 0 ∧ (s 0 0).ctx.getX 1 = 0 ∧ (s 0 0).ctx.getX 0 = 0 ∧ (s 1 0).ctx.getX 1 ≠ 0
      ∧ ∀ m ev n, Apart (s m ev) 0 0 n := by
  refine ⟨?_, ?_, ?_, ?_, ?_, ?_, ?_, ?_⟩
  case refine_8 =>
    intro m ev n
    refine apart_all _ 0 0 ⟨rfl, fun u h => ?_, fun e h => ?_⟩ n
    · exact absurd (show u ∈ ([] : List UnitEntry) from h) List.not_mem_nil
    · exact absurd (show e ∈ ([] : List Entry) from h) List.not_mem_nil
  all_goals decide +kernel

/-- S and U mode; the exempt strand of a held partition, and a strand of one that is not held. -/
theorem witness_ReturnResult :
    let s := (ready id).modPtn 0 0 fun q => { q with pre := { q.pre with held := true, exempt := some (0, 0) } }
    (ready id).ctx.priv = true ∧ (ready fun c => { c with priv := false }).ctx.priv = false
      ∧ (∃ q, s.ptnOf 0 = some q ∧ s.ctx.priv = true ∧ q.pre.held = true ∧ q.pre.exempt = some s.cur ∧ (s.core 0).saved = false
          ∧ (s.wafer (cPart 0)).ptnIn q.slot = some q)
      ∧ ∀ q, (ready id).ptnOf 0 = some q → ¬(q.pre.held = true ∧ q.pre.exempt = some (ready id).cur) := by
  refine ⟨by decide +kernel, by decide +kernel, ⟨_, rfl, ?_⟩, ?_⟩
  · decide +kernel
  · intro q h
    have e : (ready id).ptnOf 0 = some (Ptn.new 0 0 1 false false 0) := by decide +kernel
    rw [e] at h
    cases h
    decide

/-- A core on which no strand is free, and one on which S1 is the lowest strand that is free. -/
theorem witness_SpawnStartsStrand :
    let full := (ready id).modCore 0 fun k => { k with strands := k.strands.map fun x => { x with st := .ready } }
    (∀ u, (full.me.strand u).st ≠ .free) ∧ ((ready id).me.strand 1).st = .free ∧ ((ready id).me.strand 1).wake = none ∧ (∀ u < (1 : Fin 4), ((ready id).me.strand u).st ≠ .free)
      ∧ (∀ g < 64, ∀ b, vget (ready id).me.bindings g = some b → b.strand ≠ 1) ∧ (ready id).cur.2 ≠ 1 := by
  refine ⟨by decide +kernel, by decide +kernel, by decide +kernel, by decide +kernel, fun g hg b h => ?_, by decide +kernel⟩
  have e : ∀ g < 64, vget (ready id).me.bindings g = none ∨ (vget (ready id).me.bindings g).map (·.strand) = some 3 := by decide +kernel
  rcases e g hg with e | e <;> simp [h] at e
  simp [e]

/-- A strand with nothing under way, in and out of a handler; one beside another strand's matrix instruction and source, with a sink of its own that
holds a flit. -/
theorem witness_HaltEndsStrand :
    let h := ready fun c => { c with hnd := true }
    let ep (strand : Fin 4) (role : BitVec 2) : Endpoint := ⟨5, role, 0, 0, true, 1, strand, 0, 0, 0, 0, 0, 0, [.laneF 7 0], 0, 0, 0, false, 0, 0, 0, false, []⟩
    let o := (ready id).modCore 0 fun k => { k with unitq := [⟨1, 3, .mzero 0, (ready id).ctx, false, 0, 0, [], [], []⟩], eps := [ep 0 1, ep 1 0] }
    Quiet o ∧ o.ctx.hnd = false ∧ Quiet (ready id) ∧ (ready id).ctx.hnd = false ∧ Quiet h ∧ h.ctx.hnd = true := by
  refine ⟨⟨?_, ?_, ?_, ?_, ?_, ?_, ?_, ?_, ?_⟩, ?_, ⟨?_, ?_, ?_, ?_, ?_, ?_, ?_, ?_, ?_⟩, ?_, ⟨?_, ?_, ?_, ?_, ?_, ?_, ?_, ?_, ?_⟩, ?_⟩ <;> decide +kernel

/-- Under MODE 0 no exception traps but POISON_VALUE, and under all enables each; a pair register; two finite numbers, an infinity, a NaN that does not
signal and one that does, under a MODE that enables NV and one that does not. -/
theorem witness_ScalarFloatResult :
    let s := ready fun c => put 1 0x3F800000 (put 2 0xC0000000 (put 3 0x7FC00000 c))
    trapKind s.ctx.mode 0x1F = none ∧ trapKind s.ctx.mode 0x400 = some 7 ∧ (∀ k < 5, trapKind 0x1F0 (1 <<< k) = some k)
      ∧ (2#5).toNat % 2 = 0 ∧ (2#5) ≠ 0
      ∧ finite (expBits 1) (fracBits 1) (s.ctx.getX 1).toNat = some (2^1074) ∧ finite (expBits 1) (fracBits 1) (s.ctx.getX 2).toNat = some (-2^1075)
      ∧ ordered (expBits 1) (fracBits 1) 0x7F800000 = some (2^2200) ∧ ordered (expBits 1) (fracBits 1) 0x3F800000 = some (2^1074)
      ∧ IsNaN (expBits 1) (fracBits 1) (s.ctx.getX 3).toNat ∧ ¬Signals (expBits 1) (fracBits 1) (s.ctx.getX 3).toNat
      ∧ IsNaN (expBits 1) (fracBits 1) 0x7F800001 ∧ Signals (expBits 1) (fracBits 1) 0x7F800001
      ∧ s.ctx.mode.getLsbD 4 = false ∧ (ready fun c => { c with mode := 0x10 }).ctx.mode.getLsbD 4 = true := by
  unfold Signals IsNaN
  decide +kernel

/-- 1 + 2^-24 in F32: it stays finite rounded each way, and an exact sum does. -/
theorem witness_SumIsRoundedOnce :
    let fin := finite (expBits 1) (fracBits 1)
    fin 0x3F800000 = some (2^1074) ∧ fin 0x33800000 = some (2^1050) ∧ ∀ rc ∈ [0, 2, 3], (fin (Num.fAdd Num.F32 rc 0 0x3F800000 0x33800000).1).isSome := by
  decide +kernel

/-- Signed and unsigned integer types. -/
theorem witness_VectorIntegerResult : ∀ t ∈ [(0 : BitVec 3), 1, 2, 3, 7], t ≠ 4 ∧ t ≠ 5 ∧ t ≠ 6 := by decide

/-- The three float types; an exception that traps and one that does not. -/
theorem witness_VectorFloatCompletes :
    typeF 4 = some Num.F32 ∧ typeF 5 = some Num.F16 ∧ typeF 6 = some Num.BF16 ∧ trapKind 0 0x1F = none ∧ trapKind 0x20 0x02 = some 1 := by decide

/-- p7, the last register that d names; a count below 16 and one of 16; an integer type, and each float type; lanes of which one raises NV, under a
guard that names it and one that does not, and under a MODE that enables NV. -/
theorem witness_MoveAndPredicateResult :
    (7#5).toNat < 8 ∧ ((ready (put 1 15)).ctx.getX 1).toNat < 16 ∧ 16 ≤ ((ready (put 1 16)).ctx.getX 1).toNat ∧ (7#3) ≠ 4 ∧ (7#3) ≠ 5 ∧ (7#3) ≠ 6
      ∧ (∀ t ∈ [(4#3, 8, 23), (5, 5, 10), (6, 8, 7)], (t.1 = 4 ∧ t.2.1 = 8 ∧ t.2.2 = 23) ∨ (t.1 = 5 ∧ t.2.1 = 5 ∧ t.2.2 = 10) ∨ (t.1 = 6 ∧ t.2.1 = 8 ∧ t.2.2 = 7))
      ∧ (let s (m : BitVec 9) := ready fun c => ((c.setV 2 (0x7F800001#512 <<< 32)).setP 1 1).setP 2 2 |> fun c => { c with mode := m }
         let raw (e : Nat) := (el 32 ((s 0).ctx.getV 2) e).toNat
         (On ((s 0).ctx.getP 2) 32 1 ∧ Signals 8 23 (raw 1)) ∧ (∀ e, ¬(On ((s 0).ctx.getP 1) 32 e ∧ Signals 8 23 (raw e)))
           ∧ (s 0).ctx.mode.getLsbD 4 = false ∧ (s 0x10).ctx.mode.getLsbD 4 = true) := by
  refine ⟨by decide, by decide +kernel, by decide +kernel, by decide, by decide, by decide, by decide, ?_⟩
  refine ⟨?_, ?_, by decide +kernel, by decide +kernel⟩
  · unfold On Signals IsNaN
    decide +kernel
  · rintro e ⟨⟨h, g⟩, n⟩
    have b : ∀ e < 512 / 32, ¬((((ready fun c => ((c.setV 2 (0x7F800001#512 <<< 32)).setP 1 1).setP 2 2).ctx.getP 1).getLsbD (e * 32 / 32) = true)
        ∧ Signals 8 23 (el 32 ((ready fun c => ((c.setV 2 (0x7F800001#512 <<< 32)).setP 1 1).setP 2 2).ctx.getV 2) e).toNat) := by
      unfold Signals IsNaN
      decide +kernel
    exact b e h ⟨g, n⟩

theorem witness_ExactPairCompletes : (4#3 = 4 ∨ (4#3) = 5) ∧ (5#3 = 4 ∨ (5#3) = 5) ∧ (30#5).toNat % 2 = 0 := by decide

/-- 1 + 2^-24: the high half is 1 and the low half 2^-24. -/
theorem witness_ExactPairIsExact :
    let fin := finite (expBits 1) (fracBits 1)
    let r := Num.pairOp (precF 1) 0 false 0 (Num.xAdd 0) 0x3F800000 0x33800000
    fin 0x3F800000 = some (2^1074) ∧ fin 0x33800000 = some (2^1050) ∧ fin r.1 = some (2^1074) ∧ fin r.2.1 = some (2^1050) ∧ r.2.2.getLsbD 5 = false := by
  decide +kernel

/-- A conversion from F32 to I32; each format at the ends of what a clause takes; a well-formed VUNPK; types with one and two lanes' worth. -/
theorem witness_ConversionAndReductionResult :
    vcvtPair 4 0 = true ∧ (∀ f ∈ [(1 : BitVec 4), 8], f ≠ 0 ∧ f.toNat < 9) ∧ (∀ f ∈ [(3 : BitVec 4), 8], 3 ≤ f.toNat ∧ f.toNat ≤ 8) ∧ (30#5).toNat % 2 = 0
      ∧ check (.vunpk 2 4 false 5 0 4) = none ∧ (∀ f ∈ [(9 : BitVec 4), 11], 9 ≤ f.toNat ∧ f.toNat ≤ 11)
      ∧ (typeF 4).isSome ∧ (typeF 5).isSome ∧ (15#5).toNat < 16 ∧ (0#3 = 0 ∨ (0#3) = 1) := by decide

/-- Core 0 with one instruction in its matrix unit's queue, as strand 0 has issued it. -/
def queuedUnit (f : Ctx → Ctx) (i : Instr) (executing : Bool) (ksteps : Nat) : State :=
  (ready f).modCore 0 fun k => { k with unitq := [⟨0, 0, i, (ready f).ctx, executing, ksteps, 0, [], [], []⟩], seq := 1 }

def unitHead (s : State) : UnitEntry := ((s.core 0).unitq.head?).getD ⟨0, 0, .nop, s.ctx, false, 0, 0, [], [], []⟩

/-- That state once the instruction has read all its beats, or its first MMA element is struck. -/
def beatsRead (s : State) : State :=
  let u := unitHead s
  s.modCore 0 fun k => { k with unitq := [{ u with executing := true, beats := (s.beatsLeft 0 u).map fun p => s.readBeat 0 p.1 p.2 }] }

/-- d[n] with a pitch of 64 bytes in the core's own vault at 0x1000, of format fmt, MX or not. -/
def desc (n : BitVec 5) (fmt : Nat) (mx : Bool) (c : Ctx) : Ctx :=
  { c with d := vset c.d n.toNat (BitVec.ofNat 64 (64 + 64 * 2^16 + fmt * 2^40 + (if mx then 2^45 else 0)) ++ 0x1000000000001000#64) }

/-- A strand that a0 belongs to. -/
def owning (s : State) : State := s.modCore 0 fun k => { k with holder := vset k.holder 0 (some 0) }

/-- a0 free, held by the strand, and held by another; a7 is the last accumulator. -/
theorem witness_AccumulatorOwnership :
    let other := (ready id).modCore 0 fun k => { k with holder := vset k.holder 7 (some 3) }
    (7#5).toNat < 8 ∧ vget ((ready id).core 0).holder 7 = none ∧ vget ((owning (ready id)).core 0).holder 0 = some (owning (ready id)).cur.2
      ∧ vget (other.core 0).holder 7 = some 3 ∧ vget (other.core 0).holder 7 ≠ some other.cur.2 := by decide +kernel

/-- What MDESC traps on. -/
def bad (x y : Word) : Bool :=
  14 ≤ (y.extractLsb' 40 4).toNat || y.getLsbD 47 || (y.extractLsb' 36 4 != 0 && !y.getLsbD 44)
    || (y.getLsbD 45 && !(3 ≤ (y.extractLsb' 40 4).toNat && (y.extractLsb' 40 4).toNat ≤ 8)) || x.toNat % 4 != 0
    || (y.extractLsb' 0 16).toNat % 4 != 0 || (y.extractLsb' 16 20).toNat % 4 != 0

/-- Each reason why a descriptor is out of order, at its edge, and one in order. -/
theorem witness_DescriptorWrite :
    (3#5).toNat < 4 ∧ bad 0 0x0000E0000000000 ∧ bad 0 0x800000000000 ∧ bad 0 0x1000000000 ∧ bad 0 0x229000000000 ∧ bad 0 0x2290000000000 ∧ bad 1 0 ∧ bad 0 2 ∧ bad 0 0x20000
      ∧ ¬bad 0x1000000000001000 0x0D0000400040 ∧ ¬bad 0 0x230000000000 ∧ ¬bad 0 0x280000000000 := by decide

/-- A strand that owns a0 with descriptors in order in d0 and d1, one that owns none, and an empty slot. -/
theorem witness_MatrixIssue :
    let f (n : Nat) (mx : Bool) (c : Ctx) : Ctx := desc 0 n mx (desc 1 n mx (put 1 0x2020 c))
    let far (n : Nat) (mx : Bool) (c : Ctx) : Ctx :=
      let b := f n mx c
      { b with d := vset b.d 0 ((vget b.d 0 ||| 0x2000004000000000#128) &&& ~~~0x1000000000000000#128) }
    let s := owning (ready (f 1 false))
    let t := ready (f 3 true)
    let fine (s : State) (n : BitVec 5) (L k : Nat) (drain ok : Bool) : Prop := s.checkDesc s.cur.1 s.ctx.priv (Desc.of (s.ctx.getD n)) L k drain ok = none
    (0#5).toNat < 8 ∧ vget (s.core 0).holder 0 = some s.cur.2 ∧ vget (t.core 0).holder 0 ≠ some t.cur.2
      ∧ fine s 0 16 1 false (Desc.of (s.ctx.getD 0)).forMma ∧ s.checkMma 0 9 16 = none ∧ selKind 19 = 2 ∧ vget (s.strand 0 0).slots 3 = none
      ∧ fine s 0 16 1 true (Desc.of (s.ctx.getD 0)).forDrain ∧ fine s 1 16 1 true (Desc.of (s.ctx.getD 1)).forDrain
      ∧ (Desc.of (t.ctx.getD 0)).forMxpq = true ∧ (Desc.of (t.ctx.getD 1)).forMxpq = true ∧ (Desc.of (t.ctx.getD 0)).fmt = (Desc.of (t.ctx.getD 1)).fmt
      ∧ ((t.ctx.getX 1).extractLsb' 0 6).toNat = 32 ∧ ((t.ctx.getX 1).extractLsb' 8 6).toNat = 32 ∧ fine t 0 32 2 false true ∧ fine t 1 32 2 false true
      ∧ s.unitOver (Desc.of (s.ctx.getD 0)) 64 = false ∧ t.unitOver (Desc.of (t.ctx.getD 0)) 160 = false
      ∧ (let u := (owning (ready (far 1 false))).modStrand 0 0 fun x => { x with pbc := 2^56 - 32 }
         vget (u.core 0).holder 0 = some u.cur.2 ∧ fine u 0 16 1 true (Desc.of (u.ctx.getD 0)).forDrain ∧ u.unitOver (Desc.of (u.ctx.getD 0)) 64 = true)
      ∧ (let u := (ready (far 3 true)).modStrand 0 0 fun x => { x with pbc := 2^56 - 32 }
         fine u 0 32 2 false true ∧ fine u 1 32 2 false true ∧ u.unitOver (Desc.of (u.ctx.getD 0)) 160 = true) := by
  decide +kernel

/-- A descriptor for each row of R228: at a near address, at the last bytes of the vault, transposed, and of a format that no MMA takes. -/
theorem witness_MatrixIssue_traps :
    let s (d : BitVec 128) := owning (ready fun c => c.setD 0 d)
    let b := BitVec.ofNat 128 (0x1000000000001000 + 2^104)
    DescTraps (s (BitVec.ofNat 128 (2^104))) ((s (BitVec.ofNat 128 (2^104))).ctx.getD 0) 16 1 false true 0x080 0
      ∧ DescTraps (s (b ||| 0x7FFF0)) ((s (b ||| 0x7FFF0)).ctx.getD 0) 16 1 false true 0x090 0x1000000000080000
      ∧ DescTraps (s (b ||| (1 <<< 110))) ((s (b ||| (1 <<< 110))).ctx.getD 0) 16 1 false true 0x10C 0
      ∧ DescTraps (s (b ||| (13 <<< 104))) ((s (b ||| (13 <<< 104))).ctx.getD 0) 16 1 false (Desc.of ((s (b ||| (13 <<< 104))).ctx.getD 0)).forMma 0x108 0 := by
  refine ⟨.inl ⟨0, ?_, rfl, ?_⟩, .inr (.inl ⟨?_, ⟨0, by decide, 0, by decide, .inl ⟨16, ?_, ?_⟩⟩, rfl, ?_⟩),
    .inr (.inr (.inl ⟨?_, ?_, ?_, rfl, rfl, rfl⟩)), .inr (.inr (.inr ⟨?_, ?_, ?_, ?_, rfl, rfl⟩))⟩ <;> decide +kernel

/-- Sources of MMA and what they are; descriptors of two formats, of one, and a shape of 33 rows, and of 33 columns. -/
theorem witness_MatrixIssue_sources :
    let f (n m : Nat) (v : Word) (c : Ctx) : Ctx := desc 0 n true (desc 1 m true (put 1 v c))
    let s (n m : Nat) (v : Word) := owning (ready (f n m v))
    let fine (s : State) (n : BitVec 5) : Prop := s.checkDesc s.cur.1 s.ctx.priv (Desc.of (s.ctx.getD n)) 32 2 false (Desc.of (s.ctx.getD n)).forMxpq = none
    selKind 0 = 0 ∧ selKind 8 = 1 ∧ selKind 9 = 1
      ∧ (∀ v ∈ [(3, 4, 0x2020), (3, 3, 0x2021), (3, 3, 0x2120)], fine (s v.1 v.2.1 v.2.2) 0 ∧ fine (s v.1 v.2.1 v.2.2) 1)
      ∧ (Desc.of ((s 3 4 0).ctx.getD 0)).fmt ≠ (Desc.of ((s 3 4 0).ctx.getD 1)).fmt
      ∧ 32 < (((s 3 3 0x2021).ctx.getX 1).extractLsb' 0 6).toNat ∧ 32 < (((s 3 3 0x2120).ctx.getX 1).extractLsb' 8 6).toNat := by
  decide +kernel

/-- Each of them at the head of the unit's queue, nothing else on its way: with beats to read, and with all read; one whose strand has an access that
waits after RETRY to the vault it writes; and one on a core that is stopped. -/
theorem witness_UnitExecutes :
    let f (c : Ctx) : Ctx := desc 0 1 false (desc 1 3 true (desc 2 3 true (desc 3 1 false c)))
    let s (i : Instr) := queuedUnit f i false 0
    let u (i : Instr) := unitHead (s i)
    (∀ i ∈ [Instr.mma 0 0 4 false 3 1, .mzero 7, .mld 3, .mxpq 1 2 1 0, .mdrain 7 0 0 true false true 0 3 0],
        ((s i).core 0).unitq = [u i] ∧ ((s i).core 0).stopped = false ∧ (s i).amending 0 = false ∧ (u i).executing = false ∧ (u i).instr = i
          ∧ (s i).queueLeft 0 (u i) = true ∧ (s i).unitSends 0 (u i) 1 = true ∧ (s i).unitSends 0 (u i) 0 = true ∧ (s i).unitReads 0 (u i) ((s i).unitHomes 0 (u i)) ((s i).inFlight 0 (u i)) = true)
      ∧ (∀ i ∈ [Instr.mld 3, .mxpq 1 2 1 0, .mdrain 7 0 0 true false true 0 3 0], ((s i).beatsLeft 0 (u i)).isEmpty = false)
      ∧ (let t := beatsRead (s (.mld 3))
         (t.core 0).unitq = [unitHead t] ∧ t.unitReads 0 (unitHead t) (t.unitHomes 0 (unitHead t)) (t.inFlight 0 (unitHead t)) = true
          ∧ t.beatsLeft 0 (unitHead t) = [])
      ∧ (let t := (beatsRead (s (.mld 3))).modCore 0 fun k => { k with unitq := k.unitq.map fun v => { v with beats := v.beats.map fun b => { b with bad := some 9 } } }
         t.beatsLeft 0 (unitHead t) = [] ∧ elBad (unitHead t) 0 ((unitHead t).snap.getD 3) 16 0 0 0 = true
          ∧ elBad (unitHead (beatsRead (s (.mld 3)))) 0 ((unitHead (beatsRead (s (.mld 3)))).snap.getD 3) 16 0 0 0 = false)
      ∧ (∀ i ∈ [Instr.mxpq 1 2 1 0, .mdrain 7 1 0 true false true 0 3 0],
          let r : Req := ⟨5, 0, 0, 7, 0, 0, 0, 8, .load, 0, true, 0, false, false, false, .retry 9⟩
          let t : State := { s i with net := [r] }
          (t.core 0).unitq = [u i] ∧ r ∈ t.net ∧ r.core = 0 ∧ r.strand = (u i).strand ∧ r.seq ≠ (u i).seq ∧ r.home = t.descHome 0 (Desc.of ((u i).snap.getD 1))
            ∧ r.st = .retry 9)
      ∧ (((s (.mld 3)).modCore 0 fun k => { k with stopped := true }).core 0).stopped = true ∧ (u (.mld 3)).beats = [] := by
  refine ⟨?_, ?_, ?_, ?_, ?_, ?_⟩ <;> decide +kernel

/-- An MMA on octets before its first of two k-steps and before its last; one on lines of a vault with beats to read. -/
theorem witness_MmaKstepAccumulates :
    (∀ n ∈ [0, 1], let s := queuedUnit id (.mma 7 0 3 false 3 1) true n
      Head s 0 (unitHead s) [] ∧ (unitHead s).executing = true ∧ (unitHead s).instr = .mma 7 0 3 false 3 1 ∧ selKind 0 = 0 ∧ selKind 3 = 0 ∧ (7#5).toNat < 8
        ∧ (unitHead s).ksteps = n ∧ n ≤ (1#4).toNat ∧ (unitHead s).struck = [] ∧ ∀ m, Apart s 0 (unitHead s).strand m)
      ∧ (let s := queuedUnit (desc 0 3 false) (.mma 7 8 3 false 3 1) true 0
         Head s 0 (unitHead s) [] ∧ (unitHead s).executing = true ∧ (s.beatsLeft 0 (unitHead s)).isEmpty = false
          ∧ s.unitReads 0 (unitHead s) (s.unitHomes 0 (unitHead s)) (s.inFlight 0 (unitHead s)) = true) := by
  simp only [List.forall_mem_cons, List.not_mem_nil, false_imp_iff, implies_true, and_true]
  refine ⟨⟨⟨⟨?_, ?_, ?_⟩, ?_, ?_, ?_, ?_, ?_, ?_, ?_, ?_, ?_⟩, ⟨⟨?_, ?_, ?_⟩, ?_, ?_, ?_, ?_, ?_, ?_, ?_, ?_, ?_⟩⟩, ⟨?_, ?_, ?_⟩, ?_, ?_, ?_⟩
  all_goals first | decide +kernel | exact apart_all _ _ _ (by decide +kernel)

/-- An MDRAIN to F32 and an MXPQ of two descriptors of one format, under MODE 0, that have read what they read. -/
theorem witness_DrainSendsLines : ∀ i ∈ [Instr.mdrain 7 0 0 true false false 0 0 0, .mxpq 1 2 1 0],
    let s := beatsRead (queuedUnit (fun c => desc 0 1 false (desc 1 3 true (desc 2 3 true c))) i false 0)
    let u := unitHead s
    Head s 0 u [] ∧ u.instr = i ∧ u.snap.mode.extractLsb' 4 5 = 0 ∧ s.queueLeft 0 u = true ∧ s.unitSends 0 u 0 = true ∧ s.unitSends 0 u 1 = true ∧ s.beatsLeft 0 u = []
      ∧ s.unitReads 0 u (s.unitHomes 0 u) [] = true ∧ (Desc.of (u.snap.getD 0)).fmt ≤ 4 ∧ (Desc.of (u.snap.getD 1)).forMxpq = true
      ∧ (Desc.of (u.snap.getD 1)).fmt = (Desc.of (u.snap.getD 2)).fmt ∧ ∀ n, Apart s 0 u.strand n := by
  simp only [List.forall_mem_cons, List.not_mem_nil, false_imp_iff, implies_true, and_true]
  refine ⟨⟨⟨?_, ?_, ?_⟩, ?_, ?_, ?_, ?_, ?_, ?_, ?_, ?_, ?_, ?_, ?_⟩, ⟨⟨?_, ?_, ?_⟩, ?_, ?_, ?_, ?_, ?_, ?_, ?_, ?_, ?_, ?_, ?_⟩⟩
  all_goals first | decide +kernel | exact apart_all _ _ _ (by decide +kernel)

/-- Of them one whose lines raise nothing, and an MDRAIN of 1 + 2^-60 to F32 whose first line raises NX, which MODE traps. -/
theorem witness_DrainSendsLines_exceptions :
    let s (m : BitVec 9) (v : Nat) := (beatsRead (queuedUnit (fun c => desc 0 1 false (desc 1 3 true (desc 2 3 true { c with mode := m }))) (.mdrain 7 0 0 true false false 0 0 0)
      false 0)).modCore 0 fun k => { k with acc := vset k.acc 7 (vset (vget k.acc 7) 0 (BitVec.ofNat 80 v)) }
    let es (s : State) : List (Nat × Num.Exc) :=
      let u := unitHead s
      (List.range 16).map fun l => (l, (drainedLine s 0 u 7 0 (u.snap.getD 0) (u.snap.getD 0) 0 false false 0 l).2.2)
    let q (n : Nat) : List (Nat × Num.Exc) :=
      let t := beatsRead (queuedUnit (fun c => desc 1 3 true (desc 2 3 true (put 1 (BitVec.ofNat 64 n) c))) (.mxpq 1 2 1 0) false 0)
      let u := unitHead t
      (List.range 32).map fun k => (k, (requantised t 0 u (u.snap.getD 2) 1 0 k).1.foldl (fun a r => a ||| r.2) 0)
    trapKind 0 (excAll (es (s 0 0))) = none ∧ trapKind 0x100 (excAll (es (s 0x100 (16383 * 2^64 + 16)))) = some 4 ∧ trapKind 0 (excAll (q 0)) = none := by
  decide +kernel

/-- An address for each check, at the edge where it fails; the edges where all hold; and instructions whose address is in no space of theirs. -/
theorem witness_AddressChecks :
    let s := ready (put 1 0x4000000000000000)
    let u := (ready fun c => { c with priv := false }).modCore 0 fun k => { k with exec := 1 <<< 1023 }
    let sp (ea : Word) := (ea.extractLsb' 60 4).toNat
    (sp 0x4000000000000000 ≠ 0 ∧ sp 0x4000000000000000 ≠ 1 ∧ sp 0x4000000000000000 ≠ 2 ∧ sp 0x4000000000000000 ≠ 15)
      ∧ (sp 0xF000000000000000 = 15 ∧ { accLd with ctrl := true }.ctrl = true ∧ u.ctx.priv = false)
      ∧ ((0x10000#64).extractLsb' 16 44 ≠ 0 ∧ accLd.near = true) ∧ (sp 0x1000000000080000 = 1 ∧ (0x1000000000080000#64).extractLsb' 19 41 ≠ 0 ∧ accLd.vault = true)
      ∧ (sp 0x2800000000000000 = 2 ∧ (0x2800000000000000#64).getLsbD 59 = true)
      ∧ (0x10000 < ((0xFFF9#64).extractLsb' 0 16).toNat + 8 ∧ ¬0x10000 < ((0xFFF8#64).extractLsb' 0 16).toNat + 8)
      ∧ (0x80000 < ((0x100000000007FFF9#64).extractLsb' 0 19).toNat + 8 ∧ ¬0x80000 < ((0x100000000007FFF8#64).extractLsb' 0 19).toNat + 8)
      ∧ (4#64).toNat % 8 ≠ 0 ∧ sp 0x2700000000000000 = 2 ∧ (0x2700000000000000#64).extractLsb' 19 19 = 0 ∧ s.globalCore 0 0x2700000000000000 = none
      ∧ (accSt.store = true ∧ (u.core 0).execIn ((0xFFC0#64).extractLsb' 0 16).toNat 8 = true) ∧ (accLd.store = false)
      ∧ (∀ i ∈ [Instr.ld 2 1 3 0, .st 2 1 3 0, .amoAdd 2 1 3 3, .cas 2 1 3 4 3, .amov 1 2 0 4, .ldvg 2 1 2 0, .stvx 2 1 2 0, .ldfe 2 1 0],
          i ∈ loadsOf 2 1 3 0 ++ loadsOf 2 1 2 0 ++ storesOf 2 1 3 0 ++ storesOf 2 1 2 0 ++ atomicsOf 2 1 3 4 0 3 ++ atomicsOf 1 2 0 4 0 4 ∨ i = .amov 1 2 0 4)
      ∧ (s.ctx.getX 1 + ((0#12).signExtend 64 <<< 3)).extractLsb' 60 4 ≠ 0xF#4
      ∧ ∀ i ∈ [Instr.ld 2 1 3 0, .st 2 1 3 0, .amoAdd 2 1 3 3, .cas 2 1 3 4 3, .ldvg 2 1 2 0, .stvx 2 1 2 0, .ldfe 2 1 0],
          accessCheck s i = some (0, 0x4000000000000000) := by decide +kernel

theorem issuing_ready (f : Ctx → Ctx) : Issuing (ready f) :=
  ⟨rfl, .inl rfl, numbered_idle ((ready f).strand 0 0) ((ready f).core 0).seq ⟨rfl, rfl, rfl, rfl⟩, fun u h => absurd (show u ∈ ([] : List UnitEntry) from h) List.not_mem_nil⟩

/-- Each load at the last address of the near store that takes it. -/
theorem witness_NearLoadResult :
    let s (a : Word) := ready (put 1 a)
    let m (a : Word) (i : Instr) : Prop := (s a).mayLeave 0 0 ((s a).entry i [] 0) = true
    (∀ a, Issuing (s a) ∧ ((s a).core 0).nearUe = []) ∧ (3#3).toNat ≤ 3 ∧ (0xFFF8#64).toNat + 2^3 ≤ 0x10000 ∧ (0xFFF8#64).toNat % 2^3 = 0
      ∧ m 0xFFF8 (.ld 2 1 3 0) ∧ m 0xFFF8 (.lda 2 1 3 0) ∧ (0xFFF0#64).toNat + 16 ≤ 0x10000 ∧ (30#5).toNat % 2 = 0 ∧ m 0xFFF0 (.ld 30 1 4 0)
      ∧ (0xFFC0#64).toNat + vecBytes 0 ≤ 0x10000 ∧ m 0xFFC0 (.ldv 2 1 0 0)
      ∧ NearOnly (memElems (s 0xFFFF).ctx (.ldvs 2 1 0 0)) ∧ m 0xFFFF (.ldvs 2 1 0 0) ∧ (0xFFFC#64).toNat < 0x10000
      ∧ NearOnly (memElems (s 0xFFFC).ctx (.ldvg 2 1 2 0)) ∧ m 0xFFFC (.ldvg 2 1 2 0) := by
  refine ⟨fun a => ⟨issuing_ready _, rfl⟩, ?_⟩
  unfold NearOnly
  decide +kernel

/-- A load of each kind from the last doubleword of the core's own vault. -/
theorem witness_VaultLoadSends :
    let s := ready (put 1 0x100000000007FFF8)
    Issuing s ∧ (s.ctx.getX 1 + ((0#12).signExtend 64 <<< 3)).extractLsb' 60 4 ≠ 0xF#4
      ∧ ∀ i ∈ [Instr.ld 2 1 3 0, .lda 2 1 3 0, .ldv 2 1 3 0, .ldfe 2 1 0, .ldfeE 2 1 0], i ∈ loadsOf 2 1 3 0 ∧ accessCheck s i = none
          ∧ s.place 0 0x100000000007FFF8 = .vault 0 0x7FFF8 ∧ (memElems s.ctx i).map Prod.fst = [0x100000000007FFF8]
          ∧ s.mayLeave 0 0 (s.entry i [] 0) = true := by
  refine ⟨issuing_ready _, ?_⟩
  decide +kernel

/-- A strand with one load outstanding: its bytes have come, or a fault has; nothing that the quay sent before is on its way. -/
theorem witness_LoadReturns :
    let s (i : Instr) (ps : List Resp) := (ready id).modStrand 0 0 fun x => { x with loads := [{ (ready id).entry i ps 1 with seq := 7 }] }
    (∀ i ∈ [Instr.ld 2 1 3 0, .cas 2 1 3 4 3, .amoAddsat 2 1 3 3, .ld 2 1 4 0, .ldfe 2 1 0, .amoFadd 2 1 3 3, .ldv 2 1 3 0, .amovR 2 1 3 0 4, .ldvg 2 1 2 0],
        ∃ e, ((s i [.done [1, 2]]).strand 0 0).loads = [e] ∧ (∀ y ∈ [] ++ ((s i [.done [1, 2]]).strand 0 0).sq, e.seq < y.seq)
          ∧ ((s i [.done [1, 2]]).strand 0 0).wait = none ∧ e.phase = 1 ∧ e.parts = [[1, 2]].map Resp.done ∧ e.instr = i
            ∧ Apart (s i [.done [1, 2]]) 0 0 e.seq ∧ (s i [.done [1, 2]]).acks = [])
      ∧ (.amoAddsat 2 1 3 3 ∈ (atomicsOf 2 1 3 4 0 3).take 11)
      ∧ ∃ e, ((s (.ld 2 1 3 0) [.done [1], .fault 9 0, .done []]).strand 0 0).loads = [e] ∧ e.parts = [[1]].map Resp.done ++ Resp.fault 9 0 :: [.done []]
          ∧ .pending ∉ [Resp.done []] ∧ storesBytes e.instr = false := by
  refine ⟨fun i _ => ⟨_, rfl, fun y hy => absurd (show y ∈ ([] : List Entry) from hy) List.not_mem_nil, rfl, rfl, rfl, rfl, ⟨?_, ?_, ?_⟩, rfl⟩, by decide, ⟨_, rfl, rfl, by decide, rfl⟩⟩
  · exact fun p h => absurd (show p ∈ ([] : List (Nat × Nat)) from h) List.not_mem_nil
  · rintro e (h | h | h)
    · rw [List.mem_singleton.mp (show e ∈ [_] from h)]
      exact fun p h => absurd (show p ∈ ([] : List (Nat × Nat)) from h) List.not_mem_nil
    · exact absurd (show e ∈ ([] : List Entry) from h) List.not_mem_nil
    · cases (show (none : Option Entry) = some e from h)
  · exact fun u h => absurd (show u ∈ ([] : List UnitEntry) from h) List.not_mem_nil

/-- A store and an atomic whose check passes, at a count from which 2^56 is not reached and one from which it is; lists of 0, 1, 4,096 and 4,097
words; a range that leaves the vault, from an aligned and a misaligned address, and from one with reserved bits; a misaligned address that stays inside. -/
theorem witness_StoreIssues :
    let s (n : Nat) := (ready (put 1 0x2000004000000000)).modStrand 0 0 fun x => { x with pbc := n }
    let w (n : Word) := ready fun c => put 1 0x1000000000000000 (put 2 n c)
    (∀ i ∈ [Instr.st 2 1 3 0, .stfe 2 1 0, .amoAdd 2 1 3 3, .cas 2 1 3 4 3], i ∈ storesOf 2 1 3 0 ++ atomicsOf 2 1 3 4 0 3 ∧ accessCheck (s 0) i = none
        ∧ (s 0).pbcOver i = false ∧ (s (2^56 - 8)).pbcOver i = true)
      ∧ ((s 0).ctx.getX 1 + ((0#12).signExtend 64 <<< 3)).extractLsb' 60 4 ≠ 0xF#4
      ∧ 4096 < ((w 4097).ctx.getX 2).toNat ∧ ((w 4096).ctx.getX 2).toNat ≤ 4096 ∧ ((w 0).ctx.getX 2).toNat = 0
      ∧ (w 1).checkEls (.feclr 1 2) accQuay 8 = none ∧ (w 1).pbcOver (.feclr 1 2) = false
      ∧ (w 0).check 0 (w 0).ctx.priv accQuay ((w 0).ctx.getX 1) 8 8 false = none
      ∧ (ready fun c => put 1 0 (put 2 1 c)).check 0 true accQuay 0 8 8 false = some 0
      ∧ (let t (n : Word) := ready fun c => put 1 0x100000000007FFF8 (put 2 n c)
         (t 1).check 0 true accQuay 0x100000000007FFF8 8 8 false = none ∧ ((0x100000000007FFF8#64).extractLsb' 0 19).toNat + 8 * 1 = 0x80000
          ∧ (let u (a : Word) := ready fun c => put 1 a (put 2 1 c)
             (u 0x100000000007FFFC).check 0 true accQuay 0x100000000007FFFC 8 8 false = some 5 ∧ 0x80000 < ((0x100000000007FFFC#64).extractLsb' 0 19).toNat + 8 * 1
               ∧ (u 0x1000000000000004).check 0 true accQuay 0x1000000000000004 8 8 false = some 5
               ∧ (u 0x100000000017FFF8).check 0 true accQuay 0x100000000017FFF8 8 8 false = some 2)
          ∧ ((t 2).ctx.getX 2).toNat ≤ 4096 ∧ 0x80000 < ((0x100000000007FFF8#64).extractLsb' 0 19).toNat + 8 * ((t 2).ctx.getX 2).toNat)
      ∧ ((ready fun c => put 1 0x2000004000000000 (put 2 1 c)).modStrand 0 0 fun x => { x with pbc := 2^56 - 8 }).pbcOver (.feset 1 2) = true := by decide +kernel

/-- Stores at the head of their queue: to the near store's end, to a vault, and of a vector's elements apart from one another. -/
theorem witness_StoreWritesItsBytes :
    let s (f : Ctx → Ctx) (i : Instr) := headed f i id id
    let apart (l : List (Word × Nat)) : Prop := l.Pairwise fun p q => p.1.toNat + p.2 ≤ q.1.toNat ∨ q.1.toNat + q.2 ≤ p.1.toNat
    let els (f : Ctx → Ctx) (i : Instr) := memElems (head (s f i)).snap i
    let g (c : Ctx) : Ctx := put 1 0xFFC0 c
    let h (c : Ctx) : Ctx := put 1 0x100 (c.setV 4 (BitVec.ofNat 512 ((List.range 16).foldl (fun n k => n + k * 2^(32 * k)) 0)))
    (∀ f i, AtHead (s f i) 0 0 (head (s f i)) [] ∧ (head (s f i)).instr = i) ∧ (s g (.st 2 1 3 0)).memOk = true ∧ (s h (.stl 2 1 3 0)).released 0 0 0 2 = true
      ∧ ((s h (.stl 2 1 3 0)).strand 0 0).faults = [] ∧ (∀ n ∈ [(0xFFF8, 8), (0xFFF0, 16), (0xFFC0, 64)], (BitVec.ofNat 64 n.1).toNat + n.2 ≤ 0x10000)
      ∧ (ready id).place 0 0x1000000000000010 = .vault 0 16
      ∧ NearOnly (els g (.stvs 3 1 2 1)) ∧ apart (els g (.stvs 3 1 2 1)) ∧ (els g (.stvs 3 1 2 1)).length = 16
      ∧ NearOnly (els h (.stvx 3 1 2 0)) ∧ apart (els h (.stvx 3 1 2 0)) ∧ (els h (.stvx 3 1 2 0)).length = 16 := by
  refine ⟨fun f i => ⟨headed_atHead f i id id (fun _ => ⟨rfl, rfl, rfl⟩) fun _ => rfl, rfl⟩, ?_⟩
  unfold NearOnly
  decide +kernel

/-- An instruction with a posted and a fetched form of each kind at the head, its address in the core's own vault; three words for FECLR. -/
theorem witness_AtomicSendsRequest :
    let f (c : Ctx) : Ctx := put 1 0x1000000000000040 (put 2 3 c)
    let s (i : Instr) := headed f i id id
    (∀ i, AtHead (s i) 0 0 (head (s i)) [] ∧ (head (s i)).instr = i) ∧ (s .nop).place 0 ((head (s .nop)).snap.getX 1) = .vault 0 0x40
      ∧ (head (s (.stfe 3 1 0))).phase = 0 ∧ (s (.stfe 3 1 0)).released 0 0 0 2 = true ∧ ((s (.stfe 3 1 0)).strand 0 0).faults = []
      ∧ ∀ n < ((head (s (.feclr 1 2))).snap.getX 2).toNat,
          (s (.feclr 1 2)).place 0 ((head (s (.feclr 1 2))).snap.getX 1 + BitVec.ofNat 64 (8 * n)) = .vault 0 (0x40 + 8 * n) := by
  refine ⟨fun i => ⟨headed_atHead _ i id id (fun _ => ⟨rfl, rfl, rfl⟩) fun _ => rfl, rfl⟩, ?_⟩
  decide +kernel

/-- A request of core 0 to its own vault, alone on its way. -/
def asking (op : ReqOp) (len : Nat) (k : Core → Core) : State :=
  let s := ready id
  { s.modCore 0 k with net := [⟨5, 0, 0, 0, 0, 0, 0x7FFC0, len, op, 0x100000000007FFC0, true, 0, false, false, false, .flying⟩] }

/-- The last request on its way. -/
def request (s : State) : Req := s.net.getLastD ⟨0, 0, 0, 0, 0, 0, 0, 0, .load, 0, true, 0, false, false, false, .flying⟩

theorem asking_atQuay (op : ReqOp) (len : Nat) (k : Core → Core) : AtQuay (asking op len k) (request (asking op len k)) := by
  have p : ∀ s : State, s.parks = [] → ∀ r ∈ s.parks, r.home ≠ 0 := fun s h => by simp [h]
  have m : (ready id).moving 0 = false := by decide +kernel
  have o : (ready id).orphan 0 = false := by decide +kernel
  have q : (asking op len k).stops 0 0 = none := by
    have o' : (asking op len k).orphan 0 = false := o
    simp [State.stops, State.crossStop, o']
  exact ⟨rfl, rfl, q, m, p _ rfl⟩

/-- Each request at its quay, its block good, its word FULL, EMPTY, or its block poisoned. -/
theorem witness_QuayPerformsRequest :
    let empty (k : Core) : Core := { k with empty := [0xFFF8] }
    let poison (k : Core) : Core := { k with poison := [0x3FFE] }
    (∀ op len, AtQuay (asking op len id) (request (asking op len id)) ∧ (request (asking op len id)).op = op ∧ (request (asking op len id)).len = len)
      ∧ (∀ op len, AtQuay (asking op len empty) (request (asking op len empty))) ∧ (∀ op len, AtQuay (asking op len poison) (request (asking op len poison)))
      ∧ (∀ k ∈ [id, empty, poison], (asking (.ldfe true) 8 k).memOk = true)
      ∧ (∀ n ∈ [8, 32, 64], ((asking .load n id).core 0).poisonedIn 0x7FFC0 n = false) ∧ ((asking .load 8 poison).core 0).poisonedIn 0x7FFC0 8 = true
      ∧ 0x7FFC0 / 8 ∉ ((asking .load 8 id).core 0).empty ∧ ¬(0x7FFC0 / 8 ∉ ((asking .load 8 empty).core 0).empty)
      ∧ [(1 : Byte), 2].length = (request (asking (.store [1, 2]) 2 id)).len := by
  refine ⟨fun op len => ⟨asking_atQuay op len id, rfl, rfl⟩, fun op len => asking_atQuay op len _, fun op len => asking_atQuay op len _, ?_⟩
  simp only [List.forall_mem_cons, List.not_mem_nil, false_imp_iff, implies_true, and_true]
  decide +kernel

/-- An LDFE of an EMPTY word and an STFE of a FULL one, where none is parked and where 16 are; a request answered FE_BUSY whose time has come; a
home that moves; an acknowledgement without and with a fault; a word of the last block; an increment of a semaphore
one below its end. -/
theorem witness_AccessEvents :
    let empty := asking (.ldfe true) 8 fun k => { k with empty := [0xFFF8] }
    let busy := { ready id with net := [{ request empty with st := .busy 0 }] }
    let moving := empty.modWafer 0 fun w => { w with chart := { w.chart with tiles := [(0, { w.chart.tile 0 with moving := true })] } }
    let ack (f : Option (Nat × Word)) (l : Option (Nat × Resp)) : Ack := ⟨3, 0, 0, 1, 8, false, false, f, 0, l⟩
    let s (f : Option (Nat × Word)) (l : Option (Nat × Resp)) (es : List Entry) := { (ready id).modStrand 0 0 fun x => { x with loads := es } with acks := [ack f l] }
    let sem := { (ready id).modCore 0 fun k => { k with sems := vset k.sems 15 0xFFFFFFFE } with semq := [(0, 15)] }
    let fill := asking (.stfe true 7) 8 id
    AtQuay empty (request empty) ∧ (request empty).op = .ldfe true ∧ (empty.core 0).poisonedIn 0x7FFC0 8 = false ∧ 0x7FFC0 / 8 ∈ (empty.core 0).empty
      ∧ AtQuay fill (request fill) ∧ (request fill).op = .stfe true 7 ∧ (fill.core 0).poisonedIn 0x7FFC0 8 = false ∧ 0x7FFC0 / 8 ∉ (fill.core 0).empty
      ∧ (let full : State := { empty with parks := List.replicate 16 (request empty) }
         full.net.find? (fun r => r.id == 5 && r.st == .flying) = some (request empty) ∧ full.stops 0 0 = none ∧ full.moving 0 = false
          ∧ 16 ≤ (full.parks.filter fun r => r.home == 0).length ∧ (empty.parks.filter fun r => r.home == 0).length < 16)
      ∧ busy.net.find? (fun r => r.id == 5) = some { request empty with st := .busy 0 } ∧ 0 ≤ busy.now
      ∧ moving.net.find? (fun r => r.id == 5 && r.st == .flying) = some (request empty) ∧ moving.net.any (request empty).before = false
      ∧ moving.stops 0 0 = none ∧ moving.moving 0 = true
      ∧ (∀ f ∈ [none, some (9, 0)], (s f none []).acks.find? (fun b => b.id == 3) = some (ack f none) ∧ (s f none []).owes 0 0 3 = false
          ∧ ∀ e ∈ ((s f none []).strand 0 0).sq, e.seq ≠ 1)
      ∧ 65535 < 65536 ∧ (ready id).parks = []
      ∧ (0, 15) ∈ sem.semq ∧ (sem.core 0).saved = false ∧ (vget (sem.core 0).sems 15).toNat < 2^32 - 1 := by
  refine ⟨asking_atQuay _ _ _, ?_, ?_, ?_, asking_atQuay _ _ _, ?_⟩ <;> decide +kernel

/-- A request that wakes a parked one, of each kind. -/
theorem witness_AccessEvents_wakes :
    let met (op : ReqOp) (e : List Nat) (p : ReqOp) : State :=
      { asking op 8 fun k => { k with empty := e } with parks := [{ request (asking p 8 id) with id := 4 }] }
    ∀ v ∈ [(ReqOp.stfe true 7, [0xFFF8], ReqOp.ldfe false), (.fese, [0xFFF8], .ldfe true), (.ldfe true, [], .stfe true 7), (.fecl, [], .stfe true 7),
        (.store (List.replicate 8 0), [], .join), (.amo 0 3 0, [], .join)],
      let t := met v.1 v.2.1 v.2.2
      let q := request t
      t.memOk = true ∧ t.net.find? (fun r => r.id == q.id && r.st == .flying) = some q ∧ q.op = v.1 ∧ t.net.any q.before = false
        ∧ t.stops q.core q.home = none ∧ t.moving q.home = false ∧ (t.core q.home).poisonedIn q.off 8 = false
        ∧ (∀ r ∈ t.parks, r.home = q.home ∧ r.off = q.off ∧ r.len = 8 ∧ r.op = v.2.2 ∧ r.id = 4) ∧ t.parks.length = 1 ∧ q.len = 8 ∧ q.off % 8 = 0
        ∧ (q.off / 8 ∈ (t.core q.home).empty ↔ v.2.1 ≠ []) ∧ leNat ((t.core q.home).vault.readN q.off 8) = 0 := by
  decide +kernel

/-- An acknowledgement that an older one or an older answer of its home goes before; one that brings what a load reads, and an atomic. -/
theorem witness_AccessEvents_answers :
    let ack (n : Nat) (l : Option (Nat × Resp)) : Ack := ⟨n, 0, 0, 1, 8, false, false, none, 0, l⟩
    let load (i : Instr) : Entry := { (ready id).entry i [.pending] 1 with seq := 1 }
    let s (as : List Ack) (bs : List BulkAck) (es : List Entry) : State :=
      { (ready id).modStrand 0 0 fun x => { x with loads := es } with acks := as, bulkAcks := bs }
    (let t := s [ack 3 none, ack 4 none] [] []
     t.acks.find? (fun x => x.id == 4) = some (ack 4 none) ∧ ∃ x ∈ t.acks, x.core = 0 ∧ x.home = 0 ∧ x.id < 4)
      ∧ (let t := s [ack 3 none] [⟨2, 0, 0, 0⟩] []
         t.acks.find? (fun x => x.id == 3) = some (ack 3 none) ∧ ∃ x ∈ t.bulkAcks, x.core = 0 ∧ x.origin = 0 ∧ x.id < 3)
      ∧ ∀ i ∈ [Instr.ld 3 1 3 0, .amoAdd 3 1 2 3], let t := s [ack 3 (some (0, .done [1]))] [] [load i]
          t.acks.find? (fun b => b.id == 3) = some (ack 3 (some (0, .done [1]))) ∧ t.owes 0 0 3 = false
            ∧ (t.strand 0 0).loads.find? (fun e => e.seq == 1) = some (load i) ∧ Resp.pending ∉ (load i).parts.set 0 (.done [1])
            ∧ storesBytes i = (i != .ld 3 1 3 0) := by
  decide +kernel

/-- An instruction of each kind at the head, with 1 in semaphore 15, and with none; PBWAIT for 8 with 8 and with 9 bytes pending, for 0 with none, and PBWAIT.F
with bytes pending in PBC. -/
theorem witness_FenceAndSemaphoreResult :
    let one (k : Core) : Core := { k with sems := vset k.sems 15 1 }
    let s (i : Instr) := headed id i one id
    (∀ i, AtHead (s i) 0 0 (head (s i)) [] ∧ (head (s i)).instr = i) ∧ (∀ i, AtHead (headed id i id id) 0 0 (head (headed id i id id)) [])
      ∧ ((s .nop).strand 0 0).faults = [] ∧ (15#5).toNat < 16 ∧ (s .nop).released 0 0 0 0 = true ∧ (s .nop).released 0 0 0 3 = true ∧ (s .nop).released 0 0 0 2 = true ∧ ((s .nop).strand 0 0).fpbc = 0
      ∧ (s .nop).engineBusy 0 0 0 = false ∧ ((s .nop).strand 0 0).pbc ≤ ((head (s .nop)).snap.getX 0).toNat
      ∧ 1 ≤ (vget ((s .nop).core 0).sems 15).toNat ∧ ((s .nop).core 0).semWait = [] ∧ (vget ((headed id .nop id id).core 0).sems 15).toNat < 1
      ∧ (vget ((s .nop).core 0).sems 15).toNat + 1 < 2^32
      ∧ (let p (f : Bool) (n m : Nat) := (headed (put 1 8) (.pbwait 1 f) id id).modStrand 0 0 fun x => { x with pbc := n, fpbc := m, st := .ready }
         (∀ f n m, AtHead (p f n m) 0 0 (head (p f n m)) [] ∧ (head (p f n m)).instr = .pbwait 1 f) ∧ ((head (p false 8 0)).snap.getX 1).toNat = 8
          ∧ ((p false 8 0).strand 0 0).pbc = 8 ∧ ((p true 9 8).strand 0 0).fpbc = 8 ∧ ((p true 9 8).strand 0 0).pbc ≠ 0
          ∧ 8 < ((p false 9 0).strand 0 0).pbc ∧ (p false 9 0).halted 0 0 = false ∧ ((p false 9 0).strand 0 0).st = .ready ∧ ((p false 9 0).strand 0 0).faults = []) := by
  refine ⟨fun i => ⟨headed_atHead id i _ id (fun _ => ⟨rfl, rfl, rfl⟩) fun _ => rfl, rfl⟩, fun i => headed_atHead id i id id (fun _ => ⟨rfl, rfl, rfl⟩) fun _ => rfl,
    ?_, ?_, ?_, ?_, ?_, ?_, ?_, ?_, ?_, ?_, ?_, ?_, fun f n m => ⟨atHead_alone _ _ _ _ ⟨rfl, rfl, rfl, rfl, rfl, rfl, rfl, rfl, onHold_ready⟩, rfl⟩, ?_⟩ <;> decide +kernel

/-- A FENCE.E, an STL and a SEMW at the head, and a HALT that waits, of a strand with a deferred store fault and, younger, a command's fault that its
semaphore s3 tells. -/
theorem witness_FenceAndSemaphoreResult_faults :
    let old : PFault := ⟨1, 0x090, 7, false, false, false, 0, false, false⟩
    let young : PFault := ⟨2, 0x140, 9, true, true, true, 3, true, true⟩
    let s (i : Instr) := (headed id i (fun k => { k with sems := vset k.sems 3 1 }) fun e => { e with seq := 5 }).modStrand 0 0 fun x => { x with faults := [old, young] }
    let w := (ready id).modStrand 0 0 fun x => { x with faults := [old, young], wait := some { (ready id).entry .halt [] 0 with seq := 5 }, st := .waiting }
    (∀ i, AtHead (s i) 0 0 (head (s i)) [] ∧ ((s i).strand 0 0).faults = [old, young] ∧ (head (s i)).seq = 5)
      ∧ Due (s (.fence 2 true false true true)) 0 0 (head (s (.fence 2 true false true true))) ∧ Due (s (.stl 2 1 3 0)) 0 0 (head (s (.stl 2 1 3 0)))
      ∧ Due (s (.semw 3 0)) 0 0 (head (s (.semw 3 0)))
      ∧ ((w.strand 0 0).wait = some { (ready id).entry .halt [] 0 with seq := 5 } ∧ (w.strand 0 0).loadsBack 5 = true ∧ w.halted 0 0 = false
        ∧ w.drained 0 0 5 = true ∧ ((ready id).entry .halt [] 0).phase ≠ 1)
      ∧ [old, young].Nodup ∧ (∀ f ∈ [old, young], receives (.fence 2 true false true true) f = true) ∧ ([old, young].filter fun f => receives .halt f) = [old]
      ∧ ([old, young].filter fun f => receives (.stl 2 1 3 0) f) = [old] ∧ ([old, young].filter fun f => receives (.semw 3 0) f) = [young]
      ∧ (∀ f ∈ [old, young], f ≠ old → old.seq < f.seq) ∧ cPart 0 < 8 := by
  refine ⟨fun i => ⟨atHead_alone _ _ _ _ ⟨rfl, rfl, rfl, rfl, rfl, rfl, rfl, rfl, onHold_ready⟩, rfl, rfl⟩, ⟨fun _ => ?_, fun h => absurd h (by decide), fun _ => ?_⟩,
    (show State.released _ 0 0 _ 2 = true from by decide +kernel), ⟨?_, ?_, ?_⟩, ⟨?_, ?_, ?_, ?_, ?_⟩, ?_, ?_, ?_, ?_, ?_, ?_, ?_⟩ <;> decide +kernel

/-- Core 0 with a message of tag 5 in its receive buffer. -/
def received (k : Core) : Core := { k with recv := [⟨5, 7, 9, 0, false⟩], bindings := Vector.replicate 64 none }

/-- A strand of core 0 that waits at instruction i. -/
def waits (f : Ctx → Ctx) (i : Instr) : State :=
  let s := ready f
  (s.modStrand 0 0 fun x => { x with wait := some (s.entry i [] 0), hold := some 0, st := .waiting }).modCore 0 fun m => { received m with seq := 1 }

/-- Lengths 1, 16,382, 0 and 16,383; tag 63 in S and U mode, a free and a bound tag; a strand that waits at a LOOPQ whose message has come, one
eligible for 60 cycles, and one at a WAITEV whose time is up, with nothing found before and with its loads back after. -/
theorem witness_QueuedLoopAndWaits :
    let u := ready fun c => { c with priv := false }
    let i : Instr := .loopq 0 1 2 1 5
    let w := waits id i
    let v := waits (put 1 1) (.waitev 3 2 1)
    let late := { (ready id).modStrand 0 0 fun x => { x with since := some 0 } with now := 60 }
    (1 ≤ (1#16).toNat ∧ (16382#16).toNat ≤ 16382 ∧ 16382 < (16383#16).toNat)
      ∧ TagOpen u 62 ∧ TagOpen (ready id) 63 ∧ ¬TagOpen u 63 ∧ TagFree u 62 ∧ ¬TagFree (ready id) 63
      ∧ (∃ e, (w.strand 0 0).wait = some e ∧ e.instr = i ∧ (w.strand 0 0).hold = some e.seq ∧ (w.strand 0 0).st = .waiting ∧ (w.strand 0 0).loads = []
          ∧ (w.strand 0 0).sq = [] ∧ w.halted 0 0 = false ∧ (∀ n, Apart w 0 0 n) ∧ NoLoop (w.strand 0 0).ctx ∧ Takes (w.core 0) 5 e.seq ⟨5, 7, 9, 0, false⟩) ∧ Spec.wordOf 7 0 ≠ 0
      ∧ (late.candidate 0 none 0 = true ∧ (late.strand 0 0).since = some 0 ∧ 0 + 60 ≤ late.now ∧ 0 ∉ (late.core 0).promoted)
      ∧ ∃ e, (v.strand 0 0).wait = some e ∧ e.instr = .waitev 3 2 1 ∧ (v.strand 0 0).hold = some e.seq ∧ (v.strand 0 0).loads = [] ∧ (v.strand 0 0).sq = []
          ∧ v.halted 0 0 = false ∧ e.snap.getX 1 ≠ 0 ∧ e.aux.toNat + (e.snap.getX 1).toNat ≤ { v with now := 1 }.now
          ∧ waitevHit (v.strand 0 0) (e.snap.getX 2) = 0 ∧ e.phase = 0 ∧ { e with phase := 1 }.phase = 1 ∧ ∀ n, Apart v 0 0 n := by
  unfold TagOpen TagFree NoLoop
  refine ⟨by decide, by decide +kernel, by decide +kernel, by decide +kernel, by decide +kernel, by decide +kernel, ⟨_, rfl, ?_, ?_, ?_, ?_, ?_, ?_, apart_all _ _ _ ?_, ?_, ⟨?_, ?_, ?_⟩⟩,
    ?_, ?_, ⟨_, rfl, ?_, ?_, ?_, ?_, ?_, ?_, ?_, ?_, ?_, ?_, apart_all _ _ _ ?_⟩⟩ <;> decide +kernel

/-- A SEND to a neighbour, and one that leads out of the partition; a message instruction of each kind at the head with a message of its tag. -/
theorem witness_MessageResult :
    let s (i : Instr) := headed id i received id
    let u := ready fun c => { c with priv := false }
    Numbered (u.strand u.cur.1 u.cur.2) (u.core u.cur.1).seq ∧ TagOpen u 5 ∧ ¬TagOpen u 63 ∧ TagFree u 5 ∧ ¬TagFree (ready id) 63 ∧ TagOpen (ready id) 63
      ∧ u.sendDest 0 1 = some 1 ∧ u.sendDest 0 0 = none
      ∧ (∀ i, AtHead (s i) 0 0 (head (s i)) [] ∧ (head (s i)).instr = i)
      ∧ (s .nop).released 0 0 0 0 = true ∧ ((s .nop).core 0).sendq.length < 32 ∧ Takes ((s (.recv 1 2 3 4 5 5)).core 0) 5 0 ⟨5, 7, 9, 0, false⟩
      ∧ (((s .nop).core 0).recv.map (·.arr)).Nodup := by
  unfold TagOpen TagFree
  refine ⟨numbered_idle _ _ ?_, ?_, ?_, ?_, ?_, ?_, ?_, ?_, fun i => ⟨headed_atHead id i _ id (fun _ => ⟨rfl, rfl, rfl⟩) fun _ => rfl, rfl⟩, ?_, ?_, ⟨?_, ?_, ?_⟩, ?_⟩ <;> decide +kernel

/-- An entry of the send queue that is queued, and one refused whose time has come, to a core of this part and to one it has no way to, with
older entries for another core that wait, and with one that could set out; a message with room, with the last entry's room and without, for a core that
moves, and behind a message and a notice of its path; a notice of either kind; a strand a message can enter a handler on. -/
theorem witness_MessageEvents :
    let m (st : SendState) : SendEntry := ⟨4, 0, 1, 5, 7, st⟩
    let s (st : SendState) := (ready id).modCore 0 fun k => { k with sendq := [m st] }
    let f : Flight := ⟨6, 1, 4, 0, 5, 7⟩
    let t (k : Core → Core) := { (ready id).modCore 0 k with msgs := [f] }
    let full (k : Core) : Core := { k with recv := (List.range 127).map fun n => ⟨5, 7, 9, BitVec.ofNat 32 n, false⟩ }
    let n (ok : Bool) : Notice := ⟨8, 1, 0, 4, ok⟩
    let b : Binding := startBinding 0x40
    let h := (ready id).modCore 0 fun k => { k with recv := [⟨5, 7, 9, 0, false⟩], bindings := vset k.bindings 5 (some b) }
    let older (st : SendState) := (ready id).modCore 0 fun k => { k with sendq := [⟨2, 0, 2, 5, 7, st⟩, ⟨3, 0, 2, 5, 7, .queued⟩, m .queued] }
    let free (s : State) (e : SendEntry) : Prop := ∀ b ∈ (s.core 0).sendq, b.id < e.id → b.dest ≠ e.dest
    let moves := (t id).modWafer 0 fun w => { w with chart := { w.chart with tiles := [(0, { w.chart.tile 0 with moving := true })] } }
    let behind (ms : List Flight) (ns : List Notice) : State := { ready id with msgs := ms ++ [f], notices := ns }
    ((∀ st ∈ [SendState.queued, .sent], ((older st).core 0).sendq.find? (fun e => e.id == 4) = some (m .queued)
          ∧ ∀ e ∈ ((older st).core 0).sendq, e.id < (m .queued).id → e.dest ≠ (m .queued).dest)
        ∧ (∃ e ∈ ((older .queued).core 0).sendq, e.id < (m .queued).id ∧ e.st = .queued ∧ free (older .queued) e)
        ∧ (∀ e ∈ ((older .sent).core 0).sendq, e.id < (m .queued).id → e.st = .queued → ¬free (older .sent) e)
        ∧ (moves.msgs.find? (fun m => m.id == f.id) = some f ∧ moves.moving f.dest = true ∧ moves.crossStop f.src f.dest = none ∧ (moves.core f.dest).saved = false)
        ∧ (¬∀ m ∈ (behind [⟨5, 1, 3, 0, 5, 7⟩] []).msgs, m.id < f.id → ¬(m.src = f.src ∧ m.dest = f.dest))
        ∧ (¬∀ n ∈ (behind [] [⟨5, 1, 0, 4, true⟩]).notices, n.id < f.id → ¬(n.origin = f.src ∧ n.src = f.dest))
        ∧ (∀ m ∈ (t id).msgs, m.id < f.id → ¬(m.src = f.src ∧ m.dest = f.dest)) ∧ ∀ n ∈ (t id).notices, n.id < f.id → ¬(n.origin = f.src ∧ n.src = f.dest))
      ∧ (∀ st ∈ [SendState.queued, .refused 0], ((s st).core 0).sendq.find? (fun e => e.id == (m st).id) = some (m st) ∧ ((s st).core 0).stopped = false
        ∧ (s st).amending 0 = false ∧ (∀ e ∈ ((s st).core 0).sendq, e.id < (m st).id → e.dest ≠ (m st).dest) ∧ (m st).st = st) ∧ 0 ≤ (s .queued).now
      ∧ (s .queued).crossStop 0 (m .queued).dest = none ∧ (s .queued).crossStop 0 (mkCore 1 0 0) = some 6
      ∧ (∀ k ∈ [id, full], (t k).msgs.find? (fun m => m.id == f.id) = some f ∧ f.src < 2^21 ∧ (t k).crossStop f.src f.dest = none ∧ ((t k).core f.dest).saved = false ∧ (t k).moving f.dest = false)
      ∧ (((t id).core 0).room 5 1 = some false) ∧ ((t full).core 0).room 63 1 = some true ∧ ((t full).core 0).room 5 1 = none
      ∧ (∀ ok, let t : State := { ready id with notices := [n ok] }
          t.notices.find? (fun m => m.id == (n ok).id) = some (n ok) ∧ (∀ m ∈ t.msgs, m.id < (n ok).id → ¬(m.src = (n ok).origin ∧ m.dest = (n ok).src))
            ∧ ∀ m ∈ t.notices, m.id < (n ok).id → ¬(m.origin = (n ok).origin ∧ m.src = (n ok).src))
      ∧ (((ready id).core 0).saved = false ∧ ((ready id).core 0).refused = [])
      ∧ (h.core 0).stopped = false ∧ h.onHold 0 = false ∧ h.amending 0 = false ∧ (h.core 0).handled 3 = some (⟨5, 7, 9, 0, false⟩, b) ∧ (h.strand 0 3).st = .free := by
  refine ⟨⟨?_, ?_, ?_, ?_, ?_, ?_, ?_, ?_⟩, ?_, ?_, ?_, ?_, ?_, ?_⟩ <;> decide +kernel

/-- A core that is a member of channel 15 and no other, with or without its arrival pending. -/
def member (arrived : BitVec 16) (k : Core) : Core := { k with barmask := 0x8000, arrived := arrived }

/-- A barrier instruction of each kind at the head on a member core, on one whose arrival is pending, and on no member; a group of one core that
has arrived. -/
theorem witness_BarrierResult :
    let s (a : BitVec 16) (i : Instr) := headed (put 1 1) i (member a) id
    let g := s 0x8000 .nop
    (∀ a i, AtHead (s a i) 0 0 (head (s a i)) [] ∧ (head (s a i)).instr = i) ∧ (15#5).toNat < 16
      ∧ ((s 0 .nop).core 0).barmask &&& ~~~(((head (s 0 .nop)).snap.getX 1).extractLsb' 0 16) &&& ((s 0 .nop).core 0).arrived = 0
      ∧ (g.core 0).barmask &&& ~~~(((head g).snap.getX 1).extractLsb' 0 16) &&& (g.core 0).arrived ≠ 0
      ∧ ((s 0 .nop).core 0).barmask.getLsbD 15 = true ∧ ((s 0 .nop).core 0).arrived.getLsbD 15 = false ∧ (s 0 .nop).released 0 0 0 2 = true
      ∧ ((s 0 .nop).strand 0 0).faults = [] ∧ ((s 0 .nop).core 0).barmask.getLsbD 14 = false ∧ (s 0 .nop).chanGen 0 15 = 0
      ∧ Passed 0 (-1) ∧ Passed 0 (0x80000000) ∧ ¬Passed 0 0 ∧ ¬Passed 0 0x7FFFFFFF
      ∧ (g.ptnOf 0).isSome = true ∧ (g.chan 0 15).or = false ∧ g.members 0 15 = [0] ∧ (g.core 0).arrived.getLsbD 15 = true ∧ (g.core 0).saved = false := by
  unfold Passed
  refine ⟨fun a i => ⟨headed_atHead _ i _ id (fun _ => ⟨rfl, rfl, rfl⟩) fun _ => rfl, rfl⟩, ?_⟩
  decide +kernel

/-- Core 0 with records in its deque. -/
def records (n : Nat) (k : Core) : Core := { k with deque := List.replicate n 0x40 }

/-- Entries and join counters in and out of order; a deque of 63, one and no records; every phase; a request and its replies. -/
theorem witness_TaskResult :
    let r (e j : Word) := ready fun c => put 1 e (put 2 j c)
    let check (s : State) : Option Nat := s.check s.cur.1 s.ctx.priv accQuay (s.ctx.getX 2) 8 8 true
    let h := ready fun c => { c with hnd := true }
    let s (n ph : Nat) (ps : List Resp) (i : Instr) := headed (fun c => put 1 1 (put 2 0x1000000000000008 c)) i (records n) fun e => { e with phase := ph, parts := ps }
    let idle (n : Nat) (i : Instr) (k : Core → Core) (aux : Word) := (headed (fun c => put 1 1 (put 2 0x1000000000000008 c)) i (fun m => k (records n m))
      fun e => { e with aux := aux }).modStrand 0 0 fun x => { x with st := .ready }
    let asked (v : Option (Option Task)) : Steal := ⟨6, 0, 0, 0, 1, v⟩
    let t (v : Option (Option Task)) (i : Instr) := { s 63 1 [] i with steals := [asked v] }
    let u : State := { (ready id).modCore 1 (records 2) with steals := [asked none] }
    (Numbered ((r 4 8).strand (r 4 8).cur.1 (r 4 8).cur.2) ((r 4 8).core (r 4 8).cur.1).seq
        ∧ check (r 4 0x1000000000000008) = none ∧ check (r 4 0x100000000000000C) = some 5
        ∧ (((r 0xFFFC 0).ctx.getX 1).extractLsb' 16 48 = 0 ∧ ((r 0xFFFC 0).ctx.getX 1).extractLsb' 0 2 = 0) ∧ ((r 0x10000 0).ctx.getX 1).extractLsb' 16 48 ≠ 0
        ∧ (r 1 0).stealVictim (r 1 0).ctx 0 1 = some 1 ∧ (r 0 0).stealVictim (r 0 0).ctx 0 1 = none ∧ (r 4 0).ctx.hnd = false ∧ h.ctx.hnd = true)
      ∧ (∀ n ph ps i, AtHead (s n ph ps i) 0 0 (head (s n ph ps i)) [] ∧ (head (s n ph ps i)).instr = i ∧ (head (s n ph ps i)).phase = ph
          ∧ (head (s n ph ps i)).parts = ps)
      ∧ ((s 63 0 [] .nop).partIdx 0 < 8 ∧ ((s 63 0 [] (.fork 3 1 0)).core 0).deque.length + ((s 63 0 [] (.fork 3 1 0)).core 0).promised < 64
        ∧ ((s 63 1 [.done []] (.fork 3 1 2)).core 0).deque.length < 64 ∧ (s 0 0 [] .nop).place 0 ((head (s 0 0 [] .nop)).snap.getX 2) = .vault 0 8
        ∧ ((s 1 0 [] (.tpop 3)).core 0).deque = [] ++ [0x40] ∧ ((s 0 0 [] (.tpop 3)).core 0).deque = [] ∧ ((s 0 0 [] (.tpop 3)).core 0).ring = none
        ∧ (s 0 0 [] .nop).released 0 0 0 2 = true ∧ ((s 0 0 [] .nop).strand 0 0).joined = false ∧ (s 0 1 [] (.tdone 2)).drained 0 0 0 = true
        ∧ ((s 0 1 [] (.tdone 2)).strand 0 0).faults = []
        ∧ (∀ i ∈ [Instr.fork 3 1 0, .steal 3 1], let t := s 64 0 [] i; (t.core 0).canPush (head t).snap (t.core 0).promised = false))
      ∧ (∀ n i aux, AtHead (idle n i id aux) 0 0 (head (idle n i id aux)) [] ∧ (head (idle n i id aux)).phase = 0)
      ∧ (∀ i, let t := idle 0 i (fun k => { k with thieves := [(0, 0)] }) 0; AtHead t 0 0 (head t) [] ∧ (head t).instr = i ∧ (head t).phase = 0)
      ∧ (∀ i ∈ [Instr.steal 3 1, .tpopS 3 1], (0, 0) ∉ ((idle 0 i id 0).core 0).thieves ∧ ((idle 0 i id 0).strand 0 0).st = .ready
          ∧ ((idle 0 i id 0).core 0).deque = [] ∧ ((idle 0 i id 0).core 0).ring = none
          ∧ ((idle 0 i id 0).core 0).canPush (head (idle 0 i id 0)).snap ((idle 0 i id 0).core 0).promised = true)
      ∧ ((head (idle 0 (.tpopS 3 1) id 1)).snap.getX 1 ≠ 0 ∧ (head (idle 0 (.tpopS 3 1) id 1)).aux = (head (idle 0 (.tpopS 3 1) id 1)).snap.getX 1
        ∧ (head (idle 0 (.tpopS 3 1) id 0)).aux ≠ (head (idle 0 (.tpopS 3 1) id 0)).snap.getX 1
        ∧ (idle 0 (.tpopS 3 1) id 0).victims 0 (head (idle 0 (.tpopS 3 1) id 0)).snap.stealdom 3 ≠ 0)
      ∧ (∀ i ∈ [Instr.steal 3 1, .tpopS 3 1], let t := idle 0 i (fun k => { k with thieves := [(0, 0)] }) 0
          (t.core 0).thieves = [(0, 0)] ∧ (t.core 0).stopped = false ∧ t.amending 0 = false ∧ (t.core 0).stealAt = none
            ∧ t.stealVictim (head t).snap 0 1 = some 1 ∧ (t.core 0).canPush (head t).snap (t.core 0).promised = true
            ∧ (t.nextLevel 0 (head t).snap.stealdom 10 0 0).isSome = true)
      ∧ (u.steals.find? (fun q => q.id == 6 && q.reply.isNone) = some (asked none) ∧ u.moving 1 = false ∧ (u.core 1).saved = false ∧ (u.core 1).ring = none
        ∧ ((u.modCore 1 fun k => { k with saved := true }).core 1).saved = true)
      ∧ (∀ v ∈ [some none, some (some (0x40 : Task))], (t v (.steal 3 1)).steals.find? (fun q => q.id == 6) = some (asked v) ∧ (asked v).reply = v
          ∧ (head (t v (.steal 3 1))).seq = (asked v).seq ∧ ((t v (.steal 3 1)).core 0).deque.length < 64)
      ∧ (let v : State := { (ready id).modCore 0 (records 63) with steals := [asked (some (some 0x40))] }
         (v.strand 0 0).sq = [] ∧ (v.core 0).deque.length + (v.core 0).promised < 64) := by
  refine ⟨⟨numbered_idle _ _ ?_, ?_⟩, fun n ph ps i => ⟨headed_atHead _ i _ _ (fun _ => ⟨rfl, rfl, rfl⟩) fun _ => rfl, rfl, rfl, rfl⟩, ?_,
    fun n i aux => ⟨atHead_alone _ _ _ _ ⟨rfl, rfl, rfl, rfl, rfl, rfl, rfl, rfl, onHold_ready⟩, rfl⟩, fun i => ⟨atHead_alone _ _ _ _ ⟨rfl, rfl, rfl, rfl, rfl, rfl, rfl, rfl, onHold_ready⟩, rfl, rfl⟩,
    ?_, ?_, ?_, ?_, ?_, ?_⟩
  case refine_8 =>
    simp only [List.forall_mem_cons, List.not_mem_nil, false_imp_iff, implies_true, and_true]
    decide +kernel
  all_goals decide +kernel

/-- A strand whose spill window has 70 slots at 0x1000, with n records in core 0's deque and g of its spill region. -/
def spilling (i : Instr) (n : Nat) (g : Option Ring) (k : Core → Core) : State :=
  headed (fun c => { put 1 8 c with spillbase := 0x1000, spilllim := 0x1000 + 32 * 70 }) i (fun m => k { records n m with ring := g }) id

/-- A full deque with an empty spill region and with one that wraps; a spill region of several records and of one, the record good, with
reserved bits set and in a poisoned block; a steal of the oldest of several and of the only one. -/
theorem witness_TaskResult_spills :
    let g (n : Nat) : Ring := ⟨0x1000, 0x1000 + 32 * 70, 60, n⟩
    let w : Ring := ⟨0x1000, 0x1000 + 32 * 70, 0, 0⟩
    let bad (m : Core) : Core := { m with vault := m.vault.putLe (slotAt (g 1) 0) 32 (2^63) }
    let poisoned (m : Core) : Core := { m with poison := [slotAt (g 1) 0 / 32] }
    let v (n : Nat) : State := { spilling .nop 0 (some (g n)) id with steals := [⟨6, 1, 0, 0, 0, none⟩] }
    (∀ i n r, ∀ k ∈ [id, bad, poisoned], AtHead (spilling i n r k) 0 0 (head (spilling i n r k)) [] ∧ (head (spilling i n r k)).instr = i
        ∧ (head (spilling i n r k)).phase = 0)
      ∧ (∀ p ∈ [((none : Option Ring), w), (some (g 5), g 5)], let s := spilling (.fork 3 1 0) 64 p.1 id
         Windowed (s.core 0) (head s).snap p.2 ∧ (s.core 0).deque.length = 64 ∧ (s.core 0).promised < 32 ∧ p.2.count + 32 ≤ slotsOf p.2
          ∧ s.stops 0 0 = none ∧ s.moving 0 = false ∧ s.partIdx 0 < 8 ∧ s.memOk = true ∧ s.parks = [])
      ∧ (∀ n ∈ [1, 5], let s := spilling (.tpop 3) 0 (some (g n)) id
         (s.core 0).ring = some (g n) ∧ (s.core 0).deque = [] ∧ (g n).count ≠ 0 ∧ Intact (s.core 0) (slotAt (g n) ((g n).count - 1))
          ∧ s.stops 0 0 = none ∧ s.moving 0 = false)
      ∧ ¬Intact ((spilling (.tpop 3) 0 (some (g 1)) bad).core 0) (slotAt (g 1) ((g 1).count - 1))
      ∧ ¬Intact ((spilling (.tpop 3) 0 (some (g 1)) poisoned).core 0) (slotAt (g 1) ((g 1).count - 1))
      ∧ ∀ n ∈ [1, 5], (v n).steals.find? (fun q => q.id == 6 && q.reply.isNone) = some ⟨6, 1, 0, 0, 0, none⟩ ∧ (v n).moving 0 = false
          ∧ ((v n).core 0).saved = false ∧ ((v n).core 0).ring = some (g n) ∧ (v n).stops 0 0 = none ∧ Intact ((v n).core 0) (slotAt (g n) 0) := by
  refine ⟨fun i n r k m => ?_, ?_, ?_, ?_, ?_, ?_⟩
  case refine_1 =>
    simp only [List.mem_cons, List.not_mem_nil, or_false] at m
    rcases m with rfl | rfl | rfl <;> exact ⟨headed_atHead _ i _ _ (fun _ => ⟨rfl, rfl, rfl⟩) fun _ => rfl, rfl, rfl⟩
  case refine_2 =>
    simp only [List.forall_mem_cons, List.not_mem_nil, false_imp_iff, implies_true, and_true, Windowed]
    decide +kernel
  all_goals
    simp only [List.forall_mem_cons, List.not_mem_nil, false_imp_iff, implies_true, and_true, Intact]
    decide +kernel

/-- Core 0 an orphan whose causeway leads east over a link that is missing. -/
def cutOff (s : State) : State := s.modWafer 0 fun w =>
  { w with chart := { w.chart with tiles := [(0, { w.chart.tile 0 with cls := .compute, cw := [1], links := 0x000C })] } }

/-- An endpoint of strand 0 on VS 5. -/
def endpoint (role : BitVec 2) (fmt : BitVec 4) (q : List Flit) : Endpoint :=
  ⟨5, role, fmt, 0, true, 1, 0, 0, 0, 0, 0x100, 0x1000000000001000, 0x1000000000001020, q, 0, 0, 0, false, 0, 0, 0, false, []⟩

/-- A core with one stream entry, on VS 5, and endpoints. -/
def streaming (e : StreamEntry) (eps : List Endpoint) (k : Core) : Core := { k with streams := [(5, e)], eps := eps }

/-- VS 5 from the L input to port out by op, in one leg. -/
def entry5 (ins op outs : Nat) (wdog : Nat) : StreamEntry :=
  { StreamEntry.reset with valid := true, islots := 1, wdog := wdog, legs := vset StreamEntry.reset.legs 0 (BitVec.ofNat 32 (ins + op * 2^9 + outs * 2^12)) }

/-- An attachment word: VS 5, one slot, and the rest. -/
abbrev attach (role fmt rc : Nat) (root : Bool) : Word := BitVec.ofNat 64 (5 + role * 64 + fmt * 256 + rc * 4096 + (if root then 2^15 else 0) + 2^16)

/-- Attachment words in order and out of it; each answer of SATT and SDET; sources and sinks with room and with a flit of each kind, blocks among
them, for an SBF sink and an F32 one, whose exceptions trap and do not; failed positions of each kind; a source in a hold, and one whose queue is not
empty; endpoints of another strand and role; a vault behind a causeway that is broken. -/
theorem witness_StreamResult :
    let good (w : Word) : Prop := w.extractLsb' 21 43 = 0 ∧ w.extractLsb' 6 2 ≠ 3 ∧ 1 ≤ (w.extractLsb' 16 5).toNat ∧ (w.extractLsb' 16 5).toNat ≤ 16
      ∧ w.extractLsb' 12 3 ≠ 7 ∧ ¬(w.getLsbD 15 = true ∧ w.extractLsb' 6 2 = 0)
    let e := entry5 16 0 16 1
    let s (eps : List Endpoint) (i : Instr) := headed (fun c => put 1 (attach 0 0 0 false) (put 2 0x1000000000000100 c)) i (streaming e eps) id
    let none_ (i : Instr) := headed (put 1 5) i id id
    (good (attach 2 13 6 true) ∧ good (attach 1 0 0 true) ∧ ¬good (attach 3 0 0 false) ∧ ¬good (attach 0 0 7 false) ∧ ¬good (attach 0 0 0 true)
        ∧ (ready (put 2 0x1000000000000100)).recordCheck 0x1000000000000100 = none
        ∧ ((attach 2 0 5 false).extractLsb' 6 2 = 2 ∧ (attach 2 0 5 false).extractLsb' 12 3 = 5)
        ∧ ¬((attach 0 1 0 false).extractLsb' 8 4 = 0 ∨ (attach 0 1 0 false).extractLsb' 8 4 = 13))
      ∧ (∀ eps i, AtHead (s eps i) 0 0 (head (s eps i)) [] ∧ (head (s eps i)).instr = i) ∧ (∀ i, AtHead (none_ i) 0 0 (head (none_ i)) [])
      ∧ ((((none_ .nop).core 0).stream 5).valid = false ∧ ((none_ .nop).core 0).eps = [] ∧ (((s [] .nop).core 0).stream 5).valid = true
        ∧ (∃ p ∈ ((s [endpoint 0 0 []] .nop).core 0).eps, p.vs.toNat = 5 ∧ p.role = 0)
        ∧ 8 ≤ ((s (List.replicate 8 (endpoint 1 0 [])) .nop).core 0).eps.length ∧ (∀ p ∈ ((s (List.replicate 8 (endpoint 1 0 [])) .nop).core 0).eps, p.role ≠ 0)
        ∧ 192 < ((s [{ endpoint 1 0 [] with slots := 188 }] .nop).core 0).poolUsed + 1 + 1 ∧ ((s [{ endpoint 1 0 [] with slots := 187 }] .nop).core 0).poolUsed + 1 + 1 = 192
        ∧ (endpoint 1 0 []).role ≠ 0)
      ∧ (let t := s [endpoint 0 0 []] (.spush 3 1 false)
         (t.core 0).source 5 = some (endpoint 0 0 []) ∧ (endpoint 0 0 []).strand = 0 ∧ (endpoint 0 0 []).queue = [] ∧ 1 ≤ (endpoint 0 0 []).slots
          ∧ (t.stream 0 5).valid = true ∧ (t.stream 0 5).marked.getLsbD 4 = false ∧ 4 ∈ (t.stream 0 5).ins
          ∧ slotFits (t.stream 0 5).islots (costs (vget (t.stream 0 5).bufs 4)) (.laneF 7 0) = true
          ∧ slotFits (t.stream 0 5).islots (costs (vget (t.stream 0 5).bufs 4)) (.marker true 7) = true)
      ∧ (∀ f ∈ [Flit.marker false 7, .marker true 7, .laneF 7 0], ((s [endpoint 1 0 [f]] (.spull 3 1 4 false)).core 0).mine 0 5 1 = some (endpoint 1 0 [f]))
      ∧ (let e := { e with islots := 4 }
         let t := headed (fun c => put 1 5 c) (.spush 3 1 false) (streaming e [endpoint 0 9 []]) id
         let f := Flit.block 0 [] (Num.Wb.ofSbf (codeW 9) Num.Sbf.zero) false
         AtHead t 0 0 (head t) [] ∧ (t.core 0).source 5 = some (endpoint 0 9 []) ∧ (t.core 0).mine 0 5 0 = some (endpoint 0 9 [])
          ∧ slotFits (t.stream 0 5).islots (costs (vget (t.stream 0 5).bufs 4)) f = true ∧ (t.stream 0 5).marked.getLsbD 4 = false)
      ∧ (let big : Num.Wb := ⟨511, 2^30 :: List.replicate 15 1, 0⟩
         let f := Flit.block 0 [] big false
         let t (mode : BitVec 9) := headed (fun c => put 1 5 { c with mode := mode }) (.spull 3 1 4 false) (streaming e [endpoint 1 9 [f]]) id
         let es := (Num.toSbf (codeW 9) (rcOf 0 0) (fun _ => 0) 0 big.vals).2.mapIdx fun n v => (n, v)
         (∀ m, AtHead (t m) 0 0 (head (t m)) []) ∧ ((t 0).core 0).mine 0 5 1 = some (endpoint 1 9 [f]) ∧ trapKind 0 (excAll es) = none
          ∧ (trapKind 0x1F0 (excAll es)).isSome = true)
      ∧ (let big : Num.Wb := ⟨511, (2^30 + 1) :: List.replicate 15 1, 0⟩
         let f := Flit.block 0 [] big false
         let t (mode : BitVec 9) := headed (fun c => put 1 5 { c with mode := mode }) (.spull 3 1 4 false) (streaming e [endpoint 1 0 [f]]) id
         let xs := (big.vals.mapIdx fun _ u => packVal 0 (rcOf 0 0) false 0 u).mapIdx fun n r => (n, r.2)
         (∀ m, AtHead (t m) 0 0 (head (t m)) []) ∧ ((t 0).core 0).mine 0 5 1 = some (endpoint 1 0 [f]) ∧ trapKind 0 (excAll xs) = none
          ∧ (trapKind 0x1F0 (excAll xs)).isSome = true)
      ∧ (∀ fmt ∈ [(0 : BitVec 4), 13, 9], ∀ kd ∈ [0, 1, 2],
          ((s [endpoint 1 fmt [.fail kd]] (.spull 3 1 4 false)).core 0).mine 0 5 1 = some (endpoint 1 fmt [.fail kd]) ∧ kd ≤ 2)
      ∧ (let held (eps : List Endpoint) (i : Instr) := (s eps i).modPtn 0 0 fun q => { q with pre := { q.pre with saving := true } }
         let full := endpoint 0 0 [.laneF 7 0]
         (∀ eps i, AtHead (held eps i) 0 0 (head (held eps i)) []) ∧ (held [endpoint 0 0 []] (.spush 3 1 false)).frozen 0 = true
          ∧ ((held [endpoint 0 0 []] (.spush 3 1 false)).core 0).source 5 = some (endpoint 0 0 [])
          ∧ ((s [full] (.sdet 3 1)).core 0).eps.find? (fun p => p.vs.toNat == 5 && p.role == 0 && p.strand == 0) = some full
          ∧ full.queue ≠ [] ∧ (s [full] (.sdet 3 1)).halted 0 0 = false)
      ∧ (∀ p ∈ [{ endpoint 0 0 [] with strand := 1 }, endpoint 2 0 []], ¬(p.vs.toNat = 5 ∧ p.role = 0 ∧ p.strand = 0) ∧ ¬(p.vs.toNat = 5 ∧ p.role = 1 ∧ p.strand = 0))
      ∧ ((s [] .nop).moving 0 = false ∧ (s [] .nop).stops 0 0 = none ∧ (cutOff (s [] .nop)).stops 0 0 = some 10 ∧ (cutOff (s [] .nop)).moving 0 = false) := by
  refine ⟨?_, fun eps i => ⟨headed_atHead _ i _ _ (fun _ => ⟨rfl, rfl, rfl⟩) fun _ => rfl, rfl⟩, fun i => headed_atHead _ i _ _ (fun _ => ⟨rfl, rfl, rfl⟩) fun _ => rfl, ?_, ?_, ?_,
    ⟨headed_atHead _ _ _ _ (fun _ => ⟨rfl, rfl, rfl⟩) fun _ => rfl, ?_⟩, ⟨fun m => headed_atHead _ _ _ _ (fun _ => ⟨rfl, rfl, rfl⟩) fun _ => rfl, ?_⟩,
    ⟨fun m => headed_atHead _ _ _ _ (fun _ => ⟨rfl, rfl, rfl⟩) fun _ => rfl, ?_⟩, ?_, ⟨fun eps i => atHead_alone _ _ _ _ ⟨rfl, rfl, rfl, rfl, rfl, rfl, rfl, rfl, onHold_ready⟩, ?_⟩, ?_, ?_⟩
    <;> decide +kernel

/-- A sound and an unsound write of an entry, valid and not; a position ready for a sink, one ready for a sink and the router to
the east, with credit and without, a marker for both, a marker that is not the last, and a position that has failed; a watchdog that has run; a vault
sink's lane position with all its events to do and with one left, and its END; a report of one of two roots. -/
theorem witness_StreamEvents :
    let s (e : StreamEntry) (eps : List Endpoint) (now : Nat) : State := { (ready id).modCore 0 (streaming e eps) with now := now }
    let e := { entry5 16 0 16 1 with bufs := vset StreamEntry.reset.bufs 4 [.laneF 7 0] }
    let late := { entry5 6 2 16 1 with bufs := vset StreamEntry.reset.bufs 1 [.laneF 7 0], since := some 0 }
    let sink (f : Flit) := s e [endpoint 2 0 [f]] 0
    let r : Report := ⟨4, 0, true, 3⟩
    let roots := { ((ready id).modPtn 0 0 fun q => { q with comp := { q.comp with roots := 2 } }) with reports := [r] }
    let w : Word := 1 + 2^8 + 2^12
    ((w.getLsbD 0 = true ∧ (w.extractLsb' 8 4).toNat ≠ 0 ∧ (w.extractLsb' 12 14).toNat ≠ 0 ∧ (w.extractLsb' 12 14).toNat ≤ 10000)
        ∧ ({ e with valid := false }).valid = false ∧ (∀ j ≤ 0, legOk (vget e.legs j) = true) ∧ (∀ p ∈ e.ins ++ e.outs, p = 4)
        ∧ ((s { e with valid := false } [] 0).core 0).poolUsed + 2 * e.ins.length ≤ 192 ∧ (2 : Word).getLsbD 0 = false)
      ∧ (let t := s e [endpoint 1 0 []] 0
         t.frozen 0 = false ∧ (t.core 0).source 5 = none ∧ (t.stream 0 5).valid = true ∧ (t.stream 0 5).marked = 0 ∧ (t.stream 0 5).failing = none ∧ (t.stream 0 5).skip = 0 ∧ legOut (vget e.legs 0) = [4]
          ∧ legIn (vget e.legs 0) = [4] ∧ (legIn (vget e.legs 0)).map (fun p => (vget (t.stream 0 5).bufs p).head?) = [Flit.laneF 7 0].map some
          ∧ opTakes (legOp (vget e.legs 0)) (.laneF 7 0) = true ∧ (Flit.laneF 7 0).kind.isSome = true ∧ (t.core 0).sink 5 = some (endpoint 1 0 [])
          ∧ slotFits 1 (costs []) (combine 0 (t.coord 0) [.laneF 7 0]).flit = true)
      ∧ (∀ p ∈ [(2, Flit.laneF 7 0, Flit.laneF 8 3), (3, .laneI 7 0, .laneI 8 0)],
         let e := { entry5 6 p.1 16 1 with bufs := vset (vset StreamEntry.reset.bufs 1 [p.2.1]) 2 [p.2.2] }
         let t := s e [endpoint 1 0 []] 0
         (t.core 0).source 5 = none ∧ (t.stream 0 5).valid = true ∧ legOut (vget e.legs 0) = [4] ∧ legOp (vget e.legs 0) = p.1
          ∧ (legIn (vget e.legs 0)).map (fun q => (vget (t.stream 0 5).bufs q).head?) = [p.2.1, p.2.2].map some
          ∧ (∀ f ∈ [p.2.1, p.2.2], opTakes p.1 f = true ∧ f.kind.isSome = true)
          ∧ slotFits 1 (costs []) (combine p.1 (t.coord 0) [p.2.1, p.2.2]).flit = true)
      ∧ (∀ f ∈ [Flit.laneF 7 0, .marker true 7, .marker false 7], ∀ room ∈ [true, false],
          let e := { entry5 16 0 18 1 with bufs := vset StreamEntry.reset.bufs 4 [f] }
          let next := { entry5 8 0 16 1 with bufs := vset StreamEntry.reset.bufs 3 (if room then [] else [.laneF 1 0, .marker false 2]) }
          let t := (s e [endpoint 1 0 []] 0).modCore 1 (streaming next [])
          t.frozen 0 = false ∧ (t.core 0).source 5 = none ∧ (t.stream 0 5).valid = true ∧ (t.stream 0 5).marked = 0 ∧ (t.stream 0 5).failing = none
            ∧ (t.stream 0 5).skip = 0 ∧ legOut (vget e.legs 0) = [1, 4] ∧ legIn (vget e.legs 0) = [4] ∧ t.portTo 0 1 = some 1
            ∧ (t.stream 1 5).marked.getLsbD (portBack 1) = false ∧ t.credit 0 5 4 f = true ∧ t.credit 0 5 1 f = room)
      ∧ (let t := s { e with failing := some 0 } [endpoint 1 0 []] 0
         t.frozen 0 = false ∧ (t.core 0).source 5 = none ∧ (t.stream 0 5).valid = true ∧ (t.stream 0 5).failing = some 0
          ∧ (t.core 0).sink 5 = some (endpoint 1 0 []) ∧ slotFits 1 (costs []) (.fail 0) = true)
      ∧ (let t := s late [] 1500
         t.frozen 0 = false ∧ (t.core 0).source 5 = none ∧ (t.stream 0 5).valid = true ∧ (t.stream 0 5).partly = true ∧ (t.stream 0 5).since = some 0
          ∧ 0 + 1500 * (t.stream 0 5).wdog ≤ t.now)
      ∧ (∀ f ∈ [Flit.laneF 7 0, .marker true 7], (sink f).memOk = true ∧ (sink f).parks = []
          ∧ (sink f).frozen 0 = false ∧ (sink f).moving 0 = false ∧ (sink f).stops 0 0 = none
          ∧ ((sink f).core 0).eps.find? (fun e => e.vs.toNat == 5 && e.role == 2) = some (endpoint 2 0 [f]))
      ∧ (let at_ := ((endpoint 2 0 []).w0.extractLsb' 0 19).toNat
         ((List.range (events at_ 32 4).length).filter fun n => n ∉ (endpoint 2 0 []).beats) = [0] ∧ (events (at_ + 16) 32 4).length = 2)
      ∧ ((endpoint 2 0 []).w0.extractLsb' 0 19).toNat + (endpoint 2 0 []).dptr + 32 ≤ ((endpoint 2 0 []).w1.extractLsb' 0 19).toNat
      ∧ roots.reports.find? (fun x => x.id == 4) = some r
      ∧ roots.ptnOf 0 = some (ptn roots) ∧ 2 ≤ (ptn roots).comp.roots ∧ (roots.wafer 0).ptnIn (ptn roots).slot = some (ptn roots)
      ∧ (ptn roots).comp.pcnt + r.pcnt < 65536 ∧ roots.frozen 0 = false ∧ roots.placeAway (leadCore 0 (ptn roots)) (ptn roots).comp.done = false := by
  refine ⟨?_, ?_, ?_, ?_, ?_, ?_, ?_, ?_, ?_⟩ <;> decide +kernel

/-- A bulk command of strand 0: 64 bytes within the core's own vault. -/
def bulkCmd (kind : Nat) (bc : Bool) (done : List Nat) (ended : Bool) : BulkCmd :=
  ⟨0, 0, kind, 0x1000000000001000, 0x1000000000002000, 64, 0, bc, false, 0, false, 5, 1, done, [], ended, 0, 0, none⟩

/-- Two parts in a domain of two, each with partition 0 on isle 0, joined by port 0, with ring record r. -/
def twoParts (r : RingRec) : State :=
  let part (p : Nat) (s : State) : State := s.modWafer p fun w =>
    { w with power := .run, ptns := [{ Ptn.new 0 0 1 true false 0 with rings := [(0, r)] }], domid := 9, nparts := 2, pidx := p,
             halifs := [(0, ⟨true, 1, false, true, false, 1⟩)] }
  part 0 (part 1 State.reset)

/-- A ring record of two ranks, chunks of 64 bytes at 0x1000 of the lead core's vault, all-reduce of lane-F beats. -/
def ringOf (run : Bool) : RingRec := { RingRec.reset with w0 := 2^9, buf := 0x1000000000001000, chunk := 64, run := run }

/-- Lengths, counts, pitches and ranges in order, at their edges, and out of it; a command to start, with its beats to read and read, with a semaphore to increment and
without, and with `.B` its acknowledgement and watchdog; a beat and an end flit that have come, and one whose vault
cannot be reached; each state of a ring: not started, at its first step,
with a chunk to write and with its last beat left, stalled, and failed with nothing left to write. -/
theorem witness_BulkAndRingResult :
    let s (dst src len p : Word) := ready fun c => put 1 dst (put 2 src (put 3 len (put 4 p c)))
    let a : State := s 0x1000000000001000 0x1000000000002000 0x1000 32
    let row (s : State) (e : Word) (r : List (Word × Nat)) (store : Bool) := s.bulkCheck false false store e r
    let small (bc : Bool) (len p : Word) : Prop := len.toNat % 32 = 0 ∧ len.toNat ≤ 0x80000 ∧ (bc = true → 1 ≤ p.toNat ∧ p.toNat ≤ 245760)
    let h (i : Instr) := headed (put 1 8) i id id
    let e (m : BulkCmd) : State := { (ready id).modCore 0 fun k => { k with bulk := [m] } with bulkAcks := [⟨6, 0, 0, 0⟩] }
    let q (f : Flit) : State := (ready id).modCore 0 fun k => { k with addrq := [f] }
    let t (r : RingRec) := twoParts r
    (small true 0x80000 245760 ∧ small true 0 1 ∧ ¬small false 33 0 ∧ ¬small false 0x80020 0 ∧ ¬small true 32 0 ∧ ¬small true 32 245761
        ∧ a.bulkCheck false false true 0x1000000000001000 (bulkRows 0 0x1000000000001000 0x1000 32 true) = none
        ∧ a.bulkCheck true true true 0x1000000000001000 (bulkRows 0 0x1000000000001000 0x1000 32 true) = none
        ∧ row a 0x1000000000002000 (bulkRows 0 0x1000000000002000 0x1000 32 false) false = none ∧ ¬((0x1000000000001000#64).extractLsb' 60 4 = 0#4)
        ∧ a.bcOverlap 0 5 0x1000000000001000 0x1000000000002000 0x1000 = false
        ∧ a.bulkOverlap 0 (bulkRows 0 0x1000000000002000 0x1000 32 false) (bulkRows 0 0x1000000000001000 0x1000 32 true) = false
        ∧ a.bulkOverlap 0 (bulkRows 0 0x1000000000001FE0 0x1000 32 false) (bulkRows 0 0x1000000000001000 0x1000 32 true) = true
        ∧ row a 0x1000000000001FE0 (bulkRows 0 0x1000000000001FE0 0x1000 32 false) false = none
        ∧ a.bulkCheck false false true 0x1000000000001008 (bulkRows 0 0x1000000000001008 0x1000 32 true) = some (5, 0x1000000000001008)
        ∧ row a 0x1000000000001000 (bulkRows 2 0x1000000000001000 0x20020 0x40 true) true = none
        ∧ row a 0x1000000000003000 (bulkRows 2 0x1000000000003000 0x20020 0x40 false) false = none
        ∧ a.bulkOverlap 0 (bulkRows 2 0x1000000000003000 0x20020 0x40 false) (bulkRows 2 0x1000000000001000 0x20020 0x40 true) = false)
      ∧ (row a 0x1000000000001000 (bulkRows 2 0x1000000000001000 0x20020 0x40 false) false = none
        ∧ a.bulkOverlap 0 (bulkRows 2 0x1000000000001000 0x20020 0x40 false) (bulkRows 2 0x1000000000001000 0x20020 0x40 true) = true
        ∧ (a.bulkCheck true true true 0x1000 (bulkRows 0 0x1000 0x1000 32 true) = none ∧ (0x1000#64).extractLsb' 60 4 = 0#4)
        ∧ (a.modCore 0 (streaming (entry5 1 0 16 1) [])).bcOverlap 0 5 0x1000000000001000 0x1000000000001FE0 0x1000 = true
        ∧ row a 0x1000 (bulkRows 0 0x1000 0x1000 32 false) false = some (0, 0x1000)
        ∧ row a 0x1000000000001004 (bulkRows 2 0x1000000000001004 0x20020 0x40 true) true = some (5, 0x1000000000001004)
        ∧ row a 0x1000 (bulkRows 2 0x1000 0x20020 0x40 false) false = some (0, 0x1000)
        ∧ ((0x20020#64).toNat % 65536 % 32 = 0 ∧ (0x40#64).toNat % 32 = 0 ∧ (0x40#64).toNat / 2^32 % 32 = 0) ∧ (0x20010#64).toNat % 65536 % 32 ≠ 0)
      ∧ (∀ i, AtHead (h i) 0 0 (head (h i)) [] ∧ (head (h i)).instr = i) ∧ ((h .nop).core 0).bulk.length < 8
      ∧ (∀ kind ∈ [0, 1], ∀ done ∈ [[], [0]], let m := bulkCmd kind false done false
          ((e m).core 0).bulk = [m] ∧ m.bc = false ∧ (e m).memOk = true ∧ (e m).frozen 0 = false ∧ (e m).parks = [] ∧ (e m).localPending 0 m = false ∧ m.beats = 2
            ∧ (e m).ptnOf 0 = some (ptn (e m)) ∧ ((e m).wafer 0).ptnIn (ptn (e m)).slot = some (ptn (e m))
            ∧ 1 ∉ m.done ∧ (e m).place 0 (m.at_ 1 true) = .vault 0 0x1020 ∧ (e m).stops 0 0 = none ∧ (e m).moving 0 = false
            ∧ (e m).place 0 (m.at_ 1 false) = .vault 0 0x2020 ∧ ((e m).core 0).poisonedIn 0x2020 32 = false ∧ m.fault = none
            ∧ m.inside.find? (fun b => b.n == 1) = none ∧ m.done.length < m.beats)
      ∧ (let v : BitVec 256 := (0x1000000000002000#64) ++ (0x1000000000002000#64) ++ (0x1000000000002000#64) ++ 0x1000000000002000#64
         ∀ j < 4, v.extractLsb' (64 * j) 64 = (bulkCmd 1 false [] false).src)
      ∧ (∀ done ∈ [[], [0]], let m := { bulkCmd 0 false done false with inside := [⟨1, 7, false, none⟩] }
          ((e m).core 0).bulk = [m] ∧ m.inside.find? (fun b => b.n == 1) = some ⟨1, 7, false, none⟩ ∧ (e m).memOk = true ∧ (e m).place 0 (m.at_ 1 true) = .vault 0 0x1020)
      ∧ (let m := { bulkCmd 0 false [0] false with sv := true, sem := 15 }
         (e m).place 0 m.dst = .vault 0 0x1000 ∧ ((e m).core 0).saved = false ∧ (vget ((e m).core 0).sems 15).toNat < 2^32 - 1 ∧ m.done.length + 1 = m.beats)
      ∧ (∀ near, let f := Flit.addressed 7 0 near true false 0 0
          ((q f).core 0).addrq[0]? = some f ∧ (q f).memOk = true ∧ (q f).parks = [] ∧ (q f).frozen 0 = false ∧ (q f).moving 0 = false ∧ (q f).stops 0 0 = none)
      ∧ (let f := Flit.addressed 7 0 false true false 0 0
         let t := cutOff ((q f).modCore 0 fun k => { k with bulk := [bulkCmd 0 true [] false] })
         (t.core 0).addrq[0]? = some f ∧ t.frozen 0 = false ∧ t.moving 0 = false ∧ (t.stops 0 0).isSome = true
          ∧ (t.core 0).bulk[0]? = some (bulkCmd 0 true [] false))
      ∧ ((q (.bulkEnd 0 true 0 0)).core 0).addrq[0]? = some (.bulkEnd 0 true 0 0) ∧ ((q (.bulkEnd 0 true 0 0)).core 0).saved = false ∧ (q (.bulkEnd 0 true 0 0)).frozen 0 = false
      ∧ (vget ((q (.bulkEnd 0 true 0 0)).core 0).sems 0).toNat < 2^32 - 1
      ∧ (∀ ended, let m := bulkCmd 0 true [] ended
          (e m).bulkAcks.find? (fun x => x.id == 6 && x.core == 0) = some ⟨6, 0, 0, 0⟩ ∧ ((e m).core 0).bulk = [m] ∧ m.seq = 0 ∧ m.bc = true ∧ m.count ≤ m.acks + 1 ∧ (e m).frozen 0 = false)
      ∧ 0 + 1 < { bulkCmd 0 true [] false with count := 2 }.count
      ∧ (let m := bulkCmd 0 true [] false
         (e m).frozen 0 = false ∧ m.started + 1500 * ((e m).stream 0 m.vs.toNat).wdog ≤ (e m).now ∧ ((e m).strand 0 m.strand).st = .ready
          ∧ ((e m).strand 0 m.strand).born ≤ m.seq)
      ∧ (∀ run, let q := ptn (t (ringOf run))
          ((t (ringOf run)).wafer 0).ptnIn 0 = some q ∧ ((t (ringOf run)).wafer 0).hasRing q 0 = true ∧ (q.ringRec 0).run = run ∧ (t (ringOf run)).ringBad (leadCore 0 q) (q.ringRec 0) = false
            ∧ (t (ringOf run)).frozen (leadCore 0 q) = false ∧ (t (ringOf run)).ringBuf (leadCore 0 q) (q.ringRec 0) = some (0, 0x1000)
            ∧ (t (ringOf run)).ringNext 0 0 q = some (1, 0) ∧ (q.ringRec 0).step = 0 ∧ (q.ringRec 0).out = none ∧ (q.ringRec 0).fail = false
            ∧ (t (ringOf run)).moving 0 = false ∧ (((t (ringOf run)).wafer 1).ptnIn 0).isSome = true
            ∧ (q.ringRec 0).since + 15000000 ≤ { t (ringOf run) with now := 15000000 }.now)
      ∧ (∀ wrote ∈ [[], [1]], let r := { ringOf true with out := some (0, [(leBytes 1 32, false), (leBytes 2 32, false)]), wrote := wrote }
          let u := t r
          (ptn u).ringRec 0 = r ∧ u.frozen 0 = false ∧ u.ringBuf 0 r = some (0, 0x1000) ∧ u.moving 0 = false ∧ u.stops 0 0 = none ∧ u.memOk = true ∧ u.parks = []
            ∧ (leBytes 1 32).length = 32 ∧ ((List.range 2).filter fun n => n ∉ r.wrote) = if wrote = [] then [0, 1] else [0])
      ∧ (let r := { ringOf true with fail := true, final := [0, 1] }
         (ptn (t r)).ringRec 0 = r ∧ (t r).frozen 0 = false ∧ (t r).ringBuf 0 r = some (0, 0x1000) ∧ (t r).moving 0 = false ∧ ∀ c ∈ r.results, c ∈ r.final)
      ∧ (t { ringOf false with chunk := 32 }).ringBad 0 { ringOf false with chunk := 32 } = true := by
  refine ⟨?_, ?_, fun i => ⟨headed_atHead _ i _ _ (fun _ => ⟨rfl, rfl, rfl⟩) fun _ => rfl, rfl⟩, ?_, ?_, ?_, ?_, ?_, ?_, ?_, ?_, ?_, ?_, ?_, ?_, ?_, ?_, ?_, ?_, ?_⟩ <;> decide +kernel

/-- A poisoned beat that has been read, in a command whose home owes nothing older; beats and blocks on lines; a ring's first step with a beat
to read and with both read, its last reduction with an arrived chunk, for each combine kind, and a gather step. -/
theorem witness_BulkAndRingResult_steps :
    let e (m : BulkCmd) : State := { (ready id).modCore 0 fun k => { k with bulk := [m] } with bulkAcks := [⟨6, 0, 0, 0⟩] }
    let read : List (Nat × BitVec 256 × Bool) := [(0, 1, false), (1, 2, true)]
    let r (comb rop step : Nat) (took : List (Nat × BitVec 256 × Bool)) (inbox : List (Nat × List Flit)) : RingRec :=
      { ringOf true with w0 := BitVec.ofNat 64 (2^9 + comb * 4 + rop), step := step, took := took, inbox := inbox }
    let ready (x : RingRec) : Prop := let t := twoParts x
      (ptn t).ringRec 0 = x ∧ x.run = true ∧ x.out = none ∧ x.fail = false ∧ t.frozen (leadCore 0 (ptn t)) = false
        ∧ t.ringBuf (leadCore 0 (ptn t)) x = some (0, 0x1000) ∧ t.ringNext 0 0 (ptn t) = some (1, 0) ∧ t.moving 0 = false
        ∧ t.stops (leadCore 0 (ptn t)) 0 = none ∧ x.step < if x.rop = 2 then 2 * x.np - 1 else x.np
    (let m := { bulkCmd 0 false [] false with inside := [⟨1, 7, true, some (9, 0x1000000000002020)⟩] }
     ((e m).core 0).bulk = [m] ∧ 1 < m.beats ∧ m.inside.find? (fun b => b.n == 1) = some ⟨1, 7, true, some (9, 0x1000000000002020)⟩
        ∧ (e m).answers 0 0 = false ∧ (e m).place 0 (m.at_ 1 true) = .vault 0 (32 * 129))
      ∧ (e (bulkCmd 0 true [] true)).owes 0 0 6 = false
      ∧ (∀ comb ∈ [0, 1, 2], let x := r comb 2 0 [] []
         ready x ∧ x.comb = comb ∧ x.step = 0 ∧ ((List.range (x.chunk / 32)).filter fun n => ∀ b ∈ x.took, b.1 ≠ n) ≠ [])
      ∧ (∀ comb ∈ [0, 1, 2], let x := r comb 2 0 read []
         ready x ∧ x.comb = comb ∧ x.step = 0 ∧ ((List.range (x.chunk / 32)).filter fun n => ∀ b ∈ x.took, b.1 ≠ n) = [])
      ∧ (∀ rop ∈ [0, 2], ∀ p ∈ [(0, [Flit.laneF 1 0, .fail 0]), (1, [.laneI 1 0, .laneI 2 0]), (2, [.fail 2])], let x := r p.1 rop 1 read [(1, p.2)]
         ready x ∧ x.comb = p.1 ∧ x.step ≠ 0 ∧ x.rop ≠ 1 ∧ x.step + 1 ≤ x.np ∧ x.inbox = [(1, p.2)]
          ∧ p.2.length = x.chunk / (if x.comb = 2 then 64 else 32) ∧ p.2 ≠ [])
      ∧ (∀ p ∈ [(1, 1), (2, 2)], let x := r 0 p.1 p.2 [] [(1, [.laneF 1 0, .fail 0])]
         ready x ∧ x.step ≠ 0 ∧ (x.rop = 1 ∨ x.np < x.step + 1) ∧ x.inbox = [(1, [.laneF 1 0, .fail 0])]) := by
  simp only [List.forall_mem_cons, List.not_mem_nil, false_imp_iff, implies_true, and_true]
  and_intros <;> decide +kernel

/-- A parameter block in the near store: one row of one line between far address 0x10000 and the core's own vault at 0x1000, in physical form. -/
def spbImage (reserved : Nat) : BitVec 512 :=
  BitVec.ofNat 512 (0x4000000000010000 + 0x1000000000001000 * 2^64 + (64 + 2^32 + reserved * 2^48) * 2^128 + 2^22 * 2^448)

def parameters (reserved : Nat) (k : Core) : Core := { k with near := k.near.writeN 0x100 (leBytes (spbImage reserved).toNat 64) }

theorem parameters_strands (r : Nat) : KeepsStrands (parameters r) := fun m => by rw [parameters]; exact ⟨rfl, rfl, rfl⟩

/-- A block with a field that makes it fail row 7 of R361: strait 4 of a partition that has four. -/
def spbStrait : BitVec 512 := spbImage 0 + BitVec.ofNat 512 (2^18 * 2^448)

/-- An instruction at the head that reads a block. -/
def spbHead : State := headed (put 1 0x100) .nop (parameters 0) id

/-- Of a block in order the rows before a row n hold, where row 7 holds or is not reached. -/
theorem spb_passes (b : BitVec 512) (n : Nat) (h : b = spbImage 0 ∨ b = spbStrait ∧ n = 7) :
    SpbPasses spbHead 0 0 (head spbHead).snap 0 b n := by
  have rows : spbRows 0 b = [(0x1000000000001000, 64)] := by
    rcases h with rfl | ⟨rfl, -⟩ <;> decide +kernel
  have at_ : spbHead.place 0 0x1000000000001000 = .vault 0 0x1000 := by decide +kernel
  have ok : spbHead.check 0 (head spbHead).snap.priv accQuay 0x1000000000001000 64 1 true = none := by decide +kernel
  have far : FarForm b (spbAt b 0) ∧ spbBits b 7 12 2 = 0 := by
    unfold FarForm
    rcases h with rfl | ⟨rfl, -⟩ <;> decide +kernel
  refine ⟨fun _ => ?_, fun _ => ?_, fun _ => ⟨far.1, by simp [far.2], by simp [far.2]⟩, fun _ => ?_, fun _ r m => ?_, fun _ r m d o p => ?_,
    fun l => ?_, fun l => ?_, fun l => ?_⟩
  · unfold SpbReserved
    rcases h with rfl | ⟨rfl, -⟩ <;> decide +kernel
  · rcases h with rfl | ⟨rfl, -⟩ <;> decide +kernel
  · unfold SpbMisaligned
    rcases h with rfl | ⟨rfl, -⟩ <;> decide +kernel
  · rw [rows] at m
    rw [List.mem_singleton.mp m]
    exact ok
  · rw [rows] at m
    rw [List.mem_singleton.mp m, at_] at p
    cases p
    rfl
  · rcases h with rfl | ⟨-, rfl⟩
    · decide +kernel
    · omega
  · rcases h with rfl | ⟨-, rfl⟩
    · unfold SpbRange
      decide +kernel
    · omega
  · rcases h with rfl | ⟨-, rfl⟩
    · decide +kernel
    · omega

/-- A block that passes all rows, one that fails row 1, and one that fails row 7. -/
theorem witness_FarIssues_blocks :
    SpbPasses spbHead 0 0 (head spbHead).snap 0 (spbImage 0) 10
      ∧ SpbFails spbHead 0 0 (head spbHead).snap 0 (spbImage 1) 0x100 1 0x140 0x100
      ∧ SpbFails spbHead 0 0 (head spbHead).snap 0 spbStrait 0x100 7 0x144 0x100 := by
  refine ⟨spb_passes _ _ (.inl rfl), ⟨?_, fun p => p.1 (by decide) ?_, .inl (by decide)⟩, spb_passes _ _ (.inr ⟨rfl, rfl⟩), fun p => ?_, ?_⟩
  · refine ⟨?_, ?_, ?_, ?_, ?_, ?_, ?_, ?_, ?_⟩ <;> exact fun h => absurd h (by decide)
  · unfold SpbReserved
    decide +kernel
  · exact absurd (p.2.2.2.2.2.2.1 (by decide)) (by decide +kernel)
  · exact .inr (.inr (.inr (.inl (by decide))))

/-- A command of a strait. -/
def farCommand (kind : Nat) (stage : FarStage) (done : List Nat) (phys : Bool) : FarCmd :=
  ⟨5, 0, 0, 0, kind, if phys then spbImage 0 else spbImage 0 &&& ~~~(BitVec.ofNat 512 (2^22 * 2^448)), 0, stage, none, [], done, [], [], 0, none, 64⟩

/-- Addresses in order and out of it; an instruction of each kind at the head with its block in the near store, in order and not, and in a vault; a
command that asks for a credit, and one whose entry a hold has taken off the queue; one whose core has stopped. -/
theorem witness_FarIssues :
    let s (a b : Word) := ready fun c => put 1 a (put 2 b c)
    let flip (x : Word) : Prop := x.extractLsb' 60 4 = 4 ∧ x.extractLsb' 48 12 = 0 ∧ x.extractLsb' 0 16 = 0
    let h (a : Word) (r : Nat) (i : Instr) := headed (put 1 a) i (parameters r) id
    let g (i : Instr) : State := { headed id i id id with fars := [farCommand 0 .credit [] true] }
    ((s 0xFFC0 0).check 0 true accLd (0xFFC0 + ((0#16).signExtend 64 <<< 6)) 64 64 true = none ∧ (s 0xFFC0 0).place 0 0xFFC0 = .near 0xFFC0
        ∧ (s 0x1000000000000040 0).check 0 true accLd (0x1000000000000040 + ((0#16).signExtend 64 <<< 6)) 64 64 true = none ∧ cPart 0 = cPart (s 0 0).cur.1
        ∧ (s 0xFFC8 0).check 0 true accLd (0xFFC8 + ((0#16).signExtend 64 <<< 6)) 64 64 true = some 3
        ∧ (flip 0x4000FFFFFFFF0000 ∧ (0x10000#64).toNat % 65536 = 0 ∧ ((0x4000FFFFFFFF0000#64).extractLsb' 0 48).toNat + 0x10000 ≤ 2^48)
        ∧ 2^48 < ((0x4000FFFFFFFF0000#64).extractLsb' 0 48).toNat + 0x20000 ∧ (0 : Word).extractLsb' 60 4 ≠ 4
        ∧ ((0x4001000000000000#64).extractLsb' 60 4 = 4 ∧ (0x4001000000000000#64).extractLsb' 48 12 ≠ 0) ∧ (0x4000000000000001#64).extractLsb' 0 16 ≠ 0)
      ∧ (∀ a r i, AtHead (h a r i) 0 0 (head (h a r i)) [] ∧ (head (h a r i)).instr = i ∧ (head (h a r i)).phase = 0)
      ∧ ((h 0x100 0 .nop).place 0 0x100 = .near 0x100 ∧ ((h 0x100 0 .nop).core 0).nearUe = []
        ∧ BitVec.ofNat 512 (((h 0x100 0 .nop).core 0).near.le 0x100 64) = spbImage 0
        ∧ BitVec.ofNat 512 (((h 0x100 1 .nop).core 0).near.le 0x100 64) = spbImage 1
        ∧ (h 0x1000000000000040 0 .nop).place 0 0x1000000000000040 = .vault 0 0x40)
      ∧ ((g (.fmget 1 0)).farCmd 5 = some (farCommand 0 .credit [] true) ∧ (head (g (.fmget 1 0))).seq = (farCommand 0 .credit [] true).seq
        ∧ (∀ kind ∈ [0, 4], let m := farCommand kind .credit [] true
            let u : State := { g (.fmget 1 0) with fars := [m] }
            (∀ j ∈ u.straitsFor m, (u.fars.filter fun n => n.stage != .credit && u.atStrait m n j).length < 64)
              ∧ ∀ n ∈ u.fars, n.stage = .credit → (∃ j ∈ u.straitsFor m, u.atStrait m n j = true) → m.id ≤ n.id)
        ∧ (let m := farCommand 1 .credit [] true
           let u : State := { ready id with fars := [m] }
           u.farCmd 5 = some m ∧ (∀ y ∈ (u.strand 0 0).sq, y.seq ≠ m.seq) ∧ ((g (.fmget 1 0)).fars.find? fun m => m.core == 0 && m.strand == 0 && m.seq == 0).isSome = true))
      ∧ ∀ i ph, AtHead (headed id i (fun k => { k with stopped := true }) fun e => { e with phase := ph }) 0 0
            (head (headed id i (fun k => { k with stopped := true }) fun e => { e with phase := ph })) []
          ∧ (headed id i (fun k => { k with stopped := true }) fun e => { e with phase := ph }).halted 0 0 = true
          ∧ (head (headed id i (fun k => { k with stopped := true }) fun e => { e with phase := ph })).phase = ph
          ∧ (head (headed id i (fun k => { k with stopped := true }) fun e => { e with phase := ph })).instr = i := by
  have st : (headed id .nop (fun k => { k with stopped := true }) id).halted 0 0 = true := by decide +kernel
  refine ⟨?_, fun a r i =>
    have e := headed_head (put 1 a) i (parameters r) id (parameters_strands r)
    ⟨headed_atHead _ i _ _ (parameters_strands r) fun _ => rfl, congrArg Entry.instr e, congrArg Entry.phase e⟩, ?_, ?_,
    fun i ph => ⟨headed_atHead _ i _ _ (fun _ => ⟨rfl, rfl, rfl⟩) fun _ => rfl, st, rfl, rfl⟩⟩ <;> decide +kernel

/-- A part whose partition has key 0 loaded, far memory on, and tables whose third level has w0 and w1 for the first 2 MiB; strait 0 is up. -/
def farPart (m : FarCmd) (w0 : Nat) (tlb : List TlbEntry) (slots : List FaultSlot) (op : Option FarOp) : State :=
  let node (line w0 : Nat) : FarLine := ⟨line, 0, BitVec.ofNat 512 w0, false⟩
  let far (b : FarBlock) : FarBlock :=
    { b with en := true, root := 0x2000, op := op, size := true, leafva := 0, groups := vset b.groups 0 (BitVec.ofNat 64 (2^18 + 2^27 + 2^36)) }
  let s := (ready id).modPtn 0 0 fun q => { q with keys := vset q.keys 0 ⟨.loaded, 0⟩, far := far q.far }
  let s := s.modWafer 0 fun w =>
    { w with far := [node 384 (w0 + 2^64), node 256 0x6001, node 128 0x4001],
             straits := [(0, { Strait.off with up := true, decoders := [(0, 2^40)], tlb := tlb, slots := slots, devOk := true, devWidth := 16 })] }
  { s with fars := [m] }

/-- The leaf that maps the first 2 MiB of it. -/
def farLeaf (w0 : Nat) : Leaf := ⟨0x6000, 0, true, w0, 1⟩

def reaches (pa : Nat) (key : BitVec 512) : Xlate → Bool | .ok p k => p == pa && k == key | _ => false
def parks : Xlate → Bool | .park => true | _ => false
def faultOf (n : Nat) : Xlate → Bool | .fault k => k == n | _ => false
def finds (l : Leaf) : Except Nat Leaf → Bool
  | .ok k => k.slot == l.slot && k.va == l.va && k.big == l.big && k.w0 == l.w0 && k.w1 == l.w1
  | _ => false

theorem reaches_eq {pa : Nat} {key : BitVec 512} {x : Xlate} (h : reaches pa key x = true) : x = .ok pa key := by
  cases x <;> simp_all [reaches]

theorem finds_eq {l : Leaf} {x : Except Nat Leaf} (h : finds l x = true) : x = .ok l := by
  cases x with
  | error e => simp [finds] at h
  | ok k => cases k; cases l; simp_all [finds]

def holds (l : Leaf) : Option Leaf → Bool | some k => finds l (.ok k) | none => false

theorem holds_eq {l : Leaf} {x : Option Leaf} (h : holds l x = true) : x = some l := by
  cases x with
  | none => simp [holds] at h
  | some k =>
    have e : (Except.ok k : Except Nat Leaf) = .ok l := finds_eq h
    injection e with e
    rw [e]

/-- A command of two elements of 8 bytes with 4-byte indices at 0x3000 of the core's own vault, in physical form; with a chase of depth 1. -/
def elemImage (chase : Bool) : BitVec 512 :=
  BitVec.ofNat 512 (0x4000000000010000 + 0x1000000000001000 * 2^64 + 2 * 2^128 + 0x1000000000003000 * 2^256
    + (if chase then 0x4000000000020000 * 2^320 else 0) + (2^22 + 3 * 2^8 + if chase then 2^12 else 0) * 2^448)

def farElem (kind : Nat) (chase : Bool) (parts : List FarPart) : FarCmd := { farCommand kind .admitted [] true with spb := elemImage chase, parts := parts }

/-- What every step of access 0 of a command asks of the state. -/
def lineReady (m : FarCmd) : Bool :=
  let s := farPart m 3 [] [] none
  decide (s.memOk = true ∧ s.farCmd m.id = some m ∧ s.ptnOf m.core = some (ptn s) ∧ s.parks = [] ∧ 0 ∉ m.done ∧ m.waits 0 = false
    ∧ m.kind < 4 ∧ 0 < farCount m.kind m.spb ∧ (m.begun 0 = true ∨ (s.frozen m.core = false ∧ (m.stage = .admitted ∨ (m.part 0).going = true)))
    ∧ (m.part 0).chain.length ≤ chaseDepth m ∧ (m.part 0).wrong = none)

/-- An FMGET that reads its line. -/
theorem witness_FarEvents_get :
    let m := farCommand 0 .admitted [] true
    let s := farPart m 3 [] [] none
    lineReady m = true ∧ ¬ReadAll m (m.part 0) ∧ Clear s (ptn s) m (m.part 0) := by
  refine ⟨by decide +kernel, fun h => ?_, fun h => ?_, fun h => ?_, fun _ _ => ⟨0x10000, 0, ?_, ?_⟩, fun h => ?_⟩
  · exact absurd h.2.1 (by decide +kernel)
  · exact absurd h (by unfold elements; decide)
  · exact absurd h (by unfold elements; decide)
  · exact reaches_eq (by decide +kernel)
  · decide +kernel
  · exact absurd h (by decide)

/-- An FMGATH that reads an index, and one with a link of its chase to read. -/
theorem witness_FarEvents_gather :
    let m := farElem 2 false []
    let s := farPart m 3 [] [] none
    let n := farElem 2 true [⟨0, [], some 0, none, 0, false, [], none, false⟩]
    let t := farPart n 3 [] [] none
    (lineReady m = true ∧ ¬ReadAll m (m.part 0) ∧ Clear s (ptn s) m (m.part 0))
      ∧ lineReady n = true ∧ ¬ReadAll n (n.part 0) ∧ Clear t (ptn t) n (n.part 0) := by
  refine ⟨⟨by decide +kernel, fun h => ?_, fun _ _ => ⟨0, 0x3000, ?_, ?_, ?_, ?_, ?_⟩, fun _ h => ?_, fun h => ?_, fun h => ?_⟩,
    by decide +kernel, fun h => ?_, fun _ h => ?_, fun _ _ _ => ⟨0x20000, 0, reaches_eq ?_, ?_⟩, fun h => ?_, fun h => ?_⟩
  · exact absurd (h.1 (.inl rfl)).1 (by decide +kernel)
  · decide +kernel
  · decide +kernel
  · decide +kernel
  · decide +kernel
  · exact fun _ => ⟨by decide +kernel, by decide +kernel⟩
  · exact absurd h (by decide +kernel)
  · exact absurd (h (.inl rfl)).1 (by decide +kernel)
  · exact absurd h (by decide)
  · exact absurd (h.1 (.inl rfl)).2 (by decide +kernel)
  · exact absurd h (by decide +kernel)
  · decide +kernel
  · decide +kernel
  · exact absurd (h (.inl rfl)).2 (by decide +kernel)
  · exact absurd h (by decide)

/-- A part of an access: its far line read, or not; the beats performed. -/
def farBeats (beats : List Nat) (got : Bool) : FarPart := ⟨0, [], none, none, 7, false, beats, if got then some ⟨0x10000, 0, 9, false⟩ else none, false⟩

/-- A read with one and with two beats to write; a write whose vault side has been read; with a device that answers, and one that fails; a read and
a write whose page has no key, of a command that goes on and of one that has failed; and a write to a PARK page. -/
theorem witness_FarEvents_moves :
    (∀ beats ∈ [[], [1]], let m : FarCmd := { farCommand 0 .admitted [] true with parts := [farBeats beats true] }
        let s := farPart m 3 [] [] none
        lineReady m = true ∧ farWrites m.kind = false ∧ (m.part 0).got = some ⟨0x10000, 0, 9, false⟩ ∧ (m.events 0).length = 2
          ∧ ((List.range 2).filter fun i => i ∉ (m.part 0).beats).length = 2 - beats.length ∧ s.stops 0 0 = none ∧ s.moving 0 = false
          ∧ ∀ i < 2, s.place 0 (eventAt m (m.part 0) i) = .vault 0 ((m.events 0).getD i (0, 0)).1)
      ∧ (let m : FarCmd := { farCommand 1 .admitted [] true with parts := [farBeats [0, 1] false] }
         let s := farPart m 3 [] [] none
         lineReady m = true ∧ farWrites m.kind = true ∧ 0x10000 % 64 + m.len ≤ 64 ∧ (m.part 0).got = none ∧ 64 ≤ m.len
          ∧ (∀ i < (m.events 0).length, i ∈ (m.part 0).beats) ∧ m.kind ≠ 2 ∧ m.kind ≠ 3
          ∧ reaches 0x10000 0 (s.xlate (ptn s) m (farVa m (m.part 0)) true false) = true ∧ s.lineBlocked (ptn s) m 0 (0x10000 / 64) = false
          ∧ ((s.wafer 0).strait m.strait).up = true ∧ 0x10000 / 64 ∉ ((s.wafer 0).strait m.strait).faulty
          ∧ 0x10000 / 64 ∈ (((s.modStrait 0 0 fun d => { d with faulty := [0x10000 / 64] }).wafer 0).strait 0).faulty
          ∧ m.stage = .admitted ∧ (ptn s).far.pwait = 0)
      ∧ (let m := farElem 3 false [⟨0, [], some 0, none, 7, false, [0], some ⟨0x10000, 0, 9, false⟩, false⟩]
         lineReady m = true ∧ farWrites m.kind = true ∧ 0x10000 % 64 + m.len ≤ 64 ∧ (m.part 0).got = some ⟨0x10000, 0, 9, false⟩
          ∧ (m.events 0).length = 1 ∧ 0 ∈ (m.part 0).beats ∧ (m.part 0).index ≠ none ∧ (m.part 0).chain.length = chaseDepth m)
      ∧ (∀ st ∈ [FarStage.admitted, .failed], ∀ k ∈ [0, 1], let m : FarCmd := { farCommand k st [] true with parts := [{ farBeats [0, 1] false with going := true }] }
          let s := farPart m 3 [] [] none
          let q := { ptn s with keys := vset (ptn s).keys 0 ⟨.empty, 0⟩ }
          lineReady m = true ∧ (m.part 0).got = none ∧ faultOf 7 (s.xlate q m (farVa m (m.part 0)) (farWrites k) false) = true ∧ q.far.pwait = 0)
      ∧ (let m : FarCmd := { farCommand 1 .admitted [] false with parts := [farBeats [0, 1] false] }
         let s := farPart m 0x83 [⟨0x6000, 0, true, 0x83, 1, 0⟩] [] none
         (m.part 0).got = none ∧ parks (s.xlate (ptn s) m (farVa m (m.part 0)) true false) = true) := by
  refine ⟨?_, ?_, ?_, ?_, ?_⟩ <;> decide +kernel

/-- A command whose tables at its admission have the page versioned; a page that the walker finds; a parked command. -/
theorem witness_FarEvents_pages :
    let f : FaultSlot := ⟨3, 5, 0, false, 0x140, 7, 0⟩
    let v := farCommand 0 .admitted [] false
    let u := farPart v 0x0B [] [] none
    let t := farPart (farCommand 0 .parked [] true) 3 [] [f] none
    let ts : FarTables := ⟨0x2000, 0, (u.wafer 0).far⟩
    (u.tables 0 (ptn u) = some ts ∧ ts.leaf 0x10000 = some (farLeaf 0x0B) ∧ (farLeaf 0x0B).w0.testBit 3 = true)
      ∧ (u.farCmd v.id = some v ∧ u.ptnOf 0 = some (ptn u) ∧ u.frozen 0 = false ∧ u.missing (ptn u) v 0 = some 0x10000
          ∧ u.walk 0 (ptn u) 0 0x10000 = .ok (farLeaf 0x0B) ∧ ((u.wafer 0).strait 0).tlb.length < 4096)
      ∧ (t.slotAt 0 0 3 = some f ∧ f.wpark = false ∧ t.farCmd f.cmd = some (farCommand 0 .parked [] true) ∧ t.frozen 0 = false ∧ f.deadline ≤ t.now) := by
  refine ⟨⟨?_, holds_eq ?_, ?_⟩, ⟨?_, ?_, ?_, ?_, finds_eq ?_, ?_⟩, ?_⟩ <;> decide +kernel

/-- A VFLIP whose turn has come: over no page; over one whole page that is mapped, of a leaf in order and of one that fails its checks; over a part
of it. -/
theorem witness_FarEvents_flip :
    let w (a len : Nat) : FarCmd := { farCommand 4 .admitted [] true with spb := BitVec.ofNat 512 (0x4000000000000000 + a + len * 2^64) }
    let s (a len leaf : Nat) := farPart (w a len) leaf [] [] none
    (∀ v ∈ [(0, 0, 3), (0, 2^21, 0x0F), (0, 2^21, 0x07), (0, 2^21, 0x8B), (0, 2^21, 0x2F), (0x10000, 0x10000, 0x0F)],
      let a := s v.1 v.2.1 v.2.2
      let m := w v.1 v.2.1
      a.farCmd 5 = some m ∧ a.ptnOf 0 = some (ptn a) ∧ a.frozen 0 = false ∧ m.kind = 4 ∧ m.stage = .admitted ∧ a.flipBefore 0 (ptn a) m.arrived = false
        ∧ (ptn a).far.op = none ∧ m.spb.getLsbD 452 = false ∧ spbBits m.spb 0 0 48 = v.1 ∧ spbBits m.spb 1 0 64 = v.2.1
        ∧ (v.2.2 ≠ 3 → a.walk 0 (ptn a) 0 0 = .ok (farLeaf v.2.2)) ∧ (farLeaf v.2.2).va < 2^48 ∧ (farLeaf v.2.2).slot % 16 = 0
        ∧ (a.strand 0 0).st = .ready ∧ (a.strand 0 0).born ≤ m.seq ∧ (ptn a).inGroup 0 (farLeaf v.2.2).w1 = true
        ∧ (∀ j ∈ (a.wafer 0).straitsOf (ptn a), ((a.wafer 0).strait j).tlb = []))
      ∧ (ptn (s 0 0 3)).inGroup 0 0 = false ∧ (farLeaf 0x0F).w0.testBit 2 = true ∧ (farLeaf 0x0F).w0.testBit 7 = false ∧ (farLeaf 0x8B).w0.testBit 7 = true
      ∧ ((ptn (s 0 0 3)).key (0x0F / 32 % 4)).st = .loaded ∧ ((ptn (s 0 0 3)).key (0x2F / 32 % 4)).st = .empty
      ∧ (farLeaf 0x0F).va ≤ 0x10000 ∧ 0x10000 + 0x10000 ≤ (farLeaf 0x0F).va + 2^21 := by
  refine ⟨?_, ?_, ?_, ?_, ?_, ?_, ?_, ?_, ?_⟩
  · simp only [List.forall_mem_cons, List.not_mem_nil, false_imp_iff, implies_true, and_true]
    refine ⟨⟨?_, ?_, ?_, ?_, ?_, ?_, ?_, ?_, ?_, ?_, fun h => absurd rfl h, ?_⟩, ⟨?_, ?_, ?_, ?_, ?_, ?_, ?_, ?_, ?_, ?_, fun _ => finds_eq ?_, ?_⟩,
      ⟨?_, ?_, ?_, ?_, ?_, ?_, ?_, ?_, ?_, ?_, fun _ => finds_eq ?_, ?_⟩, ⟨?_, ?_, ?_, ?_, ?_, ?_, ?_, ?_, ?_, ?_, fun _ => finds_eq ?_, ?_⟩,
      ⟨?_, ?_, ?_, ?_, ?_, ?_, ?_, ?_, ?_, ?_, fun _ => finds_eq ?_, ?_⟩, ⟨?_, ?_, ?_, ?_, ?_, ?_, ?_, ?_, ?_, ?_, fun _ => finds_eq ?_, ?_⟩⟩
      <;> decide +kernel
  all_goals decide +kernel

/-- A command that has failed, and ones whose accesses are done, without and with a semaphore to increment. -/
theorem witness_FarEvents_ends :
    (∀ st ∈ [FarStage.failed, .admitted], ∀ sv ∈ [0, 2^452], ∀ k ∈ [0, 1], let m : FarCmd := { farCommand k st [0] true with spb := spbImage 0 + BitVec.ofNat 512 sv }
      let s := farPart m 3 [] [] none
      s.farCmd 5 = some m ∧ s.ptnOf 0 = some (ptn s) ∧ s.frozen 0 = false ∧ m.kind < 4 ∧ m.done.length = farCount k m.spb ∧ m.parts = [] ∧ m.waiting = []
        ∧ (s.strand 0 0).st = .ready ∧ (s.strand 0 0).born ≤ 0 ∧ m.spb.getLsbD 452 = decide (sv ≠ 0) ∧ (s.core 0).saved = false
        ∧ (vget (s.core 0).sems (m.spb.extractLsb' 448 4).toNat).toNat < 2^32 - 1 ∧ s.place 0 (m.spb.extractLsb' 64 64) = .vault 0 0x1000) := by
  decide +kernel

/-- Each operation of the far control block, with and without a VFLIP before it, with and without reads under way; writes to replay, one under way. -/
theorem witness_FarEvents_block :
    let op (m : FarCmd) (o : FarOp) := farPart m 3 [] [] (some o)
    let m := farCommand 3 .admitted [] true
    let w : FarCmd := { farCommand 0 .admitted [] true with parts := [farBeats [] true] }
    let x (g : Bool) : FarCmd := { farCommand 1 .admitted [] true with waiting := [⟨0, 0, 0x10000⟩], parts := [{ farBeats [] false with going := g }] }
    (let a := op m (.leaf 3)
     (a.wafer 0).ptnIn 0 = some (ptn a) ∧ (ptn a).far.op = some (.leaf 3) ∧ (a.wafer 0).straitOf (ptn a) 0 = some 0
        ∧ a.flipBefore 0 (ptn a) (ptn a).far.opAt = false ∧ (∀ j ∈ [0, 1], ((a.wafer 0).strait j).tlb = []) ∧ (∀ m ∈ a.fars, m.waiting = [])
        ∧ a.leafSlot 0 (ptn a) 0 (ptn a).far.leafva (ptn a).far.size 4 0 (ptn a).far.root = some 0x6000
        ∧ (match a.walkRead 0 (ptn a) 0 0x6000 with | .ok (o, y) => o == 3 && y == 1 | _ => false) = true
        ∧ a.leafSlot 0 (ptn a) 0 (2^39) true 4 0 (ptn a).far.root = none)
      ∧ ((ptn (op m .flush)).far.op = some .flush ∧ (ptn (op m (.count 4))).far.op = some (.count 4))
      ∧ (let f : FarCmd := { farCommand 4 .admitted [] true with spb := 0 }
         (farPart f 3 [] [] (some (.leaf 3))).flipBefore 0 (ptn (farPart f 3 [] [] none)) (f.arrived + 1) = true)
      ∧ (∀ o ∈ [FarOp.leafWait [(5, 0)], .leafWait [(5, 1)], .flushWait [(5, 0)], .leaf 3], let b := op w o
          (b.wafer 0).ptnIn 0 = some (ptn b) ∧ (ptn b).far.op = some o ∧ b.fars = [w] ∧ w.waiting = [] ∧ (∃ f ∈ w.parts, f.got ≠ none)
            ∧ (b.ptnOf w.core).map (·.slot) = some 0)
      ∧ (∀ o ∈ [FarOp.leafReplay (some (5, 0)) [], .leafReplay none [], .leafReplay none [(5, 0)]], ∀ g, let b := op (x g) o
          (b.wafer 0).ptnIn 0 = some (ptn b) ∧ (ptn b).far.op = some o ∧ b.farCmd 5 = some (x g) ∧ ((x g).part 0).going = g ∧ b.frozen 0 = false
            ∧ (x g).waits 0 = true ∧ (b.modPtn 0 0 fun q => { q with pre := { q.pre with held := true } }).frozen 0 = true) := by
  refine ⟨?_, ?_, ?_, ?_, ?_⟩ <;> decide +kernel

/-- A link that is up with a device of width 16; a part that does not run. -/
theorem witness_FarEvents_link :
    let t := farPart (farCommand 0 .parked [] true) 3 [] [] none
    (∀ r ∈ (t.wafer 0).ptns, r.first < 16) ∧ ((t.wafer 0).strait 0).up = true ∧ ((t.wafer 0).strait 0).devOk = true ∧ ((t.wafer 0).strait 0).devWidth = 16
      ∧ (((t.modStrait 0 0 fun d => { d with ide := true }).wafer 0).strait 0).ide = true
      ∧ (t.wafer 0).tileRuns (straitTile 0) = true ∧ (t.wafer 0).power = .run ∧ ((t.wafer 0).ptns.find? fun r => ((t.wafer 0).straitsOf r).contains 0).isSome = true
      ∧ ((t.modWafer 0 fun w => { w with power := .off }).wafer 0).tileRuns (straitTile 0) = false := by
  decide +kernel

/-- S and U mode; offsets of the chart at its end and past it; PREQ and CHART in each phase; a core to stop, the exempt strand's and another, with
strands that wait and one that does not, one to save, and a partition to resume with a core that has saved a frame, and one that has not, on which a
strand was taken back. -/
theorem witness_PreemptionResult :
    let u := ready fun c => put 1 0x400020 { c with priv := false }
    let h (i : Instr) (ph : Nat) (held : Bool) := (headed id i id fun e => { e with phase := ph }).modPtn 0 0 fun q => { q with pre := { q.pre with held := held } }
    let saving (k : Core → Core) := ((ready id).modCore 0 k).modPtn 0 0 fun q => { q with pre := { q.pre with saving := true } }
    let stopped := saving fun k => { k with stopped := true }
    let waits := (saving id).modStrand 0 0 fun x => { x with st := .waiting, wait := some ((ready id).entry (.waitev 1 2 3) [] 0) }
    let held := ((ready id).modCore 0 fun k => { k with stopped := true, saved := true, vault := [(0, 0x45), (1, 0x4D), (2, 0x52), (3, 0x46), (4, 1)] }).modPtn 0 0
      fun q => { q with pre := { q.pre with held := true } }
    ((ready id).ctx.priv = true ∧ u.ctx.priv = false ∧ ((ready (put 1 0x400018)).ctx.getX 1).toNat % 8 = 0 ∧ ((ready (put 1 0x400018)).ctx.getX 1).toNat < 0x400020
        ∧ 0x400020 ≤ (u.ctx.getX 1).toNat ∧ ((ready (put 1 4)).ctx.getX 1).toNat % 8 ≠ 0)
      ∧ (∀ i ph, AtHead (headed id i id fun e => { e with phase := ph }) 0 0 (head (headed id i id fun e => { e with phase := ph })) [])
      ∧ (∀ b, (h (.preq 1) 0 b).ptnOf 0 = some (ptn (h (.preq 1) 0 b)) ∧ ((h (.preq 1) 0 b).wafer 0).ptnIn 0 = some (ptn (h (.preq 1) 0 b))
          ∧ (h (.preq 1) 0 b).halted 0 0 = false ∧ (h (.preq 1) 0 b).released 0 0 0 0 = true ∧ (ptn (h (.preq 1) 0 b)).pre.held = b
          ∧ (ptn (h (.preq 1) 0 b)).pre.saving = false ∧ (ptn (h (.preq 1) 0 b)).slot = 0 ∧ ((h (.chart 1 2) 0 b).wafer 0).moves = [])
      ∧ ((((headed id (.chart 1 2) id id).modStrand 0 0 fun x => { x with st := .ready }).strand 0 0).st = .ready
        ∧ ((headed id (.chart 1 2) id id).modStrand 0 0 fun x => { x with st := .ready }).halted 0 0 = false)
      ∧ ((waits.core 0).stopped = false ∧ waits.moving 0 = false ∧ waits.exempt 0 = none ∧ (ptn waits).pre.saving = true ∧ (waits.strand 0 0).st = .waiting
          ∧ (waits.strand 0 0).wait = some ((ready id).entry (.waitev 1 2 3) [] 0) ∧ (waits.strand 0 1).st = .free
          ∧ (waits.wafer 0).ptnIn (ptn waits).slot = some (ptn waits)
          ∧ (∀ k ∈ [(0 : Fin 4), 1], let t := waits.modPtn 0 0 fun q => { q with pre := { q.pre with exempt := some (0, k) } }
              t.exempt 0 = some k ∧ (t.core 0).stopped = false ∧ (t.strand 0 0).wait = some ((ready id).entry (.waitev 1 2 3) [] 0)))
      ∧ (stopped.memOk = true ∧ stopped.ptnOf 0 = some (ptn stopped) ∧ (ptn stopped).pre.saving = true ∧ (ptn stopped).pre.held = false
          ∧ (stopped.core 0).stopped = true ∧ (stopped.core 0).saved = false ∧ stopped.exempt 0 = none ∧ stopped.moving 0 = false ∧ stopped.parks = []
          ∧ stopped.stops 0 0 = none ∧ (stopped.wafer 0).ptnIn (ptn stopped).slot = some (ptn stopped) ∧ stopped.mayParkFrame 0 = true ∧ (∀ u, stopped.waitingOf 0 u = none ∧ (stopped.strand 0 u).faults = [])
          ∧ (stopped.core 0).frameAt + 0x10700 ≤ 0x80000)
      ∧ FrameFits (ready id) 0
      ∧ ((held.wafer 0).ptnIn 0 = some (ptn held) ∧ (ptn held).slot = 0 ∧ (ptn held).pre.held = true ∧ 0 ∈ held.coresOf 0 (ptn held) ∧ (held.core 0).saved = true
          ∧ (held.core 0).saveFailed = false ∧ held.frameBad 0 = false ∧ (∀ u, ((held.restoreCore 0).strand u).ctx.note = false)
          ∧ held.stops 0 0 = none
          ∧ (let t := (held.modCore 0 fun k => { k with saved := false }).modStrand 0 0 fun x => { x with st := .waiting, reexec := true }
             (t.core 0).saved = false ∧ (t.strand 0 0).reexec = true)
          ∧ ((ready id).core 0).saved = false ∧ (ptn (ready id)).pre.held = false) := by
  refine ⟨?_, fun i ph => headed_atHead _ i _ _ (fun _ => ⟨rfl, rfl, rfl⟩) fun _ => rfl, ?_, ?_, ?_, ?_, ⟨?_, ?_, ?_, ?_, ?_, ?_⟩, ?_⟩
  any_goals decide +kernel
  intro u n g h
  have e : ∀ u, ((ready id).strand 0 u).slots = Vector.replicate 4 none := by decide +kernel
  rw [e] at h
  have n' : ∀ i, (Vector.replicate 4 (none : Option Stager)).get i = none := by decide
  rw [vget, n'] at h
  cases h

/-- A core saved with nothing to count, in whose frame strand 0 is ready, with NOTE set and clear. -/
theorem witness_PreemptionResult_note :
    let held (note : Byte) := ((ready id).modCore 0 fun k => { k with
        stopped := true, saved := true, vault := [(0, 0x45), (1, 0x4D), (2, 0x52), (3, 0x46), (4, 1), (0xB700, 1)] ++ [(0xB7F0, note)].filter fun x => x.2 ≠ 0 }).modPtn 0 0
      fun q => { q with pre := { q.pre with held := true } }
    ∀ note ∈ [(0 : Byte), 1], (held note).frameBad 0 = false ∧ ((held note).core 0).saved = true ∧ ((held note).core 0).saveFailed = false
      ∧ ((held note).core 0).incs = [] ∧ ((held note).core 0).frameAt = 0 ∧ (held note).stops 0 0 = none ∧ 0 ∈ (held note).coresOf 0 (ptn (held note))
      ∧ ((((held note).restoreCore 0).strand 0).st = .ready ∨ (((held note).restoreCore 0).strand 0).st = .handler)
      ∧ ((held note).core 0).vault.le (0xB740 + 8 * 0x16) 8 = note.toNat := by
  simp only [List.forall_mem_cons, List.not_mem_nil, false_imp_iff, implies_true, and_true]
  decide +kernel

/-- The part with an amendment at the head of the controller's queue. -/
def damagedPart (d : Damage) (px py : Nat) : State := (ready id).modWafer 0 fun w => { w with work := [.amend d px py] }

/-- The mesh link N of tile (0, 0) is missing, its links E are as the field says; error rings that are off, full and with room, in a vault that can be
reached, that moves, and that has no way to it. -/
theorem witness_DamageAndRecordResult :
    let s (l : Nat) := (ready id).modWafer 0 fun w => { w with chart := { w.chart with tiles := [(0, { w.chart.tile 0 with links := BitVec.ofNat 16 l })] } }
    let r (slot : Option Nat) : ErrRec := ⟨511, some 3, 15, slot, some (2^21 - 1), 511, 511, 7, 9, 2^64 - 1⟩
    let e (b : RingBlock) (slot : Option Nat) := ((ready id).modPtn 0 0 fun q => { q with ring := b }).modWafer 0 fun w => { w with errq := [r slot] }
    let b (en : Bool) (head : BitVec 32) : RingBlock := ⟨0x3FFF, 1, 0, true, en, head, 0, 0⟩
    (∀ old ∈ [0, 1, 2, 3], (tileAt (s (4 * old)) 0 0 0).link 1 = old)
      ∧ (r none).cause < 2^9 ∧ (r none).synd < 16 ∧ (r none).px < 512 ∧ (r none).py < 512 ∧ (15 < 16) ∧ 2^21 - 1 < 2^21 ∧ (r none).time < 2^64
      ∧ ((e (b false 0) none).wafer 0).errq = [r none] ∧ (e (b false 0) none).memOk = true ∧ (e (b false 0) none).parks = []
      ∧ (none : Option Nat).bind ((e (b false 0) none).wafer 0).ptnIn = none
      ∧ ∀ x ∈ [b false 0, b true 2, b true 1], (some 0).bind ((e x (some 0)).wafer 0).ptnIn = some (ptn (e x (some 0)))
          ∧ ((e x (some 0)).wafer 0).ptnIn (ptn (e x (some 0))).slot = some (ptn (e x (some 0))) ∧ (ptn (e x (some 0))).ring = x
          ∧ leadCore 0 (ptn (e x (some 0))) = 0 ∧ (e x (some 0)).moving 0 = false ∧ (e x (some 0)).stops 0 0 = none
          ∧ ((cutOff (e x (some 0))).stops 0 0).isSome = true ∧ (cutOff (e x (some 0))).moving 0 = false
          ∧ ((e x (some 0)).modWafer 0 fun w => { w with chart := { w.chart with tiles := [(0, { w.chart.tile 0 with moving := true })] } }).moving 0 = true
          ∧ (x.en = true → ((x.head - x.tail).toNat = 2^x.rlog ∧ x.lost.toNat + 1 < 2^32) ∨ (x.head - x.tail).toNat ≠ 2^x.rlog) := by
  refine ⟨?_, ?_, ?_, ?_, ?_, ?_, ?_, ?_, ?_, ?_, ?_, ?_, ?_⟩ <;> decide +kernel

def movesTo (l : List Remedy) : Bool := match l with | [.move m] => !m.lost | _ => false
def loses (l : List Remedy) : Bool := l.any fun r => match r with | .lost => true | _ => false

/-- A whole and a narrow link; damage that needs no remedy, that moves a core, and that finds none; damage that the chart shows; the last move of an
amendment; a hold with nothing under way and one with a request. -/
theorem witness_AmendmentResult :
    let ch := ((ready id).wafer 0).chart
    let none_ := damagedPart (.linkSlow 1) 3 5
    let moves := damagedPart .vaultHalf 3 5
    let full := (damagedPart .coreHalf 3 5).modWafer 0 fun w => { w with chart := { w.chart with amends := 4096 } }
    let old := damagedPart (.linkSlow 0) 0 0
    let m : Move := ⟨mkCore 0 5 3, true, false, 5 * 512 + 3, 5 * 512 + 30, none, true, false, true⟩
    let copied := moves.modWafer 0 fun w => { w with moves := [m] }
    let held := (ready id).modPtn 0 0 fun q => { q with amendHold := some 0 }
    let busy : State := { held with net := [⟨5, 0, 0, 0, 0, 0, 0, 8, .load, 0, true, 0, false, false, false, .flying⟩] }
    let i := 5 * 512 + 31
    let compute (ch : Chart) : Chart := { ch with tiles := [(i, { ch.tile i with cls := .compute })] }
    let home (c : Sys2Proof.Machine.Class) (ch : Chart) : Chart := { ch with tiles := (i - 1, { ch.tile (i - 1) with cls := c }) :: ch.tiles }
    (let was := home .relay (compute ch)
     let now := home .memory (compute ch)
     was.tile i = now.tile i ∧ was.spare i = false ∧ now.spare i = true
      ∧ (∃ x ∈ now.tiles, x.1 = i - 1) ∧ was.tile (i - 1) ≠ now.tile (i - 1) ∧ was.tile 0 = now.tile 0 ∧ was.spare 0 = now.spare 0)
      ∧ (∀ d ∈ [Damage.coreHalf, .vaultHalf, .router, .linkGone 1], ch.changes d i = true)
      ∧ ((full.wafer 0).chart.logIsle 0 = some 0 ∧ (full.wafer 0).ptnAt 0 = some (ptn full) ∧ (ptn full).slot < 16
        ∧ (full.wafer 0).log.length + (full.wafer 0).errq.length + 64 < 65536)
      ∧ ((ch.tile (5 * 512 + 3)).link 1 ≠ 3 ∧ ch.amends < 4096 ∧ ch.spare 0 = (ch.damaged (.linkSlow 1) 0).spare 0)
      ∧ (∀ s ∈ [(none_, Damage.linkSlow 1), (moves, .vaultHalf)], (s.1.wafer 0).work = [.amend s.2 3 5] ∧ (s.1.wafer 0).power = .run ∧ (s.1.wafer 0).moves = []
          ∧ (s.1.wafer 0).chart.changes s.2 (5 * 512 + 3) = true ∧ (s.1.wafer 0).chart.amends < 4096)
      ∧ ((remediesOf none_ 0 (.linkSlow 1) 3 5).isEmpty = true ∧ movesTo (remediesOf moves 0 .vaultHalf 3 5) = true)
      ∧ ((full.wafer 0).chart.amends = 4096 ∧ (full.wafer 0).chart.changes .coreHalf (5 * 512 + 3) = true ∧ full.fars = [])
      ∧ ((old.wafer 0).work = [.amend (.linkSlow 0) 0 0] ∧ (old.wafer 0).chart.changes (.linkSlow 0) 0 = false)
      ∧ ((copied.wafer 0).moves = [m] ∧ (m.copy && m.unread) = false)
      ∧ ((held.wafer 0).ptnIn 0 = some (ptn held) ∧ (ptn held).amendHold = some 0 ∧ held.net = [] ∧ held.acks = [] ∧ held.msgs = [] ∧ held.notices = [] ∧ held.steals = []
        ∧ (ptn busy).amendHold = some 0 ∧ ∃ r ∈ busy.net, inRun 0 (ptn busy).first (ptn busy).count r.core = true ∧ r.st = .flying) := by
  refine ⟨?_, ?_, ?_, ?_, ?_, ?_, ?_, ?_, ?_, ?_⟩ <;> decide +kernel

/-- Host port 0's command page with arguments v, and the command at the head of the queue. -/
def commanded (code v : Nat) (f : Wafer → Wafer) : State :=
  (ready id).modWafer 0 fun w => f { w with work := [.cmd false code], pages := vset w.pages 0 ⟨0, 0, 0, leCells v, []⟩ }
where
  leCells (v : Nat) : Memory := Memory.writeN [] 0x100 (leBytes v 16)

theorem commanded_wafer (code v : Nat) (f : Wafer → Wafer) :
    (commanded code v f).wafer 0 = f { (ready id).wafer 0 with work := [.cmd false code], pages := vset ((ready id).wafer 0).pages 0 ⟨0, 0, 0, commanded.leCells v, []⟩ } :=
  State.wafer_modWafer _ _ _

/-- The partition of core 0 changed by f. -/
def inPtn (f : Ptn → Ptn) (w : Wafer) : Wafer := { w with ptns := w.ptns.map f }

/-- Every command at the head of the queue: FORM with a run that fits, is too long, takes a slot in use and meets another; each state a command can
find its partition and keys in; records to read; limits at both ends. (Whether a wrapping opens: the next theorem.) -/
theorem witness_ControllerCommands :
    let s (code v : Nat) := commanded code v id
    let form (first count slot : Nat) := s 1 (first + count * 16 + slot * 512)
    let pre (f : Preempt → Preempt) := commanded 3 0 (inPtn fun q => { q with pre := f q.pre })
    let key (st : KeyState) := commanded 7 0 (inPtn fun q => { q with keys := vset q.keys 0 ⟨st, 0⟩ })
    let point := (commanded 6 0 fun w => { w with eph := some (1, 0, 0) }).modWafer 0 fun w =>
      { w with pages := vset w.pages 0 { vget w.pages 0 with args := Memory.writeN [] 0x108 (Crypto.pointBytes Crypto.base) } }
    let log := commanded 9 0 fun w => { w with log := [7], logged := 1 }
    (∀ code ∈ [1, 2, 3, 4, 5, 6, 7, 8, 9, 10, 11], Commanded (s code 0) 0 false code [])
      ∧ (∀ f c k, (pageOf (form f c k) 0 false).args = commanded.leCells (f + c * 16 + k * 512))
      ∧ ((pageOf (form 1 15 2) 0 false).args.le 0x100 2 = 1 + 15 * 16 + 2 * 512 ∧ ((form 1 15 2).wafer 0).chart.isleCount = 16
        ∧ ((form 1 15 2).wafer 0).chart.lostisle = 0 ∧ ((form 1 15 2).wafer 0).ptnIn 2 = none ∧ ((form 1 15 2).wafer 0).retained = []
        ∧ (∀ q ∈ ((form 1 15 2).wafer 0).ptns, ¬Meet 1 15 q.first q.count) ∧ (∃ q ∈ ((form 0 1 2).wafer 0).ptns, Meet 0 1 q.first q.count)
        ∧ ((form 1 15 0).wafer 0).ptnIn 0 ≠ none ∧ ¬2 + 15 ≤ ((form 2 15 2).wafer 0).chart.isleCount)
      ∧ ((s 2 1).wafer 0).ptnIn 1 = none ∧ (s 2 0).fars = [] ∧ ((s 2 0).wafer 0).ptnIn 0 = some (ptn (s 2 0))
      ∧ (∀ r ∈ ((s 2 0).wafer 0).ptns, r.slot = 0)
      ∧ ((ptn (pre id)).pre.saving = false ∧ (ptn (pre id)).pre.held = false ∧ (ptn (pre fun p => { p with saving := true })).pre.saving = true
        ∧ (ptn (pre fun p => { p with held := true })).pre.held = true ∧ (ptn (pre fun p => { p with held := true })).pre.exempt = none
        ∧ (ptn (pre fun p => { p with exempt := some (0, 0) })).pre.exempt ≠ none)
      ∧ (Crypto.readPoint ((pageOf (s 6 0) 0 false).args.readN 0x108 97) = none
        ∧ Crypto.readPoint ((pageOf point 0 false).args.readN 0x108 97) = Crypto.base ∧ (point.wafer 0).eph = some (1, 0, 0) ∧ ((s 6 0).wafer 0).eph = none)
      ∧ (∀ st ∈ [KeyState.empty, .loaded, .revoked], ((ptn (key st)).key 0).st = st)
      ∧ ((pageOf (s 8 0) 0 false).args.le 0x108 2 % 16 = 0 ∧ (pageOf (s 8 (8 * 2^64 + 7 * 2^72)) 0 false).args.le 0x108 2 = 8 + 7 * 256)
      ∧ ((1 : Nat) ≤ (log.wafer 0).log.length ∧ (log.wafer 0).logged - BitVec.ofNat 32 ((pageOf log 0 false).args.le 0x100 4) = BitVec.ofNat 32 1)
      ∧ ((s 10 0).wafer 0).plant.readings.wf = true ∧ ((s 10 0).wafer 0).plant.clock < 2^20
      ∧ (∀ v ∈ [4999, 5000, 30000, 30001], (pageOf (s 11 v) 0 false).args.le 0x100 2 = v) := by
  refine ⟨fun code h => ⟨by decide, ?_, ?_, ?_⟩, fun f c k => ?_, ?_, ?_, ?_, ?_, ?_, ?_, ?_, ?_, ?_, ?_, ?_, ?_, ?_⟩
  rotate_left 4
  all_goals try (first | decide +kernel | (unfold Meet; decide +kernel))
  · show ((commanded _ _ _).wafer 0).work = _; rw [commanded_wafer]; rfl
  · show ((commanded _ _ _).wafer 0).power = _; rw [commanded_wafer]; exact (by decide +kernel : ((ready id).wafer 0).power = .run)
  · show ((commanded _ _ _).wafer 0).moves = _; rw [commanded_wafer]; exact (by decide +kernel : ((ready id).wafer 0).moves = [])
  · show (vget ((commanded _ _ _).wafer 0).pages 0).args = _; rw [commanded_wafer]; rfl

/-- KEYLOAD of a point, with an ephemeral key and 72 bytes at 0x170. -/
def keyload (v : Nat) : State :=
  commanded 6 0 fun w => { w with eph := some (1, 0, 0), pages := vset w.pages 0 { vget w.pages 0 with
    args := Memory.writeN (Memory.writeN [] 0x108 (Crypto.pointBytes Crypto.base)) 0x170 (leBytes v 72) } }

/-- The page's point and the key that opens its wrapping. -/
def keyloadZ : List Byte := match Crypto.mulPoint 384 1 Crypto.base with | some (x, _) => Crypto.beBytes x 48 | none => []
def keyloadKek : List Byte := leBytes 0xf413a5026c666cf3a73dc0a879188fd212d81427254728d4c266f5e9f994ef61 32

theorem keyload_kek : Crypto.hkdf (Crypto.beBytes (0 : BitVec 384).toNat 48) keyloadZ [BitVec.ofNat 8 0, BitVec.ofNat 8 0] 32 = keyloadKek := by decide +kernel

/-- KEYLOAD with a wrapping (RFC 3394) of the bytes 0 to 63, with one of two equal halves, and with one that does not open. -/
theorem witness_KeyloadOpens :
    let opened (v : Nat) := Crypto.unwrap (Crypto.hkdf (Crypto.beBytes (0 : BitVec 384).toNat 48) keyloadZ [BitVec.ofNat 8 0, BitVec.ofNat 8 0] 32) (leBytes v 72)
    (∀ v, Commanded (keyload v) 0 false 6 []) ∧ (∀ v, ((keyload v).wafer 0).eph = some (1, 0, 0) ∧ ((keyload v).wafer 0).ptns = ((ready id).wafer 0).ptns)
      ∧ ((ptn (ready id)).key 0).st ≠ .loaded
      ∧ (∀ v ∈ [0x5a4bc3f8726147a03607a8018665eb1d4162a2093b4ee3b0ede7ad8976495edb813c7c2ac4130c98d145813e7ead74619900914def140b8b0e65bfa11c5c8b4ca2dc82518c04269, 0x5956bb08fda4703d6f95e097eefbd85ab733434a74a6826ab79306a05eb2c180daecc1198a7f51774163c1842160d58652e90e1082e197c537b7d024dee9a36381b50cd883051fdd, 0], let g := (pageOf (keyload v) 0 false).args
          Crypto.readPoint (g.readN 0x108 97) = Crypto.base ∧ g.le 0x100 1 = 0 ∧ g.readN 0x170 72 = leBytes v 72)
      ∧ opened 0x5a4bc3f8726147a03607a8018665eb1d4162a2093b4ee3b0ede7ad8976495edb813c7c2ac4130c98d145813e7ead74619900914def140b8b0e65bfa11c5c8b4ca2dc82518c04269 = some ((List.range 64).map (BitVec.ofNat 8))
      ∧ opened 0x5956bb08fda4703d6f95e097eefbd85ab733434a74a6826ab79306a05eb2c180daecc1198a7f51774163c1842160d58652e90e1082e197c537b7d024dee9a36381b50cd883051fdd = some ((List.range 64).map fun i => BitVec.ofNat 8 (i % 32))
      ∧ opened 0 = none := by
  simp only [keyload_kek]
  refine ⟨fun v => ⟨by decide, ?_, ?_, ?_⟩, fun v => ⟨?_, ?_⟩, by decide +kernel, by decide +kernel, by decide +kernel, by decide +kernel, by decide +kernel⟩
  · show ((commanded _ _ _).wafer 0).work = _; rw [commanded_wafer]
  · show ((commanded _ _ _).wafer 0).power = _; rw [commanded_wafer]; exact (by decide +kernel : ((ready id).wafer 0).power = .run)
  · show ((commanded _ _ _).wafer 0).moves = _; rw [commanded_wafer]; exact (by decide +kernel : ((ready id).wafer 0).moves = [])
  · show ((commanded _ _ _).wafer 0).eph = _; rw [commanded_wafer]
  · show ((commanded _ _ _).wafer 0).ptns = _; rw [commanded_wafer]

/-- LD.D and ST.D of an aligned, a misaligned and a narrow CTRL address in S and in U mode; a store of each register of the control block; a mailbox in
each state, and a running launch whose one target core is idle. -/
theorem witness_ControlSpaceResult :
    let s (a : Nat) := ready (put 1 (BitVec.ofNat 64 a))
    let u := ready fun c => put 1 0xF000000200010080 { c with priv := false }
    let h (off : Nat) := headed (put 1 (BitVec.ofNat 64 (0xF000000200000000 + off))) (.st 2 1 3 0) id id
    let mail (f : Mailbox → Mailbox) := (ready id).modWafer 0 fun w => { w with mail := vset w.mail 0 (f (vget w.mail 0)) }
    let run := mail fun m => { m with st := 3, lcopy := BitVec.ofNat 1024 ((2^18 + 2^27) * 2^192 + 0x1000000000001000 * 2^576 + 5 * 2^648) }
    (∀ a ∈ [0xF000000200010080, 0xF000000200010084], ((s a).ctx.getX 1 + ((0#12).signExtend 64 <<< 3)).extractLsb' 60 4 = 0xF#4 ∧ (s a).ctx.priv = true)
      ∧ (0xF000000200010080#64).toNat % 8 = 0 ∧ (0xF000000200010084#64).toNat % 8 ≠ 0 ∧ u.ctx.priv = false ∧ (s 0xF000000200010080).pbcOver (.st 2 1 3 0) = false
      ∧ ((4#3).toNat ≤ 4 ∧ (4#3) ≠ 3)
      ∧ (∀ off, AtHead (h off) 0 0 (head (h off)) [] ∧ (head (h off)).instr = .st 2 1 3 0)
      ∧ (∀ off ∈ [0x10080, 0x100C8, 0x10100, 0x1FFF8], let ea := (head (h off)).snap.getX 1 + ((0#12).signExtend 64 <<< 3)
          ea.extractLsb' 60 4 = 0xF#4 ∧ ea.extractLsb' 32 6 = 2#6 ∧ (ea.extractLsb' 0 32).toNat = off ∧ off < 0x20000 ∧ (h off).ctrlCore 0 ea = some 0)
      ∧ ((h 0x4000010080).ctrlCore 0 0xF000004200010080 = some 1 ∧ (h 0x4000010080).ptnOf 1 = some (ptn (ready id)) ∧ leadCore 0 (ptn (ready id)) = 0)
      ∧ ((ready id).memOk = true ∧ 0xFFF8 < 0x10000 ∧ 0xFFF8 % 8 = 0 ∧ 15 < 16 ∧ ((ready id).wafer 0).ptnIn 0 = some (ptn (ready id)))
      ∧ (∀ st ∈ [(0 : BitVec 3), 1, 2, 3, 4], (((mail fun m => { m with st := st }).wafer 0).mailShown 0).st = st) ∧ (ptn (mail id)).kept = none
      ∧ (let t := (mail fun m => { m with st := 3 }).modPtn 0 0 fun q => { q with pre := { q.pre with held := true } }
         (ptn t).pre.held = true ∧ ((t.wafer 0).mailShown 0).st = 4 ∧ (ptn (mail id)).pre.held = false)
      ∧ ((vget (run.wafer 0).mail 0).st = 3 ∧ (ptn run).reported = false ∧ run.frozen 0 = false ∧ run.memOk = true ∧ run.parks = []
        ∧ ((vget (run.wafer 0).mail 0).lcopy.extractLsb' 640 64).toNat % 256 = 0
        ∧ targets 0 ((vget (run.wafer 0).mail 0).lcopy.extractLsb' 192 64).toNat = [0] ∧ (run.core 0).launchid.toNat = 0
        ∧ (run.modStrand 0 0 fun x => { x with st := .free }).idle 0 true = true
        ∧ run.place 0 (BitVec.ofNat 64 ((vget (run.wafer 0).mail 0).lcopy.extractLsb' 576 64).toNat) = .vault 0 0x1000 ∧ run.stops 0 0 = none
        ∧ run.placeAway 0 (BitVec.ofNat 64 ((vget (run.wafer 0).mail 0).lcopy.extractLsb' 576 64).toNat) = false) := by
  refine ⟨?_, ?_, ?_, ?_, ?_, ?_, fun off => ⟨headed_atHead _ _ _ _ (fun _ => ⟨rfl, rfl, rfl⟩) fun _ => rfl, rfl⟩, ?_, ?_, ?_, ?_, ?_, ?_⟩ <;> decide +kernel

/-- An image that the vendor's key has signed (a signature made to fit the empty image's digest), and one it has not. -/
def bootOf (good : Bool) (b : Boot) : Boot :=
  if good then
    { b with vendorKey := 0x04CDBCCF13CCF5FB909E739D65EA65D8D9D13303659633FC4273A77B839EF89C3DD9201FB25CBDA82C0B941E9A32BCC210B689D6808008568E95EFA34512BA63143989EC170C5785A3AF2B40BE0B15851614F91735AC4CABFF18A0F7836C9F7D28,
             vendorHash := 0x084080D40FE6C8BF5A43B6BBA2555CDB2C2876F3B3E2F93AFE8197232A6010BC31FF644C40370D2AAC9085E8E210979E,
             sig := 0xCE2C1829D46B258E13364C9FAC6C78DA887F6DC4452F81D0A88DAC1150271ADE0BE741F5B060571B26F7C7CC6BBA0D6DCE2C1829D46B258E13364C9FAC6C78DA887F6DC4452F81D0A88DAC1150271ADE0BE741F5B060571B26F7C7CC6BBA0D6D }
  else b

/-- Each state of power and of the plant at the edge of its clause; port 0 of a part whose far end is port 2 of another, cabled and up, and one that is
down. -/
theorem witness_PowerAndHalifResult :
    let s (f : Wafer → Wafer) := (ready id).modWafer 0 f
    let g (power clock : Nat) (t : Memory) : Plant := ⟨20000, clock, false, t, power⟩
    let two := twoParts (ringOf false)
    let down := two.modWafer 0 fun w => { w with halifs := [(0, ⟨false, 0, false, false, false, 2⟩)] }
    (((bootOf true (State.reset.wafer 0).boot).start State.reset.draws).1 = true ∧ ((bootOf false (State.reset.wafer 0).boot).start State.reset.draws).1 = false ∧ (State.reset.wafer 0).power = .boot)
      ∧ (((s id).wafer 0).power = .run ∧ (s id).fars = [])
      ∧ ((g 20001 9 []).plimit < (g 20001 9 []).power ∧ 8 < (g 20001 9 []).clock ∧ (g 20001 8 []).clock ≤ 8)
      ∧ ((g 18999 15 []).power ≤ (g 18999 15 []).plimit ∧ 100 * (g 18999 15 []).power < 95 * (g 18999 15 []).plimit ∧ (g 18999 15 []).clock < 16)
      ∧ ((g 20000 15 []).power ≤ (g 20000 15 []).plimit ∧ 95 * (g 19000 15 []).plimit ≤ 100 * (g 19000 15 []).power)
      ∧ ((g 0 9 [(0x87E, 0xF0), (0x87F, 0x05)]).past 63 false = true ∧ (g 0 9 [(0x87E, 0x90), (0x87F, 0x06)]).past 63 true = true
        ∧ (g 0 9 [(0x87E, 0xEF), (0x87F, 0x05)]).past 63 false = false ∧ (g 0 9 [(0x87E, 0x8F), (0x87F, 0x06)]).past 63 true = false)
      ∧ ((two.wafer 0).power = .run ∧ (two.wafer 0).nparts = 2 ∧ ((two.wafer 0).halif 0).cableGen = 1 ∧ (two.partOf (two.wafer 0).domid (peerIndex (two.wafer 0) 0)) = some 1
        ∧ ((two.wafer 0).halif 0).up = true ∧ ((two.wafer 0).halif 0).carries = true ∧ (two.wafer 0).chart.logIsle 0 = some 0 ∧ (two.wafer 0).ptnAt 0 = some (ptn two)
        ∧ (ptn two).dom = true ∧ (two.wafer 0).ptnIn (ptn two).slot = some (ptn two) ∧ ((down.wafer 0).halif 0).up = false ∧ ((down.wafer 0).halif 0).cableGen = 2)
      ∧ (Peer two 0 0 1 2 ∧ (∀ r m, Peer two 0 0 r m → r ≠ 0) ∧ (two.wafer 0).tileRuns (halifTile 0) = true ∧ (two.wafer 1).tileRuns (halifTile 2) = true) := by
  refine ⟨?_, ?_, ?_, ?_, ?_, ?_, ?_, ?_, ?_, ?_, ?_⟩
  case refine_9 =>
    rintro r m ⟨-, -, h, -⟩ rfl
    exact absurd h (by decide +kernel)
  case refine_8 => unfold Peer; decide +kernel
  all_goals decide +kernel

/-- A strand next in the schedule, with the bytes of w at its PC. -/
def placing (w : Nat) : State := State.reset.withFetchWord 64 w

/-- Words that decode, and that do not, at a PC that can be fetched from, of a strand that the schedule names and of one that is promoted; a misaligned
PC; a privileged instruction in U mode whose register fails; an event next in the schedule. -/
theorem witness_StepRunsDecoded :
    let s (w : Nat) := placing w
    let k (w : Nat) := (s w).core 0
    let odd := ((s 0).modStrand 0 0 fun x => { x with ctx := { x.ctx with pc := 2 } })
    (∀ w ∈ [0xE0000000, 0xFFFFFFFF, 0, 0x3E000000, 0x025313FF, 0x58106000, 0x14109002], (s w).agenda = [.strand 0 0] ∧ ((s w).strand 0 0).st = .ready ∧ ((s w).strand 0 0).hold = none ∧ (s w).halted 0 0 = false
        ∧ ((s w).strand 0 0).ctx.pc = 0 ∧ (k w).execLine 0 = true ∧ (k w).nearUe = [] ∧ (k w).stale = [] ∧ ((s w).strand 0 0).ctx.trapAt = none
        ∧ (moved (s w) []).selected 0 0 = true ∧ (k w).near.le 0 4 = w ∧ longMajor (w / 2^25 % 2^7) = false)
      ∧ ((match decode ((k 0xE0000000).near.readN 0 8) with | .ok (i, after) => i == .nop && after.length == 4 | _ => false) = true ∧ check .nop = none
        ∧ (moved (s 0xE0000000) []).eligible 0 0 .nop = true
        ∧ ((s 0xE0000000).strand 0 0).badOf (allReads ((s 0xE0000000).strand 0 0).ctx .nop) = none)
      ∧ ((odd.strand 0 0).ctx.pc.toNat % 4 ≠ 0 ∧ (moved odd []).selected 0 0 = true)
      ∧ ((match identify 0x3E000000 0 with | .error .major => true | _ => false) = true ∧ (match identify 0x025313FF 0 with | .error .function => true | _ => false) = true
        ∧ (match identify 0x58106000 0 with | .error .field => true | _ => false) = true
        ∧ (match identify 0x14109002 0 with | .ok i => check i == some .field | _ => false) = true)
      ∧ (∀ w ∈ [0xE0000000, 0], (s w).forced = none ∧ ((s w).modCore 0 fun k => { k with promoted := [0] }).forced = some (0, 0))
      ∧ (let t := (ready fun c => { c with priv := false, bad := [(8, 5)] })
         privTrap t.ctx (.csrwr 5 0x010) = true ∧ (t.strand 0 0).badOf (readsOf (.csrwr 5 0x010)) ≠ none)
      ∧ encode (.strandWake 0 0) = none := by
  refine ⟨?_, ?_, ?_, ?_, ?_, ?_, ?_⟩ <;> decide +kernel

/-- ADD and LOOP have words and are well-formed; so are the words that decode to them. -/
theorem witness_DecodeEncodeAgree :
    encode (.add 5 6 7 false) = some (32, 0x02531C00) ∧ WellFormed (.add 5 6 7 false) ∧ encode (.loop 0 5 4) = some (64, 0x0000000432028000) ∧ WellFormed (.loop 0 5 4)
      ∧ (match decode [0x00, 0x1C, 0x53, 0x02] with | .ok (i, r) => i == .add 5 6 7 false && r.isEmpty | _ => false) = true := by
  refine ⟨?_, ?_, ?_, ?_, ?_⟩ <;> first | decide +kernel | (unfold WellFormed; decide +kernel)

/-- A state that holds bytes, from which a step goes on. -/
theorem witness_StepKeepsMemory : (placing 0xE0000000).memOk = true ∧ after (step (placing 0xE0000000)) (fun _ => true) = true := by
  refine ⟨?_, ?_⟩ <;> decide +kernel

/-- A state with a strand, from which a step goes on. -/
theorem witness_StepKeepsProgramOrder : InProgramOrder (placing 0xE0000000) ∧ after (step (placing 0xE0000000)) (fun _ => true) = true := by
  refine ⟨?_, by decide +kernel⟩
  have e : ∀ c ∈ (placing 0xE0000000).cores, c.2.unitq = [] ∧ ∀ u, (c.2.strand u).loads = [] ∧ (c.2.strand u).sq = [] ∧ (c.2.strand u).wait = none
      ∧ (c.2.strand u).lost = [] := by decide +kernel
  intro c h
  exact ⟨fun u m => by simp [(e c h).1] at m, fun u => ⟨numbered_idle _ _ ((e c h).2 u), by simp [((e c h).2 u).2.1]⟩⟩

/-! ## Ill-formed terms, one for each check -/

theorem test_refused_fields :
    [check (.gnbr 1 1 4), check (.sel 1 2 3 4 4), check (.loop 3 1 1), check (.loopq 3 1 1 1 1), check (.fadd 1 2 3 7 false 1), check (.fsqrt 1 2 7 1),
      check (.ld 2 1 6 0), check (.cas 1 2 3 4 2), check (.fence 3 false false false false), check (.pand 8 1 1 0), check (.vhad 1 2 16 0 4 0)]
      = [some .field, some .field, some .field, some .field, some .field, some .field, some .field, none, some .field, some .field, some .field] := by decide

theorem test_refused_types :
    [check (.fcvt 1 2 0 4 5), check (.ld 2 1 5 0), check (.lda 2 1 4 0), check (.ldvg 1 2 3 0), check (.amoAdd 1 2 3 0), check (.cas 1 2 3 4 0),
      check (.vabs 1 1 0 1), check (.vshl 1 1 1 0 4), check (.vrcp 1 1 0 0), check (.vaddX 2 4 6 0 6), check (.vsumx 2 4 0 0), check (.vred 1 2 0 2),
      check (.vscale 1 2 3 0 0), check (.vqnt 1 2 8 0)] = List.replicate 14 (some .type) := by decide

theorem test_refused_pairs :
    [check (.ld 3 1 4 0), check (.ld 0 1 4 0), check (.fadd 5 6 7 0 true 1), check (.fmul 0 6 7 0 true 1), check (.stvx 3 1 0 0), check (.vaddX 5 2 6 0 4),
      check (.vdwadd 4 7 10 0 4), check (.vdwnorm 4 7 0 4)] = [some .pairOdd, some .pairZero, some .pairOdd, some .pairZero, some .pairOdd, some .pairOdd, some .pairOdd, some .pairOdd] := by
  decide

/-! ## Words the spec writes out -/

/-- The table of R73: words and what they are refused as, by the decoder or by the well-formedness of what they decode to. -/
theorem test_decode_refuses :
    [0x00000000, 0xFFFFFFFF, 0x1A000000, 0x02000020, 0x02000080, 0x0C006000, 0x40000048, 0x4000001D, 0x50006000, 0x40B63806, 0x40063806].map
        (fun w => match decode (leBytes w 4) with | .error e => some e | .ok (i, _) => check i)
      = [some .zeroWord, some .onesWord, some .major, some .function, some .field, some .function, some .function, some .field, some .field, some .pairOdd,
        some .pairZero] := by decide +kernel

/-- R76, R143 to R173: scalar words. -/
theorem test_decode_scalar :
    [0x04500040, 0x02742441, 0x22537FFD, 0x40A63806, 0x02530059, 0x0C53403F, 0x105D6789, 0x165312C8, 0x18531D02, 0x14531C00, 0x2FFFFFD0, 0x42531D02, 0x44530214].map (decodeTableWord 32)
      = [some (.addi 5 0 0x40), some (.sub 7 8 9 true), some (.bne 5 6 0x7FFD), some (.fadd 10 12 14 0 true 2), some (.clz 5 6 true), some (.srai 5 6 63), some (.lui 5 0xD6789),
        some (.bfx 5 6 true 11 8), some (.sel 5 6 7 8 2), some (.gaddr 5 6 7), some (.jal 0x1FFFFD0), some (.fma 5 6 7 8 0 2), some (.fcvt 5 6 4 2 4)] := by decide +kernel

/-- R184, R186, R192, R208 to R217: vector words. -/
theorem test_decode_vector :
    [0x84411C74, 0x84911C25, 0x84441C46, 0x84801441, 0x90208003, 0x90530014, 0x90910085, 0x88411840, 0x88432843, 0x88430045, 0x88810046, 0x88910047,
      0x8A410040, 0x8A411000, 0x8A415C41, 0x8A825C42, 0x8A412844, 0x8A626844, 0x8C410C41].map (decodeTableWord 32)
      = [some (.vslide 4 2 7 0 7), some (.vext 9 2 7 2), some (.vins 4 8 7 0 4), some (.vbcast 8 5 0 4), some (.pnot 2 1 0), some (.psetN 5 6 0), some (.pcnt 9 2 1),
        some (.vaddX 4 2 6 0 4), some (.vdwadd 4 6 10 0 4), some (.vdwnorm 4 6 0 4), some (.vsumx 8 2 0 4), some (.vred 9 2 0 4),
        some (.vcvt 4 2 0 0 4), some (.vcvt 4 2 4 0 0), some (.vpack 4 2 true 7 0), some (.vunpk 8 4 true 7 0 4), some (.vqnt 4 2 10 0), some (.vqntDeq 6 4 10 0),
        some (.vhad 4 2 3 0 4 1)] := by decide +kernel

/-- R258, R275, R285, R288: memory and fence words. -/
theorem test_decode_memory :
    [0x52533001, 0x54742000, 0x56943000, 0x58942000, 0x5AA43000, 0x5C428040, 0x5E42D001, 0x6042A003, 0x6442A000, 0x6642A000, 0x70900001, 0x70A00021, 0x6E000012, 0x6E000026].map (decodeTableWord 32)
      = [some (.st 5 6 3 1), some (.lda 7 8 2 0), some (.stl 9 8 3 0), some (.ldfeE 9 8 0), some (.stfe 10 8 0), some (.ldv 4 5 0 64), some (.stv 4 5 5 1), some (.ldvs 4 5 2 3),
        some (.ldvg 4 5 2 0), some (.stvx 4 5 2 0), some (.rdpb 9 0), some (.rdpb 10 2), some (.fence 1 false false true false), some (.fence 2 false true true false)] := by decide +kernel

/-- Messages, tasks, streams and traps, from the tables of chapters 13 to 17. -/
theorem test_decode_system :
    [0x00041C00C1430000, 0x00041400C1420001, 0x00000CE0C0600002, 0x00001400C0848003].map (decodeTableWord 64)
      = [some (.send 20 6 0 0 0 7 4), some (.sendv 20 4 5 4), some (.recv 6 0 0 0 7 3), some (.recvv 8 9 5)]
    ∧ [0xC8900002, 0xC8902012, 0xC8530003, 0xC8070014, 0xB4531C00, 0xB4430002, 0xB4031C14, 0xE0050051, 0xE0000003, 0xE00001F3].map (decodeTableWord 32)
      = [some (.tpop 9), some (.tpopS 9 8), some (.steal 5 6), some (.tdoneK 14), some (.satt 5 6 7), some (.spush 4 6 false), some (.smark 6 7 true), some (.trap 10 5), some (.brk 0),
        some (.brk 31)] := by decide +kernel

/-! ## Steps whose results the spec works out -/

/-- The strand after the instruction word w, from the registers f makes. -/
def ran (w : Nat) (f : Ctx → Ctx) : Ctx :=
  match decodeTableWord 32 w with
  | some i => (match exec i (ready f) with | .next t => (t.strand 0 0).ctx | _ => Ctx.zero)
  | none => Ctx.zero

/-- x[d] after it. -/
def gives (w : Nat) (d : BitVec 5) (f : Ctx → Ctx) : Word := (ran w f).getX d

/-- A vector register whose lowest lanes are l. -/
def lanes (l : List Nat) : VReg := BitVec.ofNat 512 (l.foldr (fun a r => a + 2^32 * r) 0)

/-- R145's table. -/
theorem test_integer_examples :
    gives 0x0232140D 3 (fun c => put 4 (-2) (put 5 (2^62) c)) = 0xFFFFFFFFFFFFFFFF ∧ gives 0x02530059 5 (put 6 0x0000000100000100) = 0x17
      ∧ gives 0x02531C1C 5 (fun c => put 6 0xF80 (put 7 12 c)) = 0xFFFFFFFFFFFFFF80 ∧ gives 0x02531C4F 5 (fun c => put 6 0x80000000 (put 7 (-1) c)) = 0xFFFFFFFF80000000 := by
  decide +kernel

/-- R149, R151, R154, R155, R160. -/
theorem test_immediate_and_field_examples :
    gives 0x10502469 5 id = 0x12348000 ∧ gives 0x0452D678 5 (put 5 0x12348000) = 0x12345678 ∧ gives 0x165312C8 5 (put 6 0x00ABC012) = 0xFFFFFFFFFFFFFBC0
      ∧ gives 0x14531C00 5 (fun c => put 6 0xD905F (put 7 0x400 c)) = 0x236417C000000400 := by decide +kernel

/-- JAL at 0x100 to 0x40, and the branch of R66's table taken from 0x100. -/
theorem test_jump_examples :
    let j := ran 0x2FFFFFD0 fun c => { c with pc := 0x100 }
    (j.pc = 0x40 ∧ j.getX 1 = 0x104) ∧ (ran 0x22537FFD fun c => put 5 1 { c with pc := 0x100 }).pc = 0xF4 ∧ (ran 0x22537FFD fun c => { c with pc := 0x100 }).pc = 0x104 := by
  decide +kernel

/-- R171's and R173's tables: 1 + 2^-24 to nearest and up, compared; −2.5 to even and away; 3.0e9 out of range. -/
theorem test_float_examples :
    let f := fun c => put 6 0x3F800000 (put 7 0x33800000 c)
    let g := fun c => put 6 0xC004000000000000 c
    (gives 0x40531C01 5 f = 0x3F800000 ∧ (ran 0x40531C01 f).flags = 0x10) ∧ gives 0x40531D81 5 f = 0x3F800001 ∧ (gives 0x40931C39 9 f = 4 ∧ (ran 0x40931C39 f).flags = 0)
      ∧ (gives 0x40A31D85 10 f = 0x3F800001 ∧ gives 0x40A31D85 11 f = 0xB3800000)
      ∧ gives 0x44530014 5 g = -2 ∧ gives 0x44530214 5 g = -3 ∧ gives 0x44530014 5 (put 6 0x41E65A0BC0000000) = 0x7FFFFFFF := by decide +kernel

/-- R173: a poison operand of a conversion to an integer traps and writes nothing; the instruction is not completed (R107). -/
theorem test_poison_conversion :
    let c := ran 0x44530014 fun c => put 6 0x7FFC0000000D905F (put 5 9 c)
    c.getX 5 = 9 ∧ c.cause = 0x07F ∧ c.pc = 0 ∧ c.instret = 0 := by decide +kernel

/-- The worked example of VSLIDE: elements 0 to 63 slid by −3. -/
theorem test_vslide_example :
    let c := ran 0x84411C74 fun c => put 7 (-3) (c.setV 2 (lanes ((List.range 16).map fun k => 4 * k + (4 * k + 1) * 2^8 + (4 * k + 2) * 2^16 + (4 * k + 3) * 2^24)))
    (c.getV 4).toNat % 2^64 = 0x0403020100000000 := by decide +kernel

/-- The worked example of both arms under predicates: VCMP, PNOT, and the two VMULs one by one. -/
theorem test_arms_example :
    let v := lanes [0xC1000000, 0x40400000, 0x80000000, 0x7FC00001, 0x80000001]
    let a := fun c => (c.setV 2 v).setV 8 (lanes (List.replicate 16 0x3E800000))
    let n := ran 0x804120C2 fun c => (a c).setP 1 0x11
    (ran 0x83110045 a).getP 1 = 0x11 ∧ (ran 0x90208003 fun c => c.setP 1 0x11).getP 2 = 0xFFEE ∧ (n.getV 4).toNat = 0xC0000000 + 0x80000000 * 2^128 ∧ n.flags = 0x18 := by decide +kernel

/-- The worked examples of VADD.X and VMUL.X, and of VDWADD. -/
theorem test_exact_pair_examples :
    let two (w a b : Nat) := let c := ran w fun c => (c.setV 2 (lanes [a])).setV 6 (lanes [b]); ((c.getV 4).toNat % 2^32, (c.getV 5).toNat % 2^32)
    let d := ran 0x88432843 fun c => (((c.setV 6 (lanes [0x3F800000])).setV 7 (lanes [0x30800000])).setV 10 (lanes [0xBF800000])).setV 11 (lanes [0x2B800000])
    two 0x88411840 0x3F800000 0x33800000 = (0x3F800000, 0x33800000) ∧ two 0x88411842 0x3F800001 0x3F800001 = (0x3F800002, 0x28800000)
      ∧ two 0x88411842 0x0D800000 0x30800001 = (0x00080000, 0) ∧ two 0x88411840 0x7F7FFFFF 0x7F7FFFFF = (0x7F800000, 0x7FC000F0)
      ∧ ((d.getV 4).toNat, (d.getV 5).toNat, d.flags) = (0x30802000, 0, 0) := by decide +kernel

/-- The worked example of the reductions: 2^24 and fifteen ones. -/
theorem test_reduction_examples :
    let f := fun c => c.setV 2 (lanes (0x4B800000 :: List.replicate 15 0x3F800000))
    let s := ran 0x88810046 f
    let r := ran 0x88910047 f
    ((s.getV 8).toNat, (s.getV 9).toNat, s.flags) = (0x4B800008, 0xBF800000, 0) ∧ ((r.getV 9).toNat, r.flags) = (0x4B800007, 0x10) := by decide +kernel

/-- The worked examples of VQNT and its reverse, of VPACK and VUNPK under MX, and of VHAD. -/
theorem test_quantise_examples :
    let q := ran 0x8A412844 fun c => c.setV 2 (lanes [0x40400000, 0xBFA00000, 0x3EC00000, 0x3DCCCCCD])
    let z := ran 0x8A626844 fun c => c.setV 4 (lanes [0x0618D860] ||| (0xFE81#512 <<< 496))
    let p := ran 0x8A415C41 fun c => c.setV 2 (lanes [0x40A00000, 0xBFA00000, 0x3E99999A, 0x40E00000])
    let u := ran 0x8A825C42 fun c => c.setV 4 (lanes [0x71A6] ||| (0x7F#512 <<< 504))
    let h := ran 0x8C410C41 fun c => c.setV 2 (lanes [0x3F800000, 0x40000000, 0x40400000, 0x40800000])
    (q.getV 4 = lanes [0x0618D860] ||| (0xFE81#512 <<< 496) ∧ q.flags = 0x10) ∧ (z.getV 6 = lanes [0x40400000, 0xBFA00000, 0x3EC00000, 0x3DC00000] ∧ z.flags = 0)
      ∧ (p.getV 4 = lanes [0x71A6] ||| (0x7F#512 <<< 504) ∧ p.flags = 0x58) ∧ (u.getV 8 = lanes [0x40800000, 0xBF800000, 0x3F000000, 0x40C00000] ∧ u.getV 9 = 0)
      ∧ (h.getV 4 = lanes [0x40A00000, 0xBF800000, 0xC0000000] ∧ h.flags = 0) := by decide +kernel

/-- R75: a write to x0 and to p0 is discarded. -/
theorem test_hardwired : gives 0x04000040 0 id = 0 ∧ (ran 0x90030014 (put 6 5)).getP 0 = -1 := by decide +kernel

/-- R415, R416: TRAP 5, x10 and BRK 0 at PC 0x100, with handlers at 0x200. -/
theorem test_trap_examples :
    let t := ran 0xE0050051 fun c => put 10 77 { c with pc := 0x100, tvec := 0x200, priv := false }
    let b := ran 0xE0000003 fun c => { c with pc := 0x100, tvec := 0x200, priv := false }
    (t.pc, t.epc, t.cause, t.tval, t.priv, t.ppriv, t.instret) = (0x200, 0x104, 0x015, 77, true, false, 1)
      ∧ (b.pc, b.epc, b.cause, b.tval, b.instret) = (0x200, 0x100, 0x020, 0xE0000003, 0) := by decide +kernel

/-! ## The published algorithms, on their standards' own examples (log 4) -/

/-- FIPS 180-4's example "abc". -/
theorem test_sha384_abc : Crypto.beNat (Crypto.sha384 [0x61, 0x62, 0x63]) =
    0xCB00753F45A35E8BB5A03D699AC65007272C32AB0EDED1631A8B605A43FF5BED8086072BA1E7CC2358BAECA134C825A7 := by decide +kernel

/-- FIPS 197, appendix C.3: AES-256, both ways. -/
theorem test_aes256 :
    let key := (List.range 32).map (BitVec.ofNat 8)
    let plain := Crypto.beBytes 0x00112233445566778899AABBCCDDEEFF 16
    let cipher := Crypto.beBytes 0x8EA2B7CA516745BFEAFC49904B496089 16
    Crypto.aesEnc key plain = cipher ∧ Crypto.aesDec key cipher = plain := by decide +kernel

end Sys2Proof.Tests
end

section
/-!
PROOF. The integer register forms (R143 to R145) read the numbers of bit vectors of the operation's width and write the
bits of a number back: what these readings are as bit vectors, and from them the results of division (R144).
-/
namespace Sys2Proof.Spec
open Sys2Proof.Num Sys2Proof.Machine

/-! ## Numbers and the bit vectors they stand for -/

/-- R16: the model's two's complement reading of a bit vector's bits is its signed value. -/
theorem sx_toNat {n : Nat} (x : BitVec n) : sx n x.toNat = x.toInt := by
  simp [sx, ITy.value, Nat.mod_eq_of_lt x.isLt, BitVec.toInt_eq_msb_cond, BitVec.msb_eq_decide]

/-- The two's complement reading looks at the low bits alone. -/
theorem sx_eq_toInt_ofNat (n v : Nat) : sx n v = (BitVec.ofNat n v).toInt := by
  rw [← sx_toNat]
  simp [sx, ITy.value]

/-- R145: the sign extension of a result's low bits. -/
theorem sx64_eq_signExtend (n v : Nat) : sx64 n v = (BitVec.ofNat n v).signExtend 64 := by
  rw [sx64, sx_eq_toInt_ofNat, BitVec.signExtend]

/-- An integer's low bits, as a number, are those of its two's complement word. -/
theorem ofNat_bitsOf (n : Nat) (v : Int) : BitVec.ofNat n (bitsOf n v) = BitVec.ofInt n v := by
  apply BitVec.eq_of_toNat_eq
  rw [BitVec.toNat_ofNat, BitVec.toNat_ofInt, bitsOf]
  have hpos : (0 : Int) < ((2^n : Nat) : Int) := by exact_mod_cast Nat.two_pow_pos n
  have hlt := Int.emod_lt_of_pos v hpos
  exact Nat.mod_eq_of_lt (by omega)

/-! ## The integer register forms (R143, R145) -/

/-- The value an integer form writes, of either width, where its operation on numbers is the operation `f` on bit vectors. -/
theorem narrowW_eq_wide (w : Bool) (g : Nat → Nat → Nat → Nat) (f : ∀ n, BitVec n → BitVec n → BitVec n) (x y : Word)
    (hf : ∀ n (x y : BitVec n), BitVec.ofNat n (g n x.toNat y.toNat) = f n x y) :
    narrowW w (g (widthW w) (lowW w x) (lowW w y)) = wide w f x y := by
  cases w with
  | false => simp [narrowW, widthW, lowW, wide, hf]
  | true => simp [narrowW, widthW, lowW, wide, sx64_eq_signExtend, ← hf]

/-- An integer form completes in every state with the result of its operation on bit vectors. -/
theorem completes_intOp (i : Instr) (s : State) (w : Bool) (d a b : BitVec 5) (g : Nat → Nat → Nat → Nat)
    (f : ∀ n, BitVec n → BitVec n → BitVec n) (h : exec i s = .next (s.intOp w d a b g))
    (hf : ∀ n (x y : BitVec n), BitVec.ofNat n (g n x.toNat y.toNat) = f n x y) :
    Completes i s 4 (WroteX d (wide w f (s.ctx.getX a) (s.ctx.getX b))) := by
  rw [← narrowW_eq_wide w g f _ _ hf]
  exact completes_setX i s d _ 4 h

/-! ## Division (R144) -/

/-- The edge case of every division is the divisor 0. -/
theorem ofNat_ite_divisor {n : Nat} (y edge : BitVec n) (v : Nat) :
    BitVec.ofNat n (if y.toNat = 0 then edge.toNat else v) = if y = 0 then edge else BitVec.ofNat n v := by
  have hy : y.toNat = 0 ↔ y = 0 := BitVec.toNat_inj (y := 0)
  simp only [hy, apply_ite (BitVec.ofNat n), BitVec.ofNat_toNat, BitVec.setWidth_eq]

theorem ofNat_divN (n : Nat) (x y : BitVec n) :
    BitVec.ofNat n (divN n x.toNat y.toNat) = if y = 0 then BitVec.allOnes n else BitVec.ofInt n (x.toInt.tdiv y.toInt) := by
  rw [divN, ← BitVec.toNat_allOnes, ofNat_ite_divisor, ofNat_bitsOf, sx_toNat, sx_toNat]

theorem ofNat_divuN (n : Nat) (x y : BitVec n) :
    BitVec.ofNat n (divuN n x.toNat y.toNat) = if y = 0 then BitVec.allOnes n else x / y := by
  rw [divuN, ← BitVec.toNat_allOnes, ofNat_ite_divisor, ← BitVec.toNat_udiv, BitVec.ofNat_toNat, BitVec.setWidth_eq]

theorem ofNat_remN (n : Nat) (x y : BitVec n) :
    BitVec.ofNat n (remN n x.toNat y.toNat) = if y = 0 then x else BitVec.ofInt n (x.toInt.tmod y.toInt) := by
  rw [remN, ofNat_ite_divisor, ofNat_bitsOf, sx_toNat, sx_toNat]

theorem ofNat_remuN (n : Nat) (x y : BitVec n) : BitVec.ofNat n (remuN x.toNat y.toNat) = if y = 0 then x else x % y := by
  rw [remuN, ofNat_ite_divisor, ← BitVec.toNat_umod, BitVec.ofNat_toNat, BitVec.setWidth_eq]

/-- Settles O2: each division is an integer form, whose ending changes its destination alone, over one of the four operations above. -/
theorem divisionResult : Obligations.DivisionResult := by
  intro s d a b w
  refine ⟨?div, ?divu, ?rem, ?remu⟩
  case div => exact completes_intOp _ s w d a b divN _ rfl ofNat_divN
  case divu => exact completes_intOp _ s w d a b divuN _ rfl ofNat_divuN
  case rem => exact completes_intOp _ s w d a b remN _ rfl ofNat_remN
  case remu => exact completes_intOp _ s w d a b (fun _ => remuN) _ rfl ofNat_remuN

end Sys2Proof.Spec
end

section
/-!
PROOF. TRAP and BRK (R415, R416): the count of an instruction (R126) and the loop step (R164) do not touch each other, so
the return address and the loop counters TRAP leaves are those of the loop step alone.
-/
namespace Sys2Proof.Machine

/-! ## The count and the loop step (R126, R164) -/

theorem Ctx.endLoop_count (c : Ctx) (n : Nat) : c.count.endLoop n = (c.endLoop n).count := by
  have hlc : c.count.getLc n = c.getLc n := rfl
  unfold Ctx.endLoop
  rw [hlc]
  split <;> rfl

theorem Ctx.stepRank_count (c : Ctx) (r : BitVec 2) (n : Word) :
    c.count.stepRank r n = ((c.stepRank r n).1.count, (c.stepRank r n).2) := by
  have hloop : c.count.loopOfRank r = c.loopOfRank r := rfl
  have hlc (i : Nat) : c.count.getLc i = c.getLc i := rfl
  unfold Ctx.stepRank
  rw [hloop]
  cases c.loopOfRank r with
  | none => rfl
  | some i =>
    dsimp only
    rw [hlc, Ctx.endLoop_count]
    split
    next => rfl
    next =>
      split
      next => rfl
      next => rfl

theorem Ctx.seqTo_count (c : Ctx) (n : Word) : c.count.seqTo n = (c.seqTo n).count := by
  unfold Ctx.seqTo
  rw [Ctx.stepRank_count]
  rcases c.stepRank 2 n with ⟨c2, _ | _⟩
  case true => rfl
  case false =>
    dsimp only
    rw [Ctx.stepRank_count]
    rcases c2.stepRank 1 n with ⟨c1, _ | _⟩
    case true => rfl
    case false =>
      dsimp only
      rw [Ctx.stepRank_count]
      rcases c1.stepRank 0 n with ⟨c0, _ | _⟩ <;> rfl

/-- A completion goes where the loop step goes. -/
theorem Ctx.retire_pc_eq_seqTo (c : Ctx) (len : Nat) : (c.retire len).pc = (c.seqTo (c.pc + BitVec.ofNat 64 len)).pc := by
  rw [Ctx.retire, Ctx.seqTo_count, Ctx.count_pc]

/-- A completion leaves the loop counters of the loop step. -/
theorem Ctx.retire_lc_eq_seqTo (c : Ctx) (len : Nat) : (c.retire len).lc = (c.seqTo (c.pc + BitVec.ofNat 64 len)).lc := by
  rw [Ctx.retire, Ctx.seqTo_count, Ctx.count_lc]

@[simp] theorem Ctx.retire_priv (c : Ctx) (len : Nat) : (c.retire len).priv = c.priv := by simp only [c.retire_frame len]
@[simp] theorem Ctx.retire_tvec (c : Ctx) (len : Nat) : (c.retire len).tvec = c.tvec := by simp only [c.retire_frame len]

/-! ## The word a breakpoint shows (R73, R416) -/

theorem illTval_brk (n : BitVec 5) : illTval (.brk n) = 0xE0000003 + n.setWidth 64 * 16 := by
  show BitVec.ofNat 64 (0xE0000003 + n.toNat * 2^4) = _
  rw [BitVec.ofNat_add, BitVec.ofNat_mul, BitVec.ofNat_toNat]
  rfl

end Sys2Proof.Machine

namespace Sys2Proof.Spec
open Sys2Proof.Machine

/-- d with the registers a trap entry writes (R386), PC apart, as they are in c. -/
def putTrapRegs (c d : Ctx) : Ctx :=
  { d with cause := c.cause, tval := c.tval, epc := c.epc, ppriv := c.ppriv, priv := c.priv, trapAt := c.trapAt }

/-- R386: a trap entry changes its registers alone, whatever registers it is entered from. -/
theorem kept_trap {c d : Ctx} (h : SameRegs c d) (n : Nat) (e v : Word) : Kept (putTrapRegs c) c (d.trap n e v) := by
  unfold SameRegs at h
  exact congrArg (putTrapRegs c) h

/-- Settles O10: TRAP enters its trap from the completed registers, of which the loop step gives PC and the loop counters. -/
theorem trapEntersAfterCompletion : Obligations.TrapEntersAfterCompletion := by
  refine ⟨fun s a n => ⟨_, rfl, regsOnly_putCtx _ _, ?_⟩, by decide +kernel⟩
  rw [State.ctx_putCtx]
  refine ⟨rfl, rfl, ?epc, ?lc, (counted_retire _ _).instret, s.ctx.retire_priv 4, rfl, s.ctx.retire_tvec 4,
    kept_trap (retire_rest _ _) _ _ _⟩
  case epc => exact s.ctx.retire_pc_eq_seqTo 4
  case lc => exact s.ctx.retire_lc_eq_seqTo 4

/-- Settles O11: BRK's meaning is the synchronous trap (R386) with its word as the value. -/
theorem breakpointTraps : Obligations.BreakpointTraps := by
  refine ⟨fun s n => ?_, by decide +kernel, by decide +kernel⟩
  rw [← illTval_brk]
  exact traps_of _ _ _ _ rfl

end Sys2Proof.Spec
end
